-- ==== Sys2Proof/Word.lean ====
section
/-! DEFINITION. The word types of the machine and nothing else (R3, R4). -/
namespace Sys2Proof

/-- One byte of memory. -/
abbrev Byte := BitVec 8
/-- A 32-bit register, or one thread's share of a vector register (R183). -/
abbrev Word := BitVec 32
/-- A 64-bit pointer, counter or instruction word (R200, R313). -/
abbrev DWord := BitVec 64
/-- One bit for each of a group's 128 threads (R183). -/
abbrev Mask := BitVec 128

end Sys2Proof
end

