-- ==== Sys2Proof/Syntax.lean ====
section
/-! DEFINITION. The steps of the machine as data: one constructor of `Instr` for every row of the opcode table.
A row of the Idivo set carries the fields of its form (R320-R330); an awl row carries the R-type fields of R246; a row
that is a device event or a Bridle command carries what the outside world or the choosing agent supplies with it. -/
namespace Sys2Proof

/-- The fields of an F3 word, and of an FM word, whose drawing is the same (R320, R325). -/
structure F3 where
  pm : BitVec 4 := 0
  ty : BitVec 4 := 0
  md : BitVec 3 := 0
  x  : BitVec 7 := 0
  d  : BitVec 11 := 0
  a  : BitVec 11 := 0
  b  : BitVec 11 := 0
  deriving DecidableEq, Repr, Inhabited

/-- The fields of an FI word; `imm` is imm21 (R322). -/
structure FI where
  pm  : BitVec 4 := 0
  ty  : BitVec 4 := 0
  imm : BitVec 21 := 0
  d   : BitVec 11 := 0
  a   : BitVec 11 := 0
  deriving DecidableEq, Repr, Inhabited

/-- The fields of an FL word (R323). -/
structure FL where
  d   : BitVec 11
  imm : BitVec 32
  deriving DecidableEq, Repr, Inhabited

/-- The fields of an FB word (R324). -/
structure FB where
  pm   : BitVec 4 := 0
  cc   : BitVec 3 := 0
  neg  : BitVec 1 := 0
  disp : BitVec 32 := 0
  deriving DecidableEq, Repr, Inhabited

/-- The fields of an FR word; `cnt` is COUNT - 1 (R327). -/
structure FR where
  cnt  : BitVec 6
  dinc : BitVec 4
  ainc : BitVec 4
  binc : BitVec 4
  deriving DecidableEq, Repr, Inhabited

/-- One half of a paired word (R330). -/
structure Half where
  ho : BitVec 6 := 0
  pm : BitVec 3 := 0
  d  : BitVec 8 := 0
  a  : BitVec 9 := 0
  deriving DecidableEq, Repr, Inhabited

/-- The register fields of a cache-side instruction of an awl (R246). -/
structure AwlR where
  rd  : BitVec 5 := 0
  rs1 : BitVec 5 := 0
  rs2 : BitVec 5 := 0
  deriving DecidableEq, Repr, Inhabited

/-- The straps of R35. -/
structure Straps where
  bootsrc  : BitVec 2 := 0
  pciemaxw : BitVec 2 := 0
  smbaddr  : BitVec 2 := 0
  novendor : Bool := false
  deriving DecidableEq, Repr, Inhabited

/-- RV32I branch conditions. -/
inductive RvCond | eq | ne | lt | ge | ltu | geu
  deriving DecidableEq, Repr

/-- RV32I loads and stores, by width and extension. -/
inductive RvWidth | b | h | w | bu | hu
  deriving DecidableEq, Repr

/-- RV32I and M register operations; the immediate forms use the first ten. -/
inductive RvAlu
  | add | slt | sltu | xor | or | and | sll | srl | sra | sub
  | mul | mulh | mulhsu | mulhu | div | divu | rem | remu
  deriving DecidableEq, Repr

/-- RV32A read-modify-write operations. -/
inductive RvAmo | swap | add | xor | and | or | min | max | minu | maxu
  deriving DecidableEq, Repr

/-- Zicsr operations. -/
inductive RvCsr | rw | rs | rc
  deriving DecidableEq, Repr

/-- An instruction of RV32IMAC with Zicsr as an awl executes it (R239); a compressed one is the instruction it stands for. -/
inductive Rv
  | lui (rd : BitVec 5) (imm : Word)
  | auipc (rd : BitVec 5) (imm : Word)
  | jal (rd : BitVec 5) (off : Word)
  | jalr (rd rs1 : BitVec 5) (off : Word)
  | branch (c : RvCond) (rs1 rs2 : BitVec 5) (off : Word)
  | load (wd : RvWidth) (rd rs1 : BitVec 5) (off : Word)
  | store (wd : RvWidth) (rs2 rs1 : BitVec 5) (off : Word)
  | opImm (o : RvAlu) (rd rs1 : BitVec 5) (imm : Word)
  | op (o : RvAlu) (rd rs1 rs2 : BitVec 5)
  | fence
  | lr (rd rs1 : BitVec 5)
  | sc (rd rs1 rs2 : BitVec 5)
  | amo (o : RvAmo) (rd rs1 rs2 : BitVec 5)
  | csr (o : RvCsr) (rd : BitVec 5) (csr : BitVec 12) (rs1 : BitVec 5)
  | csri (o : RvCsr) (rd : BitVec 5) (csr : BitVec 12) (imm : BitVec 5)
  | ecall | ebreak | wfi | illegal
  deriving DecidableEq, Repr

/-- The macro codes of an error record (R292) that an SRAM or HBM error names, with the place of the error. -/
inductive ErrSite
  | vreg (core cp row : Nat)            -- a row of a vector register file
  | sreg (core row : Nat)               -- a row of 64 scalar registers
  | mask (gid : Nat)                    -- mask, condition or latch storage of a group slot
  | spm (core off : Nat)
  | tile (core word : Nat)
  | bstore (core off : Nat)
  | l1 (core line : Nat)
  | istore (core line : Nat)
  | l2 (pa : Nat)
  | hbm (pa : Nat)
  | awl (slice : Nat)
  | bridle
  deriving DecidableEq, Repr

/-- One row of the opcode table each. -/
inductive Instr
  /-- COLD_RESET (R36): PWROK rises: the straps and PRESENCE_N are sampled and all device state, reliable mode and HBM contents are reset. -/
  | coldReset (straps : Straps) (presenceLow reliable : Bool)
  /-- WARM_RESET (R36): PERST_N deasserts, or PF0 takes an FLR: all state except straps and reliable mode is reset and the boot ROM verifies and starts firmware. -/
  | warmReset
  /-- FIRMWARE_READY (R37): The firmware reports ready, and configuration requests stop completing with Retry Status. -/
  | firmwareReady
  /-- VF_FLR (R36): An FLR of a virtual function resets that partition's contexts, queues and work and advances its reset generation. -/
  | vfFlr (fn : Nat)
  /-- PWRBRAKE_ASSERT (R18): The board asserts PWRBRAKE_N, and both dies drop to an 800 MHz core clock within 10 us. -/
  | pwrbrakeAssert
  /-- PWRBRAKE_RELEASE (R18): PWRBRAKE_N is released, and the power firmware resumes control of the core clocks. -/
  | pwrbrakeRelease (mhz0 mhz1 : Nat)
  /-- THERMAL_THROTTLE (R17): A die reaches 95 C, and the firmware lowers its core clock in 25 MHz steps. -/
  | thermalThrottle (die steps : Nat)
  /-- THERMTRIP (R17): A die reaches 105 C: hardware stops all clocks, asserts THERMTRIP_N and holds the package in reset. -/
  | thermtrip (die : Nat)
  /-- POWER_LIMIT_EXCEEDED (R16): Reported rail power exceeds the Bridle's limit, and firmware lowers the core clocks within 1 ms. -/
  | powerLimitExceeded (watts mhz0 mhz1 : Nat)
  /-- CORE_CLOCK_CHANGE (R14): A new core clock of a die takes effect at a core instruction boundary without changing architectural state. -/
  | coreClockChange (die mhz : Nat)
  /-- FLIT_CRC_FAIL (R28): A Girth flit fails its CRC, and the receiver has the sender replay from the flit's sequence number. -/
  | flitCrcFail (dir chan seq : Nat)
  /-- LINK_RETRAIN (R29): After too many replays or a lane failure the Girth link retrains, stalling every sender and freezing every watchdog. -/
  | linkRetrain (lanes0 lanes1 : Nat)
  /-- LINK_RETRAIN_END (R30): A retraining ends, at full or half width with spares substituted, and traffic resumes from the first unacknowledged flit. -/
  | linkRetrainEnd (ok : Bool)
  /-- HOT_PLUG (R33): An output's hot-plug detect pin changes, and event 0x08 is written to PF0's event log. -/
  | hotPlug (out : Nat) (attached : Bool)
  /-- BAR_RESIZE (R22): The host resizes a memory window: WCTL.EN clears and the new size applies when decoding is next enabled. -/
  | barResize (fn log2 : Nat)
  /-- WINDOW_ACCESS (R40): A host access through a memory window is translated and checked against the frame ownership table, or completes as UR or Completer Abort. -/
  | windowAccess (fn off : Nat) (write : Option (List Byte)) (len : Nat)
  /-- ATS_INVALIDATION (R23): A host ATS invalidation drops a cached translation and completes after every access that used it. -/
  | atsInvalidation (pasid page : Nat) (absent : Bool)
  /-- PRI_RESPONSE (R211): The host's page request response releases the parked group for replay, or traps PAGE on failure. -/
  | priResponse (pasid page : Nat) (ok : Bool)
  /-- REGISTER_WRITE (R38): A host write to a register without its own row stores the value, or is discarded when reserved or locked. -/
  | registerWrite (fn off : Nat) (v : Word)
  /-- WCTL_WRITE (R41): A write of WCTL.EN enables the memory window, refused when WBASE is not aligned to the window size. -/
  | wctlWrite (fn : Nat) (v : Word)
  /-- QCTL_ENABLE (R43): A write of QCTL.EN 1 while clear resets the queue pointers and status and starts the queue. -/
  | qctlEnable (fn ctx : Nat) (v : Word)
  /-- QCTL_DISABLE (R43): A write of QCTL.EN 0 stops fetching after the command in progress. -/
  | qctlDisable (fn ctx : Nat) (v : Word)
  /-- QWPTR_WRITE (R45): A doorbell write advances the queue's write pointer, or halts it with OVERRUN when the queue overflows. -/
  | qwptrWrite (fn ctx : Nat) (v : Word)
  /-- ELCTL_WRITE (R84): A write of ELCTL sets the log's vectors and clears OVF, and EN 1 enables the log, clearing its pointers unless the partition is paused. -/
  | elctlWrite (fn : Nat) (v : Word)
  /-- NONCE (R67): The security block returns a fresh 48-byte nonce for ENROLL. -/
  | nonce
  /-- ENROLL (R64): Programs an empty owner key slot when both signatures over the nonce verify in a presence session. -/
  | enroll
  /-- REVOKE (R64): Blows a key slot's REVOKED fuse unless that would leave no usable slot or valid image. -/
  | revoke
  /-- VENDOROFF (R62): Blows the VENDOROFF fuse, permanently disabling Worrek's slot 0, subject to the refusal rule. -/
  | vendoroff
  /-- SVNSET (R64): Raises the fused minimum security version, subject to a valid image meeting it. -/
  | svnset
  /-- SEAL (R63): Ends the presence session, so later key-slot requests fail with NOPRESENCE. -/
  | seal
  /-- FWSTAGE (R65): Verifies a new image, writes it to the area not booted and points the selector at it. -/
  | fwstage
  /-- S2ROOT (R212): Sets a partition's stage-2 root and invalidates its whole IPA space. -/
  | s2root
  /-- S2INVAL (R212): Invalidates entries derived from covered stage-2 entries in every context of a partition and releases parked groups. -/
  | s2inval
  /-- FOTSET (R214): Records frames' owner, SHRO and PMODE; an owner change releases pins, invalidates, zeroes the frames and clears poison. -/
  | fotset
  /-- ERRREAD (R292): Returns error-table records from a given record number onward. -/
  | errread
  /-- OUTSET (R34): Checks an output configuration, trains the link and applies it at the next latch point, or disables scanout. -/
  | outset (trained : Bool)
  /-- UNKNOWN_MAILBOX_REQUEST (R67): A mailbox request with an unlisted code completes with status 0x01 and changes nothing. -/
  | unknownMailboxRequest
  /-- GET_VERSION (R68): SPDM request over Data Object Exchange returning the supported version. -/
  | getVersion (req : List Byte)
  /-- GET_CAPABILITIES (R68): SPDM request returning the responder's capabilities. -/
  | getCapabilities (req : List Byte)
  /-- NEGOTIATE_ALGORITHMS (R68): SPDM request settling on RSASSA-3072 and SHA-384. -/
  | negotiateAlgorithms (req : List Byte)
  /-- GET_DIGESTS (R68): SPDM request returning certificate chain digests. -/
  | getDigests (req : List Byte)
  /-- GET_CERTIFICATE (R68): SPDM request returning the device identity chain of slot 0. -/
  | getCertificate (req : List Byte)
  /-- CHALLENGE (R69): SPDM challenge answered with RSA and SLH-DSA signatures over the transcript. -/
  | challenge (req : List Byte)
  /-- GET_MEASUREMENTS (R70): SPDM request returning the measurement blocks, signed when asked. -/
  | getMeasurements (req : List Byte)
  /-- CMD_NOP (R49): Queue command that does nothing. -/
  | cmdNop (fn ctx : Nat)
  /-- CMD_LAUNCH (R115): Host LAUNCH: the Bridle reads and checks a launch record and submits it to its home scheduler, or refuses it with a cause. -/
  | cmdLaunch (fn ctx : Nat)
  /-- COPY (R53): Starts a host copy-engine transfer between host and device memory. -/
  | copy (fn ctx : Nat)
  /-- HOST_COPY_COMPLETE (R53): A host copy finishes all bytes with a system-scope release, or stops on an unresolvable fault with event 0x05. -/
  | hostCopyComplete (id : Nat)
  /-- FENCE_WAIT (R52): Holds later commands of the queue until a 64-bit memory value reaches an operand. -/
  | fenceWait (fn ctx : Nat)
  /-- FENCE_WAIT_RECHECK (R52): The Bridle rereads a waiting fence value after a signal, a launch completion or 10 us, and releases the queue when satisfied. -/
  | fenceWaitRecheck (fn ctx : Nat)
  /-- FENCE_SIGNAL (R52): After earlier commands complete, writes a 64-bit value with a system-scope release. -/
  | fenceSignal (fn ctx : Nat)
  /-- PRESENT_SHOW (R107): Ends the context's frame and queues a finished surface to its show queue for an output. -/
  | presentShow (fn ctx : Nat)
  /-- PRESENT_CAPTURE (R106): Ends the context's frame and queues a capture surface to its capture queue for an output. -/
  | presentCapture (fn ctx : Nat)
  /-- INVAL (R209): Invalidates stage-1 translations of a range and completes when old entries, walks and users are gone and parked groups released. -/
  | inval (fn ctx : Nat)
  /-- RES_FENCE (R237): Residency fence: cores discard cached map words, descriptor and filter of a resource, and earlier readers complete. -/
  | resFence (fn ctx : Nat)
  /-- AWL_REG_REGISTER (R243): Registers an awl handler image and triggers for a window of the context. -/
  | awlRegRegister (fn ctx : Nat)
  /-- AWL_REG_REMOVE (R243): Removes an awl window after every invocation of it has ended. -/
  | awlRegRemove (fn ctx : Nat)
  /-- GRANT_CREATE (R101): Creates a consent grant in a free slot and increments its generation. -/
  | grantCreate (fn ctx : Nat)
  /-- GRANT_CHANGE (R101): Changes an occupied consent grant slot whose generation matches. -/
  | grantChange (fn ctx : Nat)
  /-- GRANT_WITHDRAW (R101): Withdraws a consent grant and frees its slot. -/
  | grantWithdraw (fn ctx : Nat)
  /-- OWNMAP_TILES (R97): Writes a rectangle of tile entries of an output ownership plane. -/
  | ownmapTiles (fn ctx : Nat)
  /-- OWNMAP_BLOCKS (R97): Writes per-pixel brand blocks of an output ownership plane. -/
  | ownmapBlocks (fn ctx : Nat)
  /-- OWNMAP_ASSIGN (R95): Assigns an output to a partition, clearing its planes, regions, present queues and kind-1 grants. -/
  | ownmapAssign (fn ctx : Nat)
  /-- OWNMAP_REGION (R104): Writes one of the output's 16 effect regions. -/
  | ownmapRegion (fn ctx : Nat)
  /-- CTX_CREATE (R55): Creates a context with its brand, allow-list, tables and save area. -/
  | ctxCreate (fn ctx : Nat)
  /-- CTX_DESTROY (R55): Stops a context's queue, ends its launches, aborts its awls and releases all its resources. -/
  | ctxDestroy (fn ctx : Nat)
  /-- CTX_RECONFIGURE (R55): Sets an idle context's tables, watchdog, trap base, save area and pin quota. -/
  | ctxReconfigure (fn ctx : Nat)
  /-- PART_CFG (R72): Writes a partition's configuration entry after the checks of R73 and R74. -/
  | partCfg (fn ctx : Nat)
  /-- PART_CFG_DISABLE (R74): A PART_CFG writing EN from 1 to 0 acts as an FLR of the partition's virtual function. -/
  | partCfgDisable (fn ctx : Nat)
  /-- PART_PAUSE (R88): PAUSE from 0 to 1 stops fetching, pre-empts and saves all work, flushes pending log records and writes event 0x06. -/
  | partPause (fn ctx : Nat)
  /-- PART_RESUME (R89): PAUSE from 1 to 0 restores the contexts, resumes fetching, sets GEN and signals vectors with pending records. -/
  | partResume (fn ctx : Nat)
  /-- UNKNOWN_COMMAND (R51): A command with an unknown opcode is refused with status 0x01 and fetching continues. -/
  | unknownCommand (fn ctx : Nat)
  /-- LATCH_POINT (R109): At vertical blanking an output applies completed OWNMAPs and latches each eligible context's newest finished entry and the oldest capture. -/
  | latchPoint (out : Nat)
  /-- SCANOUT (R105): The Stitcher composes each output pixel from front and back owners and effect regions, writes captures and reports frame events. -/
  | scanout (out : Nat)
  /-- BLOCK_PLACE (R120): The scheduler places the next block or team of a launch on a core that passes the resource check, whole. -/
  | blockPlace (die part : Nat)
  /-- BLOCK_RETIRE (R124): A block retires once its groups, copies and child grids are done, freeing its resources and counters. -/
  | blockRetire (bid : Nat)
  /-- ARMED_LAUNCH_START (R127): An armed launch starts when its counter reaches zero, or fails its drain-reservation check and completes at once. -/
  | armedLaunchStart (bid k : Nat)
  /-- TEMPORAL_QUANTUM_EXPIRY (R80): A temporal partition's deficit reaches zero and it is pre-empted and releases the core. -/
  | temporalQuantumExpiry (core : Nat)
  /-- BATCH_TIMEOUT (R131): A work-graph open batch reaches its timeout and becomes ready partly filled. -/
  | batchTimeout (lid die node : Nat)
  /-- BATCH_DISPATCH (R132): Idle cores take ready batches through the combining tree, or the head runs in its node's drain reservation. -/
  | batchDispatch (die : Nat)
  /-- TRAVEL_PIN (R141): Enough participating cores are eligible, and segments are pinned, loaded and given scratchpad and assembly buffers. -/
  | travelPin (lid : Nat)
  /-- HOP_ARRIVAL (R149): A hop record or shipped thread reaches its replica and joins the arrival queue or an assembly buffer. -/
  | hopArrival (lid idx : Nat)
  /-- ARRIVAL_ADMIT (R149): The head of a core's arrival queue is admitted as a group ahead of new blocks. -/
  | arrivalAdmit (core : Nat)
  /-- ASSEMBLY_TIMEOUT (R147): An assembly buffer's timeout expires and its threads become a partial group. -/
  | assemblyTimeout (core entry : Nat)
  /-- SEGMENT_REPLICATE (R150): A segment whose replicas have stayed busy for 4096 clocks is replicated on a spare core. -/
  | segmentReplicate (lid seg : Nat)
  /-- REPLICA_RETIRE (R151): A replica idle for 65,536 fabric clocks leaves the choice, drains and frees its code, scratchpad and buffers. -/
  | replicaRetire (core : Nat)
  /-- BIN_CHUNK (R163): A die shades a chunk of a draw, culls triangles and sends entries to the tile owners' binners. -/
  | binChunk (lid : Nat)
  /-- TILE_PASS_START (R167): After every binner has finished, a tile's block is placed and its merged list processed. -/
  | tilePassStart (lid : Nat)
  /-- PIXEL_GROUP_START (R169): A pixel group starts once no earlier group of the tile touching its quads is running. -/
  | pixelGroupStart (bid : Nat)
  /-- MESH_GROUP_ADMIT (R178): A mesh group of an occupied payload slot is admitted in slot fill order. -/
  | meshGroupAdmit (core : Nat)
  /-- PMODE_WINDOW_END (R219): At the end of a 65,536-clock window a frame may switch between memory-side and replicated mode. -/
  | pmodeWindowEnd (frame : Nat)
  /-- MEMORY_RESPONSE (R406): Data of a load, atomic, sample or ray query return and are written to the destination registers. -/
  | memoryResponse (gid : Nat)
  /-- COPY_COMPLETE (R453): A copy's last sector write completes: it writes its status bits and then decrements its counter. -/
  | copyComplete (core idx : Nat)
  /-- COPY_STOP (R454): A copy stops on a fault, refusal or poison, records its iteration vector and frees its queue entry. -/
  | copyStop (core idx : Nat)
  /-- MATRIX_OP_FINISH (R458): A matrix operation finishes in the pipeline, completing its batch when it is the last. -/
  | matrixOpFinish (core : Nat)
  /-- AWL_INVOCATION (R241): An awl takes the next queued event and starts its handler with the event's registers. -/
  | awlInvocation (slice : Nat)
  /-- AWL_MESSAGE_ARRIVAL (R252): A message or forward reaches its home slice and is queued, answered NOHANDLER, FAULT or BUSY. -/
  | awlMessageArrival (idx : Nat)
  /-- AMSG_REPLY_ARRIVAL (R252): An awl reply reaches the sending thread, kept with the context record if switched out. -/
  | amsgReplyArrival (idx : Nat)
  /-- AWL_BUDGET_EXHAUSTED (R249): An invocation's instruction budget runs out, and it aborts with cause BUDGET. -/
  | awlBudgetExhausted (slice : Nat)
  /-- AWL_BASE_INSTRUCTION (R239): An awl executes an RV32IMAC or Zicsr instruction, aborting on exceptions or accesses outside its memory. -/
  | awlBaseInstruction (i : Rv) (len : Nat)
  /-- ALRD (R246): Copies a line into awl data SRAM and waits for the data. -/
  | alrd (r : AwlR)
  /-- ALWR (R246): Writes selected sectors of a line from awl data SRAM as a store. -/
  | alwr (r : AwlR)
  /-- ALOCK (R246): Holds a line homed in this slice until the invocation ends. -/
  | alock (r : AwlR)
  /-- APIN (R254): Pins a line for the invoking context. -/
  | apin (r : AwlR)
  /-- AUNPIN (R246): Releases the invoking context's pin on a line. -/
  | aunpin (r : AwlR)
  /-- AFILL (R246): Requests a fill into a line's home slice without waiting. -/
  | afill (r : AwlR)
  /-- AFWD (R246): Forwards the message, with its reply duty, to another line's home slice. -/
  | afwd (r : AwlR)
  /-- AREPLY (R246): Sends a value as the message's reply with status REPLIED. -/
  | areply (r : AwlR)
  /-- AEND (R246): Ends the invocation and releases held lines. -/
  | aend (r : AwlR)
  /-- WATCHDOG_EXPIRY (R282): A waiting group's watchdog count reaches its limit and the group traps WATCHDOG. -/
  | watchdogExpiry (gid : Nat)
  /-- CONTEXT_PREEMPT (R285): A context is stopped at issue boundaries, its copies stopped and its context records written to the save area. -/
  | contextPreempt (part ctx core : Nat)
  /-- CONTEXT_RESTORE (R288): A saved block resumes on a core of its core set, with stopped copies resuming by themselves. -/
  | contextRestore (part ctx core : Nat)
  /-- UNCORRECTABLE_ERROR (R289): An SRAM or HBM uncorrectable error is contained: machine checks, poison, refetch or abort, with an error record. -/
  | uncorrectableError (e : ErrSite)
  /-- CORRECTED_ERROR (R291): A corrected SRAM error is logged, and the sixteenth in one second starts a self-test. -/
  | correctedError (e : ErrSite)
  /-- MACRO_SELF_TEST (R291): A targeted self-test records the error as transient or retires a row, way, frame or core. -/
  | macroSelfTest (e : ErrSite) (pass : Bool)
  /-- SADD (R378): Scalar add. -/
  | sadd (f : F3)
  /-- SSUB (R378): Scalar subtract. -/
  | ssub (f : F3)
  /-- SMUL (R378): Scalar multiply, low word. -/
  | smul (f : F3)
  /-- SMULHI (R378): Scalar multiply, signed high word. -/
  | smulhi (f : F3)
  /-- SMULHU (R378): Scalar multiply, unsigned high word. -/
  | smulhu (f : F3)
  /-- SDIV (R379): Scalar signed divide. -/
  | sdiv (f : F3)
  /-- SDIVU (R379): Scalar unsigned divide. -/
  | sdivu (f : F3)
  /-- SREM (R379): Scalar signed remainder. -/
  | srem (f : F3)
  /-- SREMU (R379): Scalar unsigned remainder. -/
  | sremu (f : F3)
  /-- SAND (R378): Scalar bitwise AND. -/
  | sand (f : F3)
  /-- SOR (R378): Scalar bitwise OR. -/
  | sor (f : F3)
  /-- SXOR (R378): Scalar bitwise XOR. -/
  | sxor (f : F3)
  /-- SSHL (R378): Scalar shift left. -/
  | sshl (f : F3)
  /-- SSHR (R378): Scalar logical shift right. -/
  | sshr (f : F3)
  /-- SSAR (R378): Scalar arithmetic shift right. -/
  | ssar (f : F3)
  /-- SMIN (R378): Scalar signed minimum. -/
  | smin (f : F3)
  /-- SMAX (R378): Scalar signed maximum. -/
  | smax (f : F3)
  /-- SMINU (R378): Scalar unsigned minimum. -/
  | sminu (f : F3)
  /-- SMAXU (R378): Scalar unsigned maximum. -/
  | smaxu (f : F3)
  /-- SSEL (R378): Selects a or b by a condition bit. -/
  | ssel (f : F3)
  /-- SBFE (R380): Scalar bit-field extract. -/
  | sbfe (f : F3)
  /-- SBFI (R380): Scalar bit-field insert. -/
  | sbfi (f : F3)
  /-- SPOPC (R378): Scalar population count. -/
  | spopc (f : F3)
  /-- SCLZ (R378): Scalar count of leading zeros. -/
  | sclz (f : F3)
  /-- SMOV (R378): Scalar move. -/
  | smov (f : F3)
  /-- SADD_I (R342): Scalar add immediate. -/
  | saddI (f : FI)
  /-- SSUB_I (R342): Scalar subtract immediate. -/
  | ssubI (f : FI)
  /-- SMUL_I (R342): Scalar multiply immediate. -/
  | smulI (f : FI)
  /-- SMULHI_I (R342): Signed high multiply immediate. -/
  | smulhiI (f : FI)
  /-- SMULHU_I (R342): Unsigned high multiply immediate. -/
  | smulhuI (f : FI)
  /-- SDIV_I (R342): Signed divide by immediate. -/
  | sdivI (f : FI)
  /-- SDIVU_I (R342): Unsigned divide by immediate. -/
  | sdivuI (f : FI)
  /-- SREM_I (R342): Signed remainder by immediate. -/
  | sremI (f : FI)
  /-- SREMU_I (R342): Unsigned remainder by immediate. -/
  | sremuI (f : FI)
  /-- SAND_I (R342): AND with immediate. -/
  | sandI (f : FI)
  /-- SOR_I (R342): OR with immediate. -/
  | sorI (f : FI)
  /-- SXOR_I (R342): XOR with immediate. -/
  | sxorI (f : FI)
  /-- SSHL_I (R342): Shift left by immediate. -/
  | sshlI (f : FI)
  /-- SSHR_I (R342): Logical shift right by immediate. -/
  | sshrI (f : FI)
  /-- SSAR_I (R342): Arithmetic shift right by immediate. -/
  | ssarI (f : FI)
  /-- SMIN_I (R342): Signed minimum with immediate. -/
  | sminI (f : FI)
  /-- SMAX_I (R342): Signed maximum with immediate. -/
  | smaxI (f : FI)
  /-- SMINU_I (R342): Unsigned minimum with immediate. -/
  | sminuI (f : FI)
  /-- SMAXU_I (R342): Unsigned maximum with immediate. -/
  | smaxuI (f : FI)
  /-- SBFE_I (R342): Bit-field extract with immediate field, zero-extended. -/
  | sbfeI (f : FI)
  /-- SBFI_I (R342): Bit-field insert with immediate field. -/
  | sbfiI (f : FI)
  /-- SLI (R381): Loads a 32-bit immediate into a scalar register. -/
  | sli (f : FL)
  /-- SADR (R381): Loads PC plus a signed 32-bit displacement into a scalar pair. -/
  | sadr (f : FL)
  /-- SCMPEQ (R382): Scalar compare equal into a condition bit. -/
  | scmpeq (f : F3)
  /-- SCMPNE (R382): Scalar compare not equal. -/
  | scmpne (f : F3)
  /-- SCMPLT (R382): Scalar compare signed less than. -/
  | scmplt (f : F3)
  /-- SCMPLE (R382): Scalar compare signed less or equal. -/
  | scmple (f : F3)
  /-- SCMPLTU (R382): Scalar compare unsigned less than. -/
  | scmpltu (f : F3)
  /-- SCMPLEU (R382): Scalar compare unsigned less or equal. -/
  | scmpleu (f : F3)
  /-- SCMPGT (R382): Scalar compare signed greater than. -/
  | scmpgt (f : F3)
  /-- SCMPGE (R382): Scalar compare signed greater or equal. -/
  | scmpge (f : F3)
  /-- SCMPGTU (R382): Scalar compare unsigned greater than. -/
  | scmpgtu (f : F3)
  /-- SCMPGEU (R382): Scalar compare unsigned greater or equal. -/
  | scmpgeu (f : F3)
  /-- SCMPEQ_I (R382): Scalar compare equal with immediate. -/
  | scmpeqI (f : FI)
  /-- SCMPNE_I (R382): Scalar compare not equal with immediate. -/
  | scmpneI (f : FI)
  /-- SCMPLT_I (R382): Scalar signed less than immediate. -/
  | scmpltI (f : FI)
  /-- SCMPLE_I (R382): Scalar signed less or equal immediate. -/
  | scmpleI (f : FI)
  /-- SCMPLTU_I (R382): Scalar unsigned less than immediate. -/
  | scmpltuI (f : FI)
  /-- SCMPLEU_I (R382): Scalar unsigned less or equal immediate. -/
  | scmpleuI (f : FI)
  /-- SCMPGT_I (R382): Scalar signed greater than immediate. -/
  | scmpgtI (f : FI)
  /-- SCMPGE_I (R382): Scalar signed greater or equal immediate. -/
  | scmpgeI (f : FI)
  /-- SCMPGTU_I (R382): Scalar unsigned greater than immediate. -/
  | scmpgtuI (f : FI)
  /-- SCMPGEU_I (R382): Scalar unsigned greater or equal immediate. -/
  | scmpgeuI (f : FI)
  /-- SFADD (R383): Scalar floating-point add. -/
  | sfadd (f : F3)
  /-- SFSUB (R383): Scalar floating-point subtract. -/
  | sfsub (f : F3)
  /-- SFMUL (R383): Scalar floating-point multiply. -/
  | sfmul (f : F3)
  /-- SFMA (R383): Scalar fused multiply-add into D. -/
  | sfma (f : F3)
  /-- SFMIN (R383): Scalar minimumNumber. -/
  | sfmin (f : F3)
  /-- SFMAX (R383): Scalar maximumNumber. -/
  | sfmax (f : F3)
  /-- SFCMP (R384): Scalar floating-point compare into a condition bit. -/
  | sfcmp (f : F3)
  /-- SCVT (R385): Scalar conversion between i32, n32, f32 and f64. -/
  | scvt (f : F3)
  /-- MAND (R386): Mask AND. -/
  | mand (f : F3)
  /-- MOR (R386): Mask OR. -/
  | mor (f : F3)
  /-- MXOR (R386): Mask XOR. -/
  | mxor (f : F3)
  /-- MANDN (R386): Mask AND NOT. -/
  | mandn (f : F3)
  /-- MNOT (R386): Mask NOT. -/
  | mnot (f : F3)
  /-- MMOV (R386): Mask move. -/
  | mmov (f : F3)
  /-- MPOPC (R386): Counts set bits of a mask into a scalar. -/
  | mpopc (f : F3)
  /-- MFIRST (R386): Index of a mask's lowest set bit. -/
  | mfirst (f : F3)
  /-- MTOS (R386): Copies a 32-bit word of a mask to a scalar. -/
  | mtos (f : F3)
  /-- MFROMS (R386): Writes a 32-bit word of a mask from a scalar. -/
  | mfroms (f : F3)
  /-- MALL (R386): Sets a mask to all ones. -/
  | mall (f : F3)
  /-- MCLEAR (R386): Clears a mask. -/
  | mclear (f : F3)
  /-- NOP (R387): No operation. -/
  | nop (f : F3)
  /-- BRA (R388): Unconditional branch. -/
  | bra (f : FB)
  /-- BRC (R388): Branch on a condition bit, optionally negated. -/
  | brc (f : FB)
  /-- BRMZ (R388): Branch when a mask ANDed with m0 is zero. -/
  | brmz (f : FB)
  /-- BRMNZ (R388): Branch when a mask ANDed with m0 is nonzero. -/
  | brmnz (f : FB)
  /-- CALL (R388): Saves the return address in s0:s1 and branches. -/
  | call (f : FB)
  /-- RET (R388): Jumps to s0:s1. -/
  | ret (f : FB)
  /-- JMPR (R388): Jumps to an address in a scalar pair. -/
  | jmpr (f : F3)
  /-- CALLR (R388): Calls an address in a scalar pair. -/
  | callr (f : F3)
  /-- REP (R328): Runs the next word COUNT times with stepped register numbers. -/
  | rep (f : FR)
  /-- END (R391): Ends the group, or waits with CHILDREN as the block's last group. -/
  | endI (f : F3)
  /-- YIELD (R392): Ends the group's run of issues and resets its age. -/
  | yield (f : F3)
  /-- BAR (R393): Block barrier with release on arrival and acquire on departure. -/
  | bar (f : F3)
  /-- BART (R393): Team barrier at team scope. -/
  | bart (f : F3)
  /-- SETFMT (R394): Writes the matrix format register. -/
  | setfmt (f : F3)
  /-- KSET (R396): Sets a cinch counter, starting armed launches at zero. -/
  | kset (f : F3)
  /-- KADD (R396): Adds to a cinch counter, waiting for room above 0xFFFF. -/
  | kadd (f : F3)
  /-- KWAIT (R397): Waits until a counter is zero, trapping on a stopped copy. -/
  | kwait (f : F3)
  /-- KYIELD (R397): Releases the issue slot until a counter is zero, then continues at a label. -/
  | kyield (f : FI)
  /-- KRD (R398): Reads a counter into a scalar without waiting. -/
  | krd (f : F3)
  /-- KARM (R399): Checks a launch record and arms it on a counter with a completion counter. -/
  | karm (f : F3)
  /-- VADD (R408): Vector integer add. -/
  | vadd (f : F3)
  /-- VSUB (R408): Vector integer subtract. -/
  | vsub (f : F3)
  /-- VMUL (R408): Vector integer multiply, low bits. -/
  | vmul (f : F3)
  /-- VMULHI (R408): Vector signed high multiply. -/
  | vmulhi (f : F3)
  /-- VMULHU (R408): Vector unsigned high multiply. -/
  | vmulhu (f : F3)
  /-- VAND (R408): Vector bitwise AND. -/
  | vand (f : F3)
  /-- VOR (R408): Vector bitwise OR. -/
  | vor (f : F3)
  /-- VXOR (R408): Vector bitwise XOR. -/
  | vxor (f : F3)
  /-- VSHL (R408): Vector shift left. -/
  | vshl (f : F3)
  /-- VSHR (R408): Vector logical shift right. -/
  | vshr (f : F3)
  /-- VSAR (R408): Vector arithmetic shift right. -/
  | vsar (f : F3)
  /-- VMIN (R408): Vector minimum by type signedness. -/
  | vmin (f : F3)
  /-- VMAX (R408): Vector maximum by type signedness. -/
  | vmax (f : F3)
  /-- VMINU (R408): Vector unsigned minimum. -/
  | vminu (f : F3)
  /-- VMAXU (R408): Vector unsigned maximum. -/
  | vmaxu (f : F3)
  /-- VADDSAT (R408): Vector saturating add. -/
  | vaddsat (f : F3)
  /-- VSUBSAT (R408): Vector saturating subtract. -/
  | vsubsat (f : F3)
  /-- VABSDIFF (R408): Vector absolute difference. -/
  | vabsdiff (f : F3)
  /-- VMAD (R408): Vector integer multiply-add into D. -/
  | vmad (f : F3)
  /-- VBFE (R408): Vector bit-field extract. -/
  | vbfe (f : F3)
  /-- VBFI (R408): Vector bit-field insert. -/
  | vbfi (f : F3)
  /-- VPOPC (R408): Vector population count. -/
  | vpopc (f : F3)
  /-- VCLZ (R408): Vector count of leading zeros. -/
  | vclz (f : F3)
  /-- VMOV (R408): Vector move. -/
  | vmov (f : F3)
  /-- VSEL (R408): Selects a or b per thread by a mask. -/
  | vsel (f : F3)
  /-- VDOT4 (R408): Signed packed dot product accumulated into D. -/
  | vdot4 (f : F3)
  /-- VDOT4U (R408): Unsigned packed dot product accumulated into D. -/
  | vdot4u (f : F3)
  /-- VIOTA (R408): Adds the count of lower predicated threads to a. -/
  | viota (f : F3)
  /-- VADD_I (R408): Vector add immediate. -/
  | vaddI (f : FI)
  /-- VSUB_I (R408): Vector subtract immediate. -/
  | vsubI (f : FI)
  /-- VMUL_I (R408): Vector multiply immediate. -/
  | vmulI (f : FI)
  /-- VMULHI_I (R408): Vector signed high multiply immediate. -/
  | vmulhiI (f : FI)
  /-- VMULHU_I (R408): Vector unsigned high multiply immediate. -/
  | vmulhuI (f : FI)
  /-- VAND_I (R408): Vector AND immediate. -/
  | vandI (f : FI)
  /-- VOR_I (R408): Vector OR immediate. -/
  | vorI (f : FI)
  /-- VXOR_I (R408): Vector XOR immediate. -/
  | vxorI (f : FI)
  /-- VSHL_I (R408): Vector shift left by immediate. -/
  | vshlI (f : FI)
  /-- VSHR_I (R408): Vector logical shift right by immediate. -/
  | vshrI (f : FI)
  /-- VSAR_I (R408): Vector arithmetic shift right by immediate. -/
  | vsarI (f : FI)
  /-- VMIN_I (R408): Vector minimum with immediate. -/
  | vminI (f : FI)
  /-- VMAX_I (R408): Vector maximum with immediate. -/
  | vmaxI (f : FI)
  /-- VMINU_I (R408): Vector unsigned minimum with immediate. -/
  | vminuI (f : FI)
  /-- VMAXU_I (R408): Vector unsigned maximum with immediate. -/
  | vmaxuI (f : FI)
  /-- VADDSAT_I (R408): Vector saturating add immediate. -/
  | vaddsatI (f : FI)
  /-- VSUBSAT_I (R408): Vector saturating subtract immediate. -/
  | vsubsatI (f : FI)
  /-- VABSDIFF_I (R408): Vector absolute difference with immediate. -/
  | vabsdiffI (f : FI)
  /-- VMAD_I (R408): Vector multiply-add with immediate. -/
  | vmadI (f : FI)
  /-- VBFE_I (R408): Vector bit-field extract with immediate, zero-extended. -/
  | vbfeI (f : FI)
  /-- VBFI_I (R408): Vector bit-field insert with immediate. -/
  | vbfiI (f : FI)
  /-- VDOT4_I (R408): Signed dot product with immediate. -/
  | vdot4I (f : FI)
  /-- VDOT4U_I (R408): Unsigned dot product with immediate. -/
  | vdot4uI (f : FI)
  /-- VCMPEQ (R409): Vector compare equal into a mask. -/
  | vcmpeq (f : F3)
  /-- VCMPNE (R409): Vector compare not equal. -/
  | vcmpne (f : F3)
  /-- VCMPLT (R409): Vector signed less than. -/
  | vcmplt (f : F3)
  /-- VCMPLE (R409): Vector signed less or equal. -/
  | vcmple (f : F3)
  /-- VCMPLTU (R409): Vector unsigned less than. -/
  | vcmpltu (f : F3)
  /-- VCMPLEU (R409): Vector unsigned less or equal. -/
  | vcmpleu (f : F3)
  /-- VCMPGT (R409): Vector signed greater than. -/
  | vcmpgt (f : F3)
  /-- VCMPGE (R409): Vector signed greater or equal. -/
  | vcmpge (f : F3)
  /-- VCMPGTU (R409): Vector unsigned greater than. -/
  | vcmpgtu (f : F3)
  /-- VCMPGEU (R409): Vector unsigned greater or equal. -/
  | vcmpgeu (f : F3)
  /-- VCMPEQ_I (R409): Vector compare equal with immediate. -/
  | vcmpeqI (f : FI)
  /-- VCMPNE_I (R409): Vector compare not equal with immediate. -/
  | vcmpneI (f : FI)
  /-- VCMPLT_I (R409): Vector signed less than immediate. -/
  | vcmpltI (f : FI)
  /-- VCMPLE_I (R409): Vector signed less or equal immediate. -/
  | vcmpleI (f : FI)
  /-- VCMPLTU_I (R409): Vector unsigned less than immediate. -/
  | vcmpltuI (f : FI)
  /-- VCMPLEU_I (R409): Vector unsigned less or equal immediate. -/
  | vcmpleuI (f : FI)
  /-- VCMPGT_I (R409): Vector signed greater than immediate. -/
  | vcmpgtI (f : FI)
  /-- VCMPGE_I (R409): Vector signed greater or equal immediate. -/
  | vcmpgeI (f : FI)
  /-- VCMPGTU_I (R409): Vector unsigned greater than immediate. -/
  | vcmpgtuI (f : FI)
  /-- VCMPGEU_I (R409): Vector unsigned greater or equal immediate. -/
  | vcmpgeuI (f : FI)
  /-- VSHUF (R410): Reads each thread's value from a source thread index. -/
  | vshuf (f : F3)
  /-- VROT (R410): Rotates values across the group's threads. -/
  | vrot (f : F3)
  /-- VBCAST (R410): Broadcasts one thread's value. -/
  | vbcast (f : F3)
  /-- VRED (R411): Folds predicated threads' values in ascending order into a vector or scalar. -/
  | vred (f : F3)
  /-- VSCAN (R411): Inclusive or exclusive scan over predicated threads. -/
  | vscan (f : F3)
  /-- VCOMPACT (R410): Packs values of selected threads into the predicated threads. -/
  | vcompact (f : F3)
  /-- VSWIZ (R410): Exchanges values within quads by a pattern. -/
  | vswiz (f : F3)
  /-- VFADD (R412): Vector floating-point add. -/
  | vfadd (f : F3)
  /-- VFSUB (R412): Vector floating-point subtract. -/
  | vfsub (f : F3)
  /-- VFMUL (R412): Vector floating-point multiply. -/
  | vfmul (f : F3)
  /-- VFMA (R412): Vector fused multiply-add into D. -/
  | vfma (f : F3)
  /-- VFMIN (R412): Vector minimumNumber. -/
  | vfmin (f : F3)
  /-- VFMAX (R412): Vector maximumNumber. -/
  | vfmax (f : F3)
  /-- VFRND (R412): Rounds to an integral value in a mode. -/
  | vfrnd (f : F3)
  /-- VFRACT (R413): Fractional part below 1.0. -/
  | vfract (f : F3)
  /-- VHADD (R414): Adds selected half elements into an f32 result. -/
  | vhadd (f : F3)
  /-- VHMUL (R414): Multiplies selected half elements into f32. -/
  | vhmul (f : F3)
  /-- VHFMA (R414): Fused half-element product added to an f32 D. -/
  | vhfma (f : F3)
  /-- VFDOT2 (R414): Two-element dot product added to an f32 D with one rounding. -/
  | vfdot2 (f : F3)
  /-- VFCMPEQ (R415): Vector float compare equal into a mask. -/
  | vfcmpeq (f : F3)
  /-- VFCMPNE (R415): Vector float compare not equal. -/
  | vfcmpne (f : F3)
  /-- VFCMPLT (R415): Vector float less than. -/
  | vfcmplt (f : F3)
  /-- VFCMPLE (R415): Vector float less or equal. -/
  | vfcmple (f : F3)
  /-- VFCMPGT (R415): Vector float greater than. -/
  | vfcmpgt (f : F3)
  /-- VFCMPGE (R415): Vector float greater or equal. -/
  | vfcmpge (f : F3)
  /-- VFCMPORD (R415): Vector float ordered test. -/
  | vfcmpord (f : F3)
  /-- VFCMPUNORD (R415): Vector float unordered test. -/
  | vfcmpunord (f : F3)
  /-- VRCP (R416): Reciprocal. -/
  | vrcp (f : F3)
  /-- VRSQ (R416): Reciprocal square root. -/
  | vrsq (f : F3)
  /-- VSQRT (R416): Square root. -/
  | vsqrt (f : F3)
  /-- VEXP2 (R416): Base-2 exponential. -/
  | vexp2 (f : F3)
  /-- VLOG2 (R416): Base-2 logarithm. -/
  | vlog2 (f : F3)
  /-- VSIN (R416): Sine of turns. -/
  | vsin (f : F3)
  /-- VCOS (R416): Cosine of turns. -/
  | vcos (f : F3)
  /-- VTANH (R416): Hyperbolic tangent. -/
  | vtanh (f : F3)
  /-- VCVT (R417): Vector conversion between i32, n32, f32 and f64. -/
  | vcvt (f : F3)
  /-- VPACK (R418): Converts two values into adjacent packed elements. -/
  | vpack (f : F3)
  /-- VUNPACK (R419): Converts one packed element to 32 bits. -/
  | vunpack (f : F3)
  /-- VSCALE (R420): Multiplies by an e8 scale. -/
  | vscale (f : F3)
  /-- PAIRED_WORD (R331): Issues two half-instructions on V0 and V1, both reading before either writes. -/
  | pairedWord (h0 h1 : Half)
  /-- LDG (R427): Per-thread global load. -/
  | ldg (f : F3)
  /-- STG (R427): Per-thread global store. -/
  | stg (f : F3)
  /-- LDGS (R428): Uniform global load into scalar registers, once per group. -/
  | ldgs (f : F3)
  /-- STGS (R428): Uniform global store from scalar registers, once per group. -/
  | stgs (f : F3)
  /-- PIN (R433): Pins the line holding each thread's address, returning a status. -/
  | pin (f : F3)
  /-- UNPIN (R433): Releases the context's pin on each line. -/
  | unpin (f : F3)
  /-- CFLUSH (R434): Writes a line back to HBM and invalidates its copies. -/
  | cflush (f : F3)
  /-- LDLOD (R435): Reads a precision-resource element with level fallback and a status word. -/
  | ldlod (f : F3)
  /-- LODQ (R436): Returns the level status of a precision element without reading it. -/
  | lodq (f : F3)
  /-- LDS (R430): Scratchpad load. -/
  | lds (f : F3)
  /-- STS (R430): Scratchpad store. -/
  | sts (f : F3)
  /-- LDT (R431): Team-remote scratchpad load. -/
  | ldt (f : F3)
  /-- STT (R431): Team-remote scratchpad store. -/
  | stt (f : F3)
  /-- LDB (R432): B-store load. -/
  | ldb (f : F3)
  /-- STB (R432): B-store store. -/
  | stb (f : F3)
  /-- AADD_G (R438): Global atomic add at the home slice. -/
  | aaddG (f : F3)
  /-- AMIN_G (R438): Global atomic signed minimum. -/
  | aminG (f : F3)
  /-- AMAX_G (R438): Global atomic signed maximum. -/
  | amaxG (f : F3)
  /-- AMINU_G (R438): Global atomic unsigned minimum. -/
  | aminuG (f : F3)
  /-- AMAXU_G (R438): Global atomic unsigned maximum. -/
  | amaxuG (f : F3)
  /-- AAND_G (R438): Global atomic AND. -/
  | aandG (f : F3)
  /-- AOR_G (R438): Global atomic OR. -/
  | aorG (f : F3)
  /-- AXOR_G (R438): Global atomic XOR. -/
  | axorG (f : F3)
  /-- AXCHG_G (R438): Global atomic exchange. -/
  | axchgG (f : F3)
  /-- ACAS_G (R438): Global atomic compare-and-swap. -/
  | acasG (f : F3)
  /-- AFADD_G (R438): Global atomic f32 add. -/
  | afaddG (f : F3)
  /-- AFMIN_G (R438): Global atomic f32 minimumNumber. -/
  | afminG (f : F3)
  /-- AFMAX_G (R438): Global atomic f32 maximumNumber. -/
  | afmaxG (f : F3)
  /-- AADD_S (R439): Scratchpad atomic add at the bank ALU. -/
  | aaddS (f : F3)
  /-- AMIN_S (R439): Scratchpad atomic signed minimum. -/
  | aminS (f : F3)
  /-- AMAX_S (R439): Scratchpad atomic signed maximum. -/
  | amaxS (f : F3)
  /-- AMINU_S (R439): Scratchpad atomic unsigned minimum. -/
  | aminuS (f : F3)
  /-- AMAXU_S (R439): Scratchpad atomic unsigned maximum. -/
  | amaxuS (f : F3)
  /-- AAND_S (R439): Scratchpad atomic AND. -/
  | aandS (f : F3)
  /-- AOR_S (R439): Scratchpad atomic OR. -/
  | aorS (f : F3)
  /-- AXOR_S (R439): Scratchpad atomic XOR. -/
  | axorS (f : F3)
  /-- AXCHG_S (R439): Scratchpad atomic exchange. -/
  | axchgS (f : F3)
  /-- ACAS_S (R439): Scratchpad atomic compare-and-swap. -/
  | acasS (f : F3)
  /-- AFADD_S (R439): Scratchpad atomic f32 add. -/
  | afaddS (f : F3)
  /-- AFMIN_S (R439): Scratchpad atomic f32 minimumNumber. -/
  | afminS (f : F3)
  /-- AFMAX_S (R439): Scratchpad atomic f32 maximumNumber. -/
  | afmaxS (f : F3)
  /-- FENCE (R440): Orders the group's accesses at a scope with acquire, release or both. -/
  | fence (f : F3)
  /-- AFENCE (R441): Makes visible writes visible to later async operations of the group. -/
  | afence (f : F3)
  /-- AMSG (R442): Sends an awl message per thread after a device-scope release; replies are discarded. -/
  | amsg (f : F3)
  /-- AMSGW (R442): Sends awl messages and waits for every reply value and status. -/
  | amsgw (f : F3)
  /-- LAYMAKE (R446): Validates a layout record, setting its status and a condition bit. -/
  | laymake (f : F3)
  /-- LAYCHK (R447): Checks a layout record and returns its local footprint. -/
  | laychk (f : F3)
  /-- CPYIN (R449): Queues a copy from global memory into scratchpad or B-store on a counter. -/
  | cpyin (f : F3)
  /-- CPYOUT (R449): Queues a copy from scratchpad to global memory on a counter. -/
  | cpyout (f : F3)
  /-- CPYMC (R456): Queues a multicast copy of a tile into every team member. -/
  | cpymc (f : F3)
  /-- CPYCB (R455): Queues a copy expanding indices through the loaded codebook. -/
  | cpycb (f : F3)
  /-- CBLOAD (R451): Queues a load of a codebook into the core's codebook store. -/
  | cbload (f : F3)
  /-- TCFG (R457): Waits for the block's matrix operations, sets M, N, ASTRIDE, SOFF and clears the tiles. -/
  | tcfg (f : F3)
  /-- MMA (R459): Issues tile += A x B into the matrix pipeline. -/
  | mma (f : F3)
  /-- MMAZ (R459): Issues tile = A x B into the matrix pipeline. -/
  | mmaz (f : F3)
  /-- MCLR (R460): Clears a tile. -/
  | mclr (f : F3)
  /-- MLD (R460): Loads tile words from scratchpad. -/
  | mld (f : F3)
  /-- MST (R461): Stores a tile to scratchpad with format conversion. -/
  | mst (f : F3)
  /-- MSTV (R460): Copies four tile rows into a vector register. -/
  | mstv (f : F3)
  /-- MFENCE (R462): Holds the group until its scratchpad writes are at their banks for later matrix reads. -/
  | mfence (f : F3)
  /-- MBATCH (R462): Closes the block's open matrix batch and returns its number. -/
  | mbatch (f : F3)
  /-- MWAIT (R462): Waits until a matrix batch has finished. -/
  | mwait (f : F3)
  /-- SAMPLE (R469): Filtered texture sample with implicit level from quad derivatives. -/
  | sample (f : F3)
  /-- SAMPLEL (R469): Filtered texture sample at an explicit level. -/
  | samplel (f : F3)
  /-- SAMPLEG (R469): Filtered texture sample with explicit gradients. -/
  | sampleg (f : F3)
  /-- TFETCH (R470): Fetches an integer texel at a level with fallback. -/
  | tfetch (f : F3)
  /-- GATHER4 (R470): Gathers one component of a bilinear footprint. -/
  | gather4 (f : F3)
  /-- IMGLD (R470): Reads raw texel bits at level 0 with fallback. -/
  | imgld (f : F3)
  /-- IMGST (R471): Writes a texel under the brand rule. -/
  | imgst (f : F3)
  /-- QLOD (R470): Returns the level of detail and status word without reading texels. -/
  | qlod (f : F3)
  /-- PIXOUT (R473): Sets a pixel's pending colour for a target. -/
  | pixout (f : F3)
  /-- ZOUT (R473): Sets a pixel's pending depth. -/
  | zout (f : F3)
  /-- DISCARD (R473): Removes pixels from m1 and drops their pending outputs. -/
  | discard (f : F3)
  /-- PIXLD (R473): Reads a tile-buffer pixel of a target or depth. -/
  | pixld (f : F3)
  /-- VTXOUT (R474): Writes an attribute slot of a vertex. -/
  | vtxout (f : F3)
  /-- PRIMOUT (R474): Writes a mesh primitive's vertex indices. -/
  | primout (f : F3)
  /-- MESHEND (R476): Hands the mesh group's vertices and primitives to binning and ends the group. -/
  | meshend (f : F3)
  /-- TASKOUT (R477): Copies a payload into a free ring slot and launches mesh groups, waiting when full. -/
  | taskout (f : F3)
  /-- POSOUT (R474): Writes a vertex's clip position. -/
  | posout (f : F3)
  /-- RQINIT (R483): Starts a ray query per thread, taking an IXU slot. -/
  | rqinit (f : F3)
  /-- RQSTEP (R483): Runs each query until done or a candidate is presented. -/
  | rqstep (f : F3)
  /-- RQCOMMIT (R483): Commits each thread's pending candidate. -/
  | rqcommit (f : F3)
  /-- RQGET (R484): Reads a field of the committed hit or candidate. -/
  | rqget (f : F3)
  /-- RQTRAIL (R485): Reads the query's restart trail. -/
  | rqtrail (f : F3)
  /-- BOXTEST (R485): Tests a ray against a box node's boxes without a slot. -/
  | boxtest (f : F3)
  /-- TRITEST (R485): Tests a ray against a triangle node. -/
  | tritest (f : F3)
  /-- HOP (R144): Ships the group's live registers to a group entry of a travelling launch. -/
  | hop (f : FI)
  /-- HOPL (R146): Ships each predicated thread to a lane entry and ends the group. -/
  | hopl (f : F3)
  /-- SEGID (R154): Reports an entry's kind, replica count and segment. -/
  | segid (f : F3)
  /-- LAUNCH (R488): Device launch of a child grid on a counter after a device-scope release. -/
  | launch (f : F3)
  /-- EMIT (R489): Takes pool records for predicated threads, waiting when the pool is dry. -/
  | emit (f : F3)
  /-- EMITC (R489): Releases and commits records to a node's open batch. -/
  | emitc (f : F3)
  /-- RECGET (R490): Returns the address of a batch record by index. -/
  | recget (f : F3)
  /-- RECDONE (R490): Returns a batch record to the pool after a release. -/
  | recdone (f : F3)
  /-- TRAP (R400): Traps SW_TRAP with the immediate in TRAPADDR. -/
  | trap (f : FI)
  /-- TRET (R401): Returns from a trap, continuing or replaying as RESUME directs. -/
  | tret (f : F3)
  /-- SRD (R402): Reads a special register. -/
  | srd (f : F3)
  /-- SWR (R402): Writes a special register. -/
  | swr (f : F3)
  /-- PCTR (R400): Reads a performance counter. -/
  | pctr (f : F3)
  /-- PCFG (R400): Selects a counter's event, zeroes it and sets its enable. -/
  | pcfg (f : F3)
  /-- IFLUSH (R403): Makes later fetches reflect writes visible to the group. -/
  | iflush (f : F3)
  /-- BRK (R400): Traps BREAK. -/
  | brk (f : F3)
  /-- WRITE_ACKNOWLEDGEMENT (R218): A write completes at its point of coherence once the home slice has received every invalidation acknowledgement, letting waiting releases, fences and completions proceed. -/
  | writeAcknowledgement (idx : Nat)
  /-- PERF_COUNTER_WRAP (R196): A performance counter passes 0xFFFF_FFFF, wraps to 0 and sets its OVF bit in PCTL. -/
  | perfCounterWrap (gid n : Nat)
  /-- POWER_REMOVAL (R17): Power is removed and the rails fall in reverse order, ending a thermal trip's held reset and all device state. -/
  | powerRemoval
  deriving DecidableEq, Repr

end Sys2Proof
end

