-- ==== Sys2Proof/WellFormed.lean ====
section
/-! DEFINITION. Which instructions are well formed: the checks of R336 and R340 that raise ILLEGAL_INSTR at decode and
that need nothing but the word. `Sheet` holds, for one instruction, what its chapter accepts in each field; the checks
that raise ILLEGAL_OPERAND (they need the group) read the same sheet in Machine/Operands.lean. -/
namespace Sys2Proof

/-- The kind of an 11-bit operand field (R316). -/
inductive OpKind | vector | scalar | latch | const | reserved
  deriving DecidableEq, Repr

/-- R316: the kind that bits [10:8] name. -/
def opKind (f : BitVec 11) : OpKind :=
  if f.getLsbD 10 then .scalar
  else if f.extractLsb' 8 2 = 0#2 then .vector
  else if f.extractLsb' 8 2 = 1#2 then .latch
  else if f.extractLsb' 8 2 = 2#2 then .const
  else .reserved

/-- R316, R336: an operand field that names something: no reserved kind, no latch with nonzero bits [7:2], no constant entry
from 96 up. -/
def opNamesOk (f : BitVec 11) : Bool :=
  match opKind f with
  | .vector | .scalar => true
  | .latch => f.extractLsb' 2 6 = 0#6
  | .const => (f.extractLsb' 0 8).toNat < 96
  | .reserved => false

/-- What an instruction accepts in one operand field. `n` is how many consecutive registers the operand occupies, `al` the
multiple its first register must be (R318). -/
inductive Rule
  | zero
  | dst (v s : Bool) (n al : Nat)
  | src (v s l c : Bool) (n al : Nat)
  | maskDst
  | maskSrc
  | condDst
  | ctr
  | off
  | entry0
  deriving DecidableEq, Repr

/-- R316, R318, R321, R386: the part of a field's rule whose breach raises ILLEGAL_INSTR. -/
def Rule.legal (r : Rule) (f : BitVec 11) : Bool :=
  match r with
  | .zero => f = 0#11
  | .dst .. => opKind f = .vector || opKind f = .scalar
  | .src .. => opNamesOk f
  | .maskDst | .maskSrc => f.extractLsb' 4 7 = 0#7
  | .condDst => f.extractLsb' 3 8 = 0#8
  | .ctr => f.extractLsb' 5 6 = 0#6
  | .off => true
  | .entry0 => f = 0x200#11

/-- What one instruction accepts: whether MK is a predicate, whether its TY, MD and X values are accepted, and the rule of each
operand field. -/
structure Sheet where
  predicated : Bool := false
  ok : Bool := true
  d : Rule := .zero
  a : Rule := .zero
  b : Rule := .zero
  deriving Repr

def anySrc (n : Nat) : Rule := .src true true true true n n
def sSrc (n : Nat) : Rule := .src false true false true n n
def sReg (n al : Nat) : Rule := .src false true false false n al
def vReg (n al : Nat) : Rule := .src true false false false n al
def gAddr : Rule := .src true true false false 2 2
def vDst (n : Nat) : Rule := .dst true false n n
def sDst (n : Nat) : Rule := .dst false true n n

/-- R318, R334: registers of one operand under a type. -/
def tyRegs (ty : BitVec 4) : Nat := if ty = 14#4 then 2 else 1

/-- The low `k` bits of X may be used; the others are zero (R320). -/
def xLow (f : F3) (k : Nat) : Bool := f.x.toNat < 2 ^ k

def tyIn (ty : BitVec 4) (l : List Nat) : Bool := l.contains ty.toNat
def mdLe (f : F3) (k : Nat) : Bool := f.md.toNat ≤ k

/-- R376: TY, MD and X all zero. -/
def plain (f : F3) : Bool := f.ty = 0 && f.md = 0 && f.x = 0

/-- R377: SALU, with the 64-bit form where the row has one and `k` used bits of X. -/
def saluSheet (wide : Bool) (k : Nat) (hasB : Bool) (f : F3) : Sheet :=
  { ok := (f.ty = 0 || (wide && f.ty = 14)) && f.md = 0 && xLow f k
    d := sDst (tyRegs f.ty), a := sSrc (tyRegs f.ty), b := if hasB then sSrc (tyRegs f.ty) else .zero }

/-- R377, R342: SALUI. -/
def saluiSheet (wide : Bool) (f : FI) : Sheet :=
  { ok := f.ty = 0 || (wide && f.ty = 14), d := sDst (tyRegs f.ty), a := sSrc (tyRegs f.ty), b := .off }

/-- R382: SCMP and SCMPI. -/
def scmpSheet (f : F3) : Sheet :=
  { ok := (f.ty = 0 || f.ty = 14) && f.md = 0 && f.x = 0
    d := .condDst, a := sSrc (tyRegs f.ty), b := sSrc (tyRegs f.ty) }
def scmpiSheet (f : FI) : Sheet :=
  { ok := f.ty = 0 || f.ty = 14, d := .condDst, a := sSrc (tyRegs f.ty), b := .off }

/-- R383: SFPU arithmetic with MD codes up to `m`. -/
def sfpuSheet (m : Nat) (f : F3) : Sheet :=
  { ok := tyIn f.ty [8, 14] && mdLe f m && f.x = 0
    d := sDst (tyRegs f.ty), a := sSrc (tyRegs f.ty), b := sSrc (tyRegs f.ty) }

/-- R386: MASK operations. -/
def maskSheet (d a b : Rule) (k : Nat) (f : F3) : Sheet :=
  { ok := f.ty = 0 && f.md = 0 && xLow f k, d := d, a := a, b := b }

/-- R408: VALU with accepted types `tys` and `k` used bits of X. -/
def valuSheet (tys : List Nat) (k : Nat) (hasB : Bool) (f : F3) : Sheet :=
  { predicated := true, ok := tyIn f.ty tys && f.md = 0 && xLow f k
    d := vDst (tyRegs f.ty), a := anySrc (tyRegs f.ty), b := if hasB then anySrc (tyRegs f.ty) else .zero }
def valuiSheet (tys : List Nat) (f : FI) : Sheet :=
  { predicated := true, ok := tyIn f.ty tys, d := vDst 1, a := anySrc 1, b := .off }

def intTys : List Nat := [0, 1, 2, 3, 4, 5, 6, 7]

/-- R409, R415: compares into a mask. -/
def vcmpSheet (tys : List Nat) (f : F3) : Sheet :=
  { predicated := true, ok := tyIn f.ty tys && f.md = 0 && f.x = 0
    d := .maskDst, a := anySrc (tyRegs f.ty), b := anySrc (tyRegs f.ty) }
def vcmpiSheet (f : FI) : Sheet :=
  { predicated := true, ok := f.ty = 0, d := .maskDst, a := anySrc 1, b := .off }

/-- R410: VXL that moves values, with B's rule and used bits of X. -/
def vxlSheet (b : Rule) (k : Nat) (f : F3) : Sheet :=
  { predicated := true, ok := tyIn f.ty [0, 14] && f.md = 0 && xLow f k
    d := vDst (tyRegs f.ty), a := anySrc (tyRegs f.ty), b := b }

/-- R411: VRED and VSCAN: op codes 0-10, with TY 0 for integer ops and 8 for float ops. -/
def foldOk (f : F3) (k : Nat) : Bool :=
  let op := (f.x.extractLsb' 0 4).toNat
  f.md = 0 && xLow f k && op ≤ 10 && (if op ≤ 7 then f.ty = 0 else f.ty = 8)

/-- R412: VFPU. -/
def vfpuSheet (tys : List Nat) (m : Nat) (hasB : Bool) (f : F3) : Sheet :=
  { predicated := true, ok := tyIn f.ty tys && mdLe f m && f.x = 0
    d := vDst (tyRegs f.ty), a := anySrc (tyRegs f.ty), b := if hasB then anySrc (tyRegs f.ty) else .zero }

/-- R414: VHADD, VHMUL, VHFMA with two element selectors in X; VFDOT2 with none. -/
def vhSheet (k : Nat) (f : F3) : Sheet :=
  { predicated := true, ok := tyIn f.ty [9, 10] && mdLe f 4 && xLow f k, d := vDst 1, a := anySrc 1, b := anySrc 1 }

/-- Registers a memory access of width code TY occupies (R325). -/
def memRegs (ty : BitVec 4) : Nat := if ty = 5#4 then 2 else if ty = 6#4 then 4 else 1

def ordOf (f : F3) : Nat := (f.x.extractLsb' 5 2).toNat
def scopeOf (f : F3) : Nat := (f.x.extractLsb' 2 3).toNat

/-- R255, R257, R325, R422: width, policy, order and scope of an FM word. -/
def fmOk (f : F3) (tys : List Nat) (mdMax : Nat) (ords : List Nat) : Bool :=
  tyIn f.ty tys && mdLe f mdMax && ords.contains (ordOf f) && scopeOf f ≤ 5 && f.x.extractLsb' 0 2 = 0#2

/-- R422: an FM word whose scope must be zero too. -/
def fmPlain (f : F3) (tys : List Nat) (mdMax : Nat) : Bool := tyIn f.ty tys && mdLe f mdMax && f.x = 0

def widths : List Nat := [0, 1, 2, 3, 4, 5, 6]

/-- R422: the data operand of a store. -/
def dataRule (ty : BitVec 4) : Rule :=
  if ty = 5#4 then .src true true true false 2 2
  else if ty = 6#4 then .src true true false false 4 4
  else anySrc 1
/-- R422: the data operand of a uniform store. -/
def sDataRule (ty : BitVec 4) : Rule :=
  if ty = 5#4 then sReg 2 2 else if ty = 6#4 then sReg 4 4 else sSrc 1
/-- R422: the data operand of an atomic. -/
def atomDataRule (ty : BitVec 4) : Rule := if ty = 5#4 then .src true true false false 2 2 else anySrc 1

/-- R422, R437: ATOMG. -/
def atomgSheet (tys : List Nat) (f : F3) : Sheet :=
  { predicated := true, ok := fmOk f tys 3 [0, 1, 2, 3], d := vDst (memRegs f.ty), a := gAddr, b := atomDataRule f.ty }
/-- R422, R437: ATOMS. -/
def atomsSheet (f : F3) : Sheet :=
  { predicated := true, ok := fmOk f [4] 0 [0, 1, 2, 3], d := vDst 1, a := anySrc 1, b := anySrc 1 }
/-- R422: loads and stores of the scratchpad, the team and the B-store. -/
def ldLocalSheet (f : F3) : Sheet :=
  { predicated := true, ok := fmOk f widths 0 [0, 1], d := vDst (memRegs f.ty), a := anySrc 1, b := .off }
def stLocalSheet (f : F3) : Sheet :=
  { predicated := true, ok := fmOk f widths 0 [0, 2], d := dataRule f.ty, a := anySrc 1, b := .off }

/-- R448: CPYIN, CPYOUT, CPYMC, CPYCB, with accepted types and the KIND bit allowed or not. -/
def cpySheet (tys : List Nat) (kind1 : Bool) (d : Rule) (f : F3) : Sheet :=
  { ok := tyIn f.ty tys && f.md = 0 && (kind1 || f.x.getLsbD 5 = false), d := d, a := sReg 24 1, b := sSrc 1 }

/-- R457-R462: a matrix word with X[2:0] the tile. -/
def mtxSheet (d a b : Rule) (f : F3) : Sheet := { ok := f.ty = 0 && f.md = 0 && xLow f 3, d := d, a := a, b := b }

/-- R468: TEX reading instructions. -/
def texSheet (d a : Rule) (k : Nat) (f : F3) : Sheet :=
  { predicated := true, ok := f.ty = 0 && f.md = 0 && xLow f k, d := d, a := a, b := sReg 2 2 }

def scalarPlain (d a b : Rule) (f : F3) : Sheet := { ok := plain f, d := d, a := a, b := b }
def predPlain (d a b : Rule) (f : F3) : Sheet := { predicated := true, ok := plain f, d := d, a := a, b := b }
def scalarX (k : Nat) (d a b : Rule) (f : F3) : Sheet := { ok := f.ty = 0 && f.md = 0 && xLow f k, d := d, a := a, b := b }
def predX (k : Nat) (d a b : Rule) (f : F3) : Sheet :=
  { predicated := true, ok := f.ty = 0 && f.md = 0 && xLow f k, d := d, a := a, b := b }

/-! Sheets of single rows. -/

def sfcmpSheet (f : F3) : Sheet :=
  { ok := tyIn f.ty [8, 14] && f.md = 0 && xLow f 3
    d := .condDst, a := sSrc (tyRegs f.ty), b := sSrc (tyRegs f.ty) }

def scvtSheet (f : F3) : Sheet :=
  { ok := tyIn f.ty [0, 1, 8, 14] && xLow f 4 && tyIn (f.x.extractLsb' 0 4) [0, 1, 8, 14]
    d := sDst (tyRegs f.ty), a := sSrc (tyRegs (f.x.extractLsb' 0 4)) }

def kyieldSheet (f : FI) : Sheet :=
  { ok := f.ty = 0, d := .ctr, a := .zero, b := .off }

def trapSheet (f : FI) : Sheet :=
  { ok := f.ty = 0, d := .zero, a := .zero, b := .off }

def vredSheet (f : F3) : Sheet :=
  { predicated := true, ok := foldOk f 4, d := .dst true true 1 1, a := anySrc 1 }

def vscanSheet (f : F3) : Sheet :=
  { predicated := true, ok := foldOk f 5, d := vDst 1, a := anySrc 1 }

def vswizSheet (f : F3) : Sheet :=
  { vxlSheet .zero 3 f with ok := (vxlSheet .zero 3 f).ok && f.x ≠ 7#7 }

def vcvtSheet (f : F3) : Sheet :=
  { predicated := true
    ok := tyIn f.ty [0, 1, 8, 14] && xLow f 4 && tyIn (f.x.extractLsb' 0 4) [0, 1, 8, 14]
    d := vDst (tyRegs f.ty), a := anySrc (tyRegs (f.x.extractLsb' 0 4)) }

def vpackSheet (f : F3) : Sheet :=
  let elems := if tyIn f.ty [2, 3, 9, 10] then 2 else if tyIn f.ty [4, 5, 11, 12] then 4 else 8
  { predicated := true
    ok := tyIn f.ty [2, 3, 4, 5, 6, 7, 9, 10, 11, 12, 13] && xLow f 2 && 2 * f.x.toNat + 1 < elems &&
    (f.ty.toNat ≥ 9 || f.md = 0)
    d := vDst 1, a := anySrc 1, b := anySrc 1 }

def vunpackSheet (f : F3) : Sheet :=
  let elems := if tyIn f.ty [2, 3, 9, 10] then 2 else if tyIn f.ty [4, 5, 11, 12] then 4 else 8
  { predicated := true
    ok := tyIn f.ty [2, 3, 4, 5, 6, 7, 9, 10, 11, 12, 13] && xLow f 3 && f.x.toNat < elems && f.md = 0
    d := vDst 1, a := anySrc 1 }

def vscaleSheet (f : F3) : Sheet :=
  { predicated := true, ok := f.ty = 8 && mdLe f 4 && f.x = 0, d := vDst 1, a := anySrc 1, b := anySrc 1 }

def ldgSheet (f : F3) : Sheet :=
  { predicated := true, ok := fmOk f widths 3 [0, 1], d := vDst (memRegs f.ty), a := gAddr, b := .off }

def stgSheet (f : F3) : Sheet :=
  { predicated := true, ok := fmOk f widths 3 [0, 2], d := dataRule f.ty, a := gAddr, b := .off }

def ldgsSheet (f : F3) : Sheet :=
  { ok := fmOk f widths 3 [0, 1], d := sDst (memRegs f.ty), a := sReg 2 2, b := .off }

def stgsSheet (f : F3) : Sheet :=
  { ok := fmOk f widths 3 [0, 2], d := sDataRule f.ty, a := sReg 2 2, b := .off }

def pinSheet (f : F3) : Sheet :=
  { predicated := true, ok := fmOk f [4] 0 [0], d := vDst 1, a := gAddr, b := .off }

def cflushSheet (f : F3) : Sheet :=
  { predicated := true, ok := fmOk f [4] 0 [0], a := gAddr, b := .off }

def ldlodSheet (f : F3) : Sheet :=
  { predicated := true, ok := fmPlain f [5] 3, d := vDst 2, a := sReg 2 2, b := anySrc 1 }

def lodqSheet (f : F3) : Sheet :=
  { predicated := true, ok := fmPlain f [4] 0, d := vDst 1, a := sReg 2 2, b := anySrc 1 }

def fenceSheet (f : F3) : Sheet :=
  { ok := fmOk f [0] 0 [1, 2, 3] }

def afenceSheet (f : F3) : Sheet :=
  { ok := fmPlain f [0] 0 }

def amsgSheet (f : F3) : Sheet :=
  { predicated := true, ok := fmPlain f [4] 0, a := gAddr, b := anySrc 1 }

def amsgwSheet (f : F3) : Sheet :=
  { predicated := true, ok := fmPlain f [5] 0, d := vDst 2, a := gAddr, b := anySrc 1 }

def cbloadSheet (f : F3) : Sheet :=
  { ok := tyIn f.ty [9, 11, 12] && f.md = 0 && xLow f 5, a := sReg 2 2, b := sSrc 1 }

def mstSheet (f : F3) : Sheet :=
  { ok := xLow f 3 && f.ty ≠ 15, a := sSrc 1 }

def pixldSheet (f : F3) : Sheet :=
  predX 3 (if f.x.getLsbD 2 then vDst 1 else vDst 4) .zero .zero f

def rqgetSheet (f : F3) : Sheet :=
  { predX 5 (vDst 1) .zero .zero f with ok := (predX 5 .zero .zero .zero f).ok && (f.x.extractLsb' 0 4).toNat ≤ 8 }

/-- The sheet of every instruction of the forms F3, FM and FI; other rows have none. -/
def Instr.sheet (i : Instr) : Option Sheet :=
  match i with
  | .sadd f | .ssub f | .sand f | .sor f | .sxor f | .sshl f | .sshr f | .ssar f => some (saluSheet true 0 true f)
  | .smul f | .smulhi f | .smulhu f | .sdiv f | .sdivu f | .srem f | .sremu f | .smin f | .smax f | .sminu f | .smaxu f
  | .sbfi f => some (saluSheet false 0 true f)
  | .ssel f => some (saluSheet false 3 true f)
  | .sbfe f => some (saluSheet false 1 true f)
  | .spopc f | .sclz f => some (saluSheet false 0 false f)
  | .smov f => some (saluSheet true 0 false f)
  | .saddI f | .ssubI f | .sandI f | .sorI f | .sxorI f | .sshlI f | .sshrI f | .ssarI f => some (saluiSheet true f)
  | .smulI f | .smulhiI f | .smulhuI f | .sdivI f | .sdivuI f | .sremI f | .sremuI f | .sminI f | .smaxI f | .sminuI f
  | .smaxuI f | .sbfeI f | .sbfiI f => some (saluiSheet false f)
  | .scmpeq f | .scmpne f | .scmplt f | .scmple f | .scmpltu f | .scmpleu f | .scmpgt f | .scmpge f | .scmpgtu f
  | .scmpgeu f => some (scmpSheet f)
  | .scmpeqI f | .scmpneI f | .scmpltI f | .scmpleI f | .scmpltuI f | .scmpleuI f | .scmpgtI f | .scmpgeI f | .scmpgtuI f
  | .scmpgeuI f => some (scmpiSheet f)
  | .sfadd f | .sfsub f | .sfmul f | .sfma f => some (sfpuSheet 4 f)
  | .sfmin f | .sfmax f => some (sfpuSheet 0 f)
  | .sfcmp f => some (sfcmpSheet f)
  | .scvt f => some (scvtSheet f)
  | .mand f | .mor f | .mxor f | .mandn f => some (maskSheet .maskDst .maskSrc .maskSrc 0 f)
  | .mnot f | .mmov f => some (maskSheet .maskDst .maskSrc .zero 0 f)
  | .mpopc f | .mfirst f => some (maskSheet (sDst 1) .maskSrc .zero 0 f)
  | .mtos f => some (maskSheet (sDst 1) .maskSrc .zero 2 f)
  | .mfroms f => some (maskSheet .maskDst (sSrc 1) .zero 2 f)
  | .mall f | .mclear f => some (maskSheet .maskDst .zero .zero 0 f)
  | .nop f | .endI f | .yield f | .tret f | .iflush f | .brk f => some (scalarPlain .zero .zero .zero f)
  | .jmpr f | .callr f => some (scalarPlain .zero (sReg 2 2) .zero f)
  | .bar f | .bart f => some (scalarX 4 .zero .zero .zero f)
  | .setfmt f => some (scalarPlain .zero (sSrc 1) .zero f)
  | .kset f | .kadd f => some (scalarX 5 .zero (sSrc 1) .zero f)
  | .kwait f => some (scalarX 5 .zero .zero .zero f)
  | .kyield f => some (kyieldSheet f)
  | .krd f => some (scalarX 5 (sDst 1) .zero .zero f)
  | .karm f => some (scalarX 5 (sDst 1) (sReg 2 2) (sSrc 1) f)
  | .trap f | .hop f => some (trapSheet f)
  | .srd f | .pctr f => some (scalarPlain (sDst 1) (sSrc 1) .zero f)
  | .swr f | .pcfg f => some (scalarPlain .zero (sSrc 1) (sSrc 1) f)
  | .vadd f | .vsub f | .vmul f | .vmin f | .vmax f | .vminu f | .vmaxu f | .vaddsat f | .vsubsat f | .vabsdiff f | .vmad f =>
      some (valuSheet intTys 0 true f)
  | .vmulhi f | .vmulhu f | .vand f | .vor f | .vxor f | .vbfi f => some (valuSheet [0] 0 true f)
  | .vbfe f => some (valuSheet [0] 1 true f)
  | .vshl f | .vshr f | .vsar f => some (valuSheet [0, 2, 4] 0 true f)
  | .vpopc f | .vclz f | .viota f => some (valuSheet [0] 0 false f)
  | .vmov f => some (valuSheet [0, 14] 0 false f)
  | .vsel f => some (valuSheet [0, 14] 4 true f)
  | .vdot4 f => some (valuSheet [4, 6] 0 true f)
  | .vdot4u f => some (valuSheet [5, 7] 0 true f)
  | .vaddI f | .vsubI f | .vmulI f | .vminI f | .vmaxI f | .vminuI f | .vmaxuI f | .vaddsatI f | .vsubsatI f | .vabsdiffI f
  | .vmadI f => some (valuiSheet intTys f)
  | .vmulhiI f | .vmulhuI f | .vandI f | .vorI f | .vxorI f | .vbfiI f | .vbfeI f => some (valuiSheet [0] f)
  | .vshlI f | .vshrI f | .vsarI f => some (valuiSheet [0, 2, 4] f)
  | .vdot4I f => some (valuiSheet [4, 6] f)
  | .vdot4uI f => some (valuiSheet [5, 7] f)
  | .vcmpeq f | .vcmpne f | .vcmplt f | .vcmple f | .vcmpltu f | .vcmpleu f | .vcmpgt f | .vcmpge f | .vcmpgtu f
  | .vcmpgeu f => some (vcmpSheet [0] f)
  | .vcmpeqI f | .vcmpneI f | .vcmpltI f | .vcmpleI f | .vcmpltuI f | .vcmpleuI f | .vcmpgtI f | .vcmpgeI f | .vcmpgtuI f
  | .vcmpgeuI f => some (vcmpiSheet f)
  | .vshuf f | .vrot f => some (vxlSheet (anySrc 1) 0 f)
  | .vbcast f => some (vxlSheet (sSrc 1) 0 f)
  | .vred f => some (vredSheet f)
  | .vscan f => some (vscanSheet f)
  | .vcompact f => some (vxlSheet .zero 4 f)
  | .vswiz f => some (vswizSheet f)
  | .vfadd f | .vfsub f | .vfmul f | .vfma f => some (vfpuSheet [8, 9, 10, 14] 4 true f)
  | .vfmin f | .vfmax f => some (vfpuSheet [8, 9, 10] 0 true f)
  | .vfrnd f => some (vfpuSheet [8, 9, 10] 4 false f)
  | .vfract f => some (vfpuSheet [8, 9, 10] 0 false f)
  | .vhadd f | .vhmul f | .vhfma f => some (vhSheet 2 f)
  | .vfdot2 f => some (vhSheet 0 f)
  | .vfcmpeq f | .vfcmpne f | .vfcmplt f | .vfcmple f | .vfcmpgt f | .vfcmpge f | .vfcmpord f | .vfcmpunord f =>
      some (vcmpSheet [8, 14] f)
  | .vrcp f | .vrsq f | .vsqrt f | .vexp2 f | .vlog2 f | .vsin f | .vcos f | .vtanh f => some (vfpuSheet [8, 9] 0 false f)
  | .vcvt f => some (vcvtSheet f)
  | .vpack f => some (vpackSheet f)
  | .vunpack f => some (vunpackSheet f)
  | .vscale f => some (vscaleSheet f)
  | .ldg f => some (ldgSheet f)
  | .stg f => some (stgSheet f)
  | .ldgs f => some (ldgsSheet f)
  | .stgs f => some (stgsSheet f)
  | .pin f | .unpin f => some (pinSheet f)
  | .cflush f => some (cflushSheet f)
  | .ldlod f => some (ldlodSheet f)
  | .lodq f => some (lodqSheet f)
  | .lds f | .ldt f | .ldb f => some (ldLocalSheet f)
  | .sts f | .stt f | .stb f => some (stLocalSheet f)
  | .aaddG f | .aminG f | .amaxG f | .aminuG f | .amaxuG f | .aandG f | .aorG f | .axorG f | .axchgG f | .acasG f =>
      some (atomgSheet [4, 5] f)
  | .afaddG f | .afminG f | .afmaxG f => some (atomgSheet [4] f)
  | .aaddS f | .aminS f | .amaxS f | .aminuS f | .amaxuS f | .aandS f | .aorS f | .axorS f | .axchgS f | .acasS f
  | .afaddS f | .afminS f | .afmaxS f => some (atomsSheet f)
  | .fence f => some (fenceSheet f)
  | .afence f => some (afenceSheet f)
  | .amsg f => some (amsgSheet f)
  | .amsgw f => some (amsgwSheet f)
  | .laymake f => some (scalarX 3 .zero (sReg 24 1) .zero f)
  | .laychk f => some (scalarPlain (sDst 1) (sReg 24 1) .zero f)
  | .cpyin f => some (cpySheet [0, 8, 9, 10, 11] true .zero f)
  | .cpyout f => some (cpySheet [0] false .zero f)
  | .cpymc f => some (cpySheet [0] true (sReg 1 1) f)
  | .cpycb f => some (cpySheet [9, 11, 12] true .zero f)
  | .cbload f => some (cbloadSheet f)
  | .tcfg f => some (scalarPlain .zero (sReg 4 1) .zero f)
  | .mma f | .mmaz f => some (mtxSheet (sSrc 1) (sSrc 1) (sSrc 1) f)
  | .mclr f => some (mtxSheet .zero .zero .zero f)
  | .mld f => some (mtxSheet .zero (sSrc 1) .zero f)
  | .mst f => some (mstSheet f)
  | .mstv f => some (mtxSheet (vDst 1) .zero (sSrc 1) f)
  | .mfence f => some (scalarPlain .zero .zero .zero f)
  | .mbatch f => some (scalarPlain (sDst 1) .zero .zero f)
  | .mwait f => some (scalarPlain .zero (sSrc 1) .zero f)
  | .sample f => some (texSheet (.dst true false 5 4) (vReg 2 2) 0 f)
  | .samplel f => some (texSheet (.dst true false 5 4) (vReg 3 4) 0 f)
  | .sampleg f => some (texSheet (.dst true false 5 4) (vReg 6 2) 0 f)
  | .tfetch f => some (texSheet (.dst true false 5 4) (vReg 2 2) 4 f)
  | .gather4 f => some (texSheet (.dst true false 5 4) (vReg 2 2) 2 f)
  | .imgld f => some (texSheet (.dst true false 5 4) (vReg 2 2) 0 f)
  | .imgst f => some (texSheet (vReg 4 4) (vReg 2 2) 1 f)
  | .qlod f => some (texSheet (vDst 2) (vReg 2 2) 0 f)
  | .pixout f => some (predX 2 .zero (vReg 4 4) .zero f)
  | .zout f => some (predPlain .zero (anySrc 1) .zero f)
  | .discard f => some (predPlain .zero .zero .zero f)
  | .pixld f => some (pixldSheet f)
  | .vtxout f => some (predX 4 .zero (anySrc 1) (anySrc 1) f)
  | .primout f => some (predPlain .zero (anySrc 1) (anySrc 1) f)
  | .meshend f | .taskout f => some (scalarPlain .zero (sSrc 1) (sSrc 1) f)
  | .posout f => some (predPlain .zero (vReg 4 4) (anySrc 1) f)
  | .rqinit f => some (predX 3 .zero (vReg 8 4) (sReg 2 2) f)
  | .rqstep f => some (predPlain (vDst 1) .zero .zero f)
  | .rqcommit f => some (predPlain .zero .zero .zero f)
  | .rqget f => some (rqgetSheet f)
  | .rqtrail f => some (predPlain (vDst 2) .zero .zero f)
  | .boxtest f | .tritest f => some (predPlain (vDst 4) (vReg 8 4) gAddr f)
  | .hopl f => some (predPlain .zero (anySrc 1) .zero f)
  | .segid f => some (scalarPlain (sDst 1) (sSrc 1) .zero f)
  | .launch f => some (scalarX 5 (sDst 1) (sReg 2 2) .zero f)
  | .emit f => some (predPlain (vDst 2) .zero .zero f)
  | .emitc f => some (predX 4 .zero (vReg 2 2) .zero f)
  | .recget f => some (predPlain (vDst 2) (anySrc 1) .zero f)
  | .recdone f => some (predPlain .zero (anySrc 1) .zero f)
  | _ => none

/-- R318-R321, R336: an F3 or FM word against its sheet. -/
def Sheet.f3Legal (sh : Sheet) (f : F3) : Bool :=
  sh.ok && (sh.predicated || f.pm = 0) && sh.d.legal f.d && sh.a.legal f.a && sh.b.legal f.b
/-- R322, R336: an FI word against its sheet. -/
def Sheet.fiLegal (sh : Sheet) (f : FI) : Bool :=
  sh.ok && (sh.predicated || f.pm = 0) && sh.d.legal f.d && sh.a.legal f.a

/-- R330: a half's A field, as the full operand field it maps onto (R350); none for a reserved kind or a nonzero reserved bit. -/
def halfOperand (a : BitVec 9) : Option (BitVec 11) :=
  if a.getLsbD 8 = false then some (a.setWidth 8 |>.setWidth 11)
  else if a.extractLsb' 6 3 = 4#3 then
    if a.extractLsb' 2 4 = 0#4 then some (0x100#11 ||| (a.extractLsb' 0 2).setWidth 11) else none
  else if a.extractLsb' 6 3 = 5#3 then some (0x400#11 ||| (a.extractLsb' 0 6).setWidth 11)
  else if a.extractLsb' 6 3 = 6#3 then some (0x200#11 ||| (a.extractLsb' 0 6).setWidth 11)
  else none

/-- R331, R333: one half: a HO up to 17 and an A that names something, or all zero. -/
def Half.legal (h : Half) : Bool :=
  if h.ho = 0 then h.pm = 0 && h.d = 0 && h.a = 0 else h.ho.toNat ≤ 17 && (halfOperand h.a).isSome

/-- The vector registers a half reads: its destination unless it is VMOV, and a vector A (R332). -/
def Half.reads (h : Half) : List Nat :=
  if h.ho = 0 then [] else
    (if h.ho = 12#6 then [] else [h.d.toNat]) ++ (if h.a.getLsbD 8 then [] else [(h.a.extractLsb' 0 8).toNat])

/-- R332: the bank rule. -/
def bankRule (h0 h1 : Half) : Bool :=
  (h0.ho = 0 || h1.ho = 0 || h0.d.toNat % 4 ≠ h1.d.toNat % 4) &&
    [0, 1, 2, 3].all fun k => ((h0.reads ++ h1.reads).filter fun r => r % 4 = k).length ≤ 2

/-- R333: the checks of a paired word that raise ILLEGAL_INSTR. -/
def pairLegal (h0 h1 : Half) : Bool := h0.legal && h1.legal && !(h0.ho = 0 && h1.ho = 0)

/-- R324, R388: the zero fields of the FB branches; R323: SLI and SADR write a scalar register. -/
def Instr.formLegal (i : Instr) : Bool :=
  match i with
  | .bra f | .call f => f.pm = 0 && f.cc = 0 && f.neg = 0
  | .ret f => f.pm = 0 && f.cc = 0 && f.neg = 0 && f.disp = 0
  | .brc f => f.pm = 0
  | .brmz f | .brmnz f => f.cc = 0 && f.neg = 0
  | .sli f => (sDst 1).legal f.d
  | .sadr f => (sDst 2).legal f.d
  | .alrd _ | .alwr _ | .afwd _ => true
  | .alock r | .apin r | .aunpin r | .afill r | .areply r => r.rs2 = 0
  | .aend r => r.rs2 = 0 && r.rs1 = 0 && r.rd = 0
  | .pairedWord h0 h1 => pairLegal h0 h1 && bankRule h0 h1
  | .awlBaseInstruction i _ => i ≠ .illegal
  | _ => true

/-- The fields of an F3-shaped instruction. -/
def Instr.f3? (i : Instr) : Option F3 :=
  match i with
  | .sadd f | .ssub f | .smul f | .smulhi f | .smulhu f | .sdiv f | .sdivu f | .srem f | .sremu f | .sand f | .sor f
  | .sxor f | .sshl f | .sshr f | .ssar f | .smin f | .smax f | .sminu f | .smaxu f | .ssel f | .sbfe f | .sbfi f
  | .spopc f | .sclz f | .smov f | .scmpeq f | .scmpne f | .scmplt f | .scmple f | .scmpltu f | .scmpleu f
  | .scmpgt f | .scmpge f | .scmpgtu f | .scmpgeu f | .sfadd f | .sfsub f | .sfmul f | .sfma f | .sfmin f | .sfmax f
  | .sfcmp f | .scvt f | .mand f | .mor f | .mxor f | .mandn f | .mnot f | .mmov f | .mpopc f | .mfirst f | .mtos f
  | .mfroms f | .mall f | .mclear f | .nop f | .jmpr f | .callr f | .endI f | .yield f | .bar f | .bart f | .setfmt f
  | .kset f | .kadd f | .kwait f | .krd f | .karm f | .vadd f | .vsub f | .vmul f | .vmulhi f | .vmulhu f | .vand f
  | .vor f | .vxor f | .vshl f | .vshr f | .vsar f | .vmin f | .vmax f | .vminu f | .vmaxu f | .vaddsat f
  | .vsubsat f | .vabsdiff f | .vmad f | .vbfe f | .vbfi f | .vpopc f | .vclz f | .vmov f | .vsel f | .vdot4 f
  | .vdot4u f | .viota f | .vcmpeq f | .vcmpne f | .vcmplt f | .vcmple f | .vcmpltu f | .vcmpleu f | .vcmpgt f
  | .vcmpge f | .vcmpgtu f | .vcmpgeu f | .vshuf f | .vrot f | .vbcast f | .vred f | .vscan f | .vcompact f
  | .vswiz f | .vfadd f | .vfsub f | .vfmul f | .vfma f | .vfmin f | .vfmax f | .vfrnd f | .vfract f | .vhadd f
  | .vhmul f | .vhfma f | .vfdot2 f | .vfcmpeq f | .vfcmpne f | .vfcmplt f | .vfcmple f | .vfcmpgt f | .vfcmpge f
  | .vfcmpord f | .vfcmpunord f | .vrcp f | .vrsq f | .vsqrt f | .vexp2 f | .vlog2 f | .vsin f | .vcos f | .vtanh f
  | .vcvt f | .vpack f | .vunpack f | .vscale f | .ldg f | .stg f | .ldgs f | .stgs f | .pin f | .unpin f | .cflush f
  | .ldlod f | .lodq f | .lds f | .sts f | .ldt f | .stt f | .ldb f | .stb f | .aaddG f | .aminG f | .amaxG f
  | .aminuG f | .amaxuG f | .aandG f | .aorG f | .axorG f | .axchgG f | .acasG f | .afaddG f | .afminG f | .afmaxG f
  | .aaddS f | .aminS f | .amaxS f | .aminuS f | .amaxuS f | .aandS f | .aorS f | .axorS f | .axchgS f | .acasS f
  | .afaddS f | .afminS f | .afmaxS f | .fence f | .afence f | .amsg f | .amsgw f | .laymake f | .laychk f | .cpyin f
  | .cpyout f | .cpymc f | .cpycb f | .cbload f | .tcfg f | .mma f | .mmaz f | .mclr f | .mld f | .mst f | .mstv f
  | .mfence f | .mbatch f | .mwait f | .sample f | .samplel f | .sampleg f | .tfetch f | .gather4 f | .imgld f
  | .imgst f | .qlod f | .pixout f | .zout f | .discard f | .pixld f | .vtxout f | .primout f | .meshend f
  | .taskout f | .posout f | .rqinit f | .rqstep f | .rqcommit f | .rqget f | .rqtrail f | .boxtest f | .tritest f
  | .hopl f | .segid f | .launch f | .emit f | .emitc f | .recget f | .recdone f | .tret f | .srd f | .swr f
  | .pctr f | .pcfg f | .iflush f | .brk f => some f
  | _ => none

/-- The fields of an FI instruction. -/
def Instr.fi? (i : Instr) : Option FI :=
  match i with
  | .saddI f | .ssubI f | .smulI f | .smulhiI f | .smulhuI f | .sdivI f | .sdivuI f | .sremI f | .sremuI f | .sandI f
  | .sorI f | .sxorI f | .sshlI f | .sshrI f | .ssarI f | .sminI f | .smaxI f | .sminuI f | .smaxuI f | .sbfeI f
  | .sbfiI f | .scmpeqI f | .scmpneI f | .scmpltI f | .scmpleI f | .scmpltuI f | .scmpleuI f | .scmpgtI f
  | .scmpgeI f | .scmpgtuI f | .scmpgeuI f | .kyield f | .vaddI f | .vsubI f | .vmulI f | .vmulhiI f | .vmulhuI f
  | .vandI f | .vorI f | .vxorI f | .vshlI f | .vshrI f | .vsarI f | .vminI f | .vmaxI f | .vminuI f | .vmaxuI f
  | .vaddsatI f | .vsubsatI f | .vabsdiffI f | .vmadI f | .vbfeI f | .vbfiI f | .vdot4I f | .vdot4uI f | .vcmpeqI f
  | .vcmpneI f | .vcmpltI f | .vcmpleI f | .vcmpltuI f | .vcmpleuI f | .vcmpgtI f | .vcmpgeI f | .vcmpgtuI f
  | .vcmpgeuI f | .hop f | .trap f => some f
  | _ => none

/-- An instruction is well formed when decoding its word raises neither ILLEGAL_INSTR nor ILLEGAL_PAIR (R336). -/
def Instr.wf (i : Instr) : Bool :=
  i.formLegal &&
  match i.sheet with
  | none => true
  | some sh => (match i.f3? with | some f => sh.f3Legal f | none => true) && (match i.fi? with | some f => sh.fiLegal f | none => true)

/-- The same as a proposition. -/
def WellFormed (i : Instr) : Prop := i.wf = true

end Sys2Proof
end

