-- ==== Sys2Proof/Decode.lean ====
section
/-! DEFINITION. Decoding, total on any word or bytes, and the encoder written from the same tables: the Idivo words of
R313-R350, the awl words of R246, and the RV32IMAC and Zicsr words of R239 (their encodings are those of the RISC-V
unprivileged specification, which the manual names and does not repeat: PRESUMED, log 12). Decoding is marked noncomputable only because compiled Lean code cannot build a
constructor of an inductive beyond its 244th; the kernel evaluates every definition here. -/
namespace Sys2Proof

/-- Why a word is no instruction (R336): the trap that decoding raises. -/
inductive DecodeErr
  | illegalInstr
  | illegalPair
  deriving DecidableEq, Repr

/-- R336: every word is an instruction or a defined trap. -/
inductive Decoded
  | instr (i : Instr)
  | bad (e : DecodeErr)
  deriving DecidableEq, Repr

/-- R4: the number that bytes in ascending address order hold. -/
def leNat : List Byte → Nat
  | [] => 0
  | b :: r => b.toNat + 256 * leNat r

/-- R4: the first `n` bytes of a number, in ascending address order. -/
def leBytes : Nat → Nat → List Byte
  | 0, _ => []
  | n + 1, v => BitVec.ofNat 8 v :: leBytes n (v / 256)

def f3Of (w : DWord) : F3 :=
  { pm := w.extractLsb' 47 4, ty := w.extractLsb' 43 4, md := w.extractLsb' 40 3, x := w.extractLsb' 33 7
    d := w.extractLsb' 22 11, a := w.extractLsb' 11 11, b := w.extractLsb' 0 11 }

def fiOf (w : DWord) : FI :=
  { pm := w.extractLsb' 47 4, ty := w.extractLsb' 43 4, imm := w.extractLsb' 33 10 ++ w.extractLsb' 0 11
    d := w.extractLsb' 22 11, a := w.extractLsb' 11 11 }

def flOf (w : DWord) : FL := { d := w.extractLsb' 40 11, imm := w.extractLsb' 8 32 }
/-- R323: bits [7:0] are zero. -/
def flZero (w : DWord) : Bool := w.extractLsb' 0 8 = 0#8

def fbOf (w : DWord) : FB :=
  { pm := w.extractLsb' 47 4, cc := w.extractLsb' 44 3, neg := w.extractLsb' 43 1, disp := w.extractLsb' 8 32 }
/-- R324: bits [42:40] and [7:0] are zero. -/
def fbZero (w : DWord) : Bool := w.extractLsb' 40 3 = 0#3 && w.extractLsb' 0 8 = 0#8

def frOf (w : DWord) : FR :=
  { cnt := w.extractLsb' 50 6, dinc := w.extractLsb' 46 4, ainc := w.extractLsb' 42 4, binc := w.extractLsb' 38 4 }
/-- R327: bits [37:0] are zero. -/
def frZero (w : DWord) : Bool := w.extractLsb' 0 38 = 0#38

/-- R330: one half, from its 31 bits. -/
def halfOf (h : BitVec 31) : Half :=
  { ho := h.extractLsb' 25 6, pm := h.extractLsb' 22 3, d := h.extractLsb' 14 8, a := h.extractLsb' 5 9 }

/-- The instructions of OP 0x01 by FN (R338-R348). -/
def op01 (fn : Nat) (w : DWord) : Option Instr :=
  match fn with
  | 0 => some (.sadd (f3Of w))
  | 1 => some (.ssub (f3Of w))
  | 2 => some (.smul (f3Of w))
  | 3 => some (.smulhi (f3Of w))
  | 4 => some (.smulhu (f3Of w))
  | 5 => some (.sdiv (f3Of w))
  | 6 => some (.sdivu (f3Of w))
  | 7 => some (.srem (f3Of w))
  | 8 => some (.sremu (f3Of w))
  | 9 => some (.sand (f3Of w))
  | 10 => some (.sor (f3Of w))
  | 11 => some (.sxor (f3Of w))
  | 12 => some (.sshl (f3Of w))
  | 13 => some (.sshr (f3Of w))
  | 14 => some (.ssar (f3Of w))
  | 15 => some (.smin (f3Of w))
  | 16 => some (.smax (f3Of w))
  | 17 => some (.sminu (f3Of w))
  | 18 => some (.smaxu (f3Of w))
  | 19 => some (.ssel (f3Of w))
  | 20 => some (.sbfe (f3Of w))
  | 21 => some (.sbfi (f3Of w))
  | 22 => some (.spopc (f3Of w))
  | 23 => some (.sclz (f3Of w))
  | 24 => some (.smov (f3Of w))
  | _ => none

/-- The instructions of OP 0x02 by FN (R338-R348). -/
def op02 (fn : Nat) (w : DWord) : Option Instr :=
  match fn with
  | 0 => some (.saddI (fiOf w))
  | 1 => some (.ssubI (fiOf w))
  | 2 => some (.smulI (fiOf w))
  | 3 => some (.smulhiI (fiOf w))
  | 4 => some (.smulhuI (fiOf w))
  | 5 => some (.sdivI (fiOf w))
  | 6 => some (.sdivuI (fiOf w))
  | 7 => some (.sremI (fiOf w))
  | 8 => some (.sremuI (fiOf w))
  | 9 => some (.sandI (fiOf w))
  | 10 => some (.sorI (fiOf w))
  | 11 => some (.sxorI (fiOf w))
  | 12 => some (.sshlI (fiOf w))
  | 13 => some (.sshrI (fiOf w))
  | 14 => some (.ssarI (fiOf w))
  | 15 => some (.sminI (fiOf w))
  | 16 => some (.smaxI (fiOf w))
  | 17 => some (.sminuI (fiOf w))
  | 18 => some (.smaxuI (fiOf w))
  | 20 => some (.sbfeI (fiOf w))
  | 21 => some (.sbfiI (fiOf w))
  | _ => none

/-- The instructions of OP 0x03 by FN (R338-R348). -/
def op03 (fn : Nat) (w : DWord) : Option Instr :=
  match fn with
  | 0 => if flZero w then some (.sli (flOf w)) else none
  | 1 => if flZero w then some (.sadr (flOf w)) else none
  | _ => none

/-- The instructions of OP 0x04 by FN (R338-R348). -/
def op04 (fn : Nat) (w : DWord) : Option Instr :=
  match fn with
  | 0 => some (.scmpeq (f3Of w))
  | 1 => some (.scmpne (f3Of w))
  | 2 => some (.scmplt (f3Of w))
  | 3 => some (.scmple (f3Of w))
  | 4 => some (.scmpltu (f3Of w))
  | 5 => some (.scmpleu (f3Of w))
  | 6 => some (.scmpgt (f3Of w))
  | 7 => some (.scmpge (f3Of w))
  | 8 => some (.scmpgtu (f3Of w))
  | 9 => some (.scmpgeu (f3Of w))
  | _ => none

/-- The instructions of OP 0x05 by FN (R338-R348). -/
def op05 (fn : Nat) (w : DWord) : Option Instr :=
  match fn with
  | 0 => some (.scmpeqI (fiOf w))
  | 1 => some (.scmpneI (fiOf w))
  | 2 => some (.scmpltI (fiOf w))
  | 3 => some (.scmpleI (fiOf w))
  | 4 => some (.scmpltuI (fiOf w))
  | 5 => some (.scmpleuI (fiOf w))
  | 6 => some (.scmpgtI (fiOf w))
  | 7 => some (.scmpgeI (fiOf w))
  | 8 => some (.scmpgtuI (fiOf w))
  | 9 => some (.scmpgeuI (fiOf w))
  | _ => none

/-- The instructions of OP 0x06 by FN (R338-R348). -/
def op06 (fn : Nat) (w : DWord) : Option Instr :=
  match fn with
  | 0 => some (.sfadd (f3Of w))
  | 1 => some (.sfsub (f3Of w))
  | 2 => some (.sfmul (f3Of w))
  | 3 => some (.sfma (f3Of w))
  | 4 => some (.sfmin (f3Of w))
  | 5 => some (.sfmax (f3Of w))
  | 6 => some (.sfcmp (f3Of w))
  | 7 => some (.scvt (f3Of w))
  | _ => none

/-- The instructions of OP 0x07 by FN (R338-R348). -/
def op07 (fn : Nat) (w : DWord) : Option Instr :=
  match fn with
  | 0 => some (.mand (f3Of w))
  | 1 => some (.mor (f3Of w))
  | 2 => some (.mxor (f3Of w))
  | 3 => some (.mandn (f3Of w))
  | 4 => some (.mnot (f3Of w))
  | 5 => some (.mmov (f3Of w))
  | 6 => some (.mpopc (f3Of w))
  | 7 => some (.mfirst (f3Of w))
  | 8 => some (.mtos (f3Of w))
  | 9 => some (.mfroms (f3Of w))
  | 10 => some (.mall (f3Of w))
  | 11 => some (.mclear (f3Of w))
  | _ => none

/-- The instructions of OP 0x10 by FN (R338-R348). -/
def op10 (fn : Nat) (w : DWord) : Option Instr :=
  match fn with
  | 0 => some (.nop (f3Of w))
  | _ => none

/-- The instructions of OP 0x11 by FN (R338-R348). -/
def op11 (fn : Nat) (w : DWord) : Option Instr :=
  match fn with
  | 0 => if fbZero w then some (.bra (fbOf w)) else none
  | 1 => if fbZero w then some (.brc (fbOf w)) else none
  | 2 => if fbZero w then some (.brmz (fbOf w)) else none
  | 3 => if fbZero w then some (.brmnz (fbOf w)) else none
  | 4 => if fbZero w then some (.call (fbOf w)) else none
  | 5 => if fbZero w then some (.ret (fbOf w)) else none
  | 6 => some (.jmpr (f3Of w))
  | 7 => some (.callr (f3Of w))
  | _ => none

/-- The instructions of OP 0x13 by FN (R338-R348). -/
def op13 (fn : Nat) (w : DWord) : Option Instr :=
  match fn with
  | 0 => some (.endI (f3Of w))
  | 1 => some (.yield (f3Of w))
  | 2 => some (.bar (f3Of w))
  | 3 => some (.bart (f3Of w))
  | 4 => some (.setfmt (f3Of w))
  | _ => none

/-- The instructions of OP 0x14 by FN (R338-R348). -/
def op14 (fn : Nat) (w : DWord) : Option Instr :=
  match fn with
  | 0 => some (.kset (f3Of w))
  | 1 => some (.kadd (f3Of w))
  | 2 => some (.kwait (f3Of w))
  | 3 => some (.kyield (fiOf w))
  | 4 => some (.krd (f3Of w))
  | 5 => some (.karm (f3Of w))
  | _ => none

/-- The instructions of OP 0x20 by FN (R338-R348). -/
noncomputable def op20 (fn : Nat) (w : DWord) : Option Instr :=
  match fn with
  | 0 => some (.vadd (f3Of w))
  | 1 => some (.vsub (f3Of w))
  | 2 => some (.vmul (f3Of w))
  | 3 => some (.vmulhi (f3Of w))
  | 4 => some (.vmulhu (f3Of w))
  | 5 => some (.vand (f3Of w))
  | 6 => some (.vor (f3Of w))
  | 7 => some (.vxor (f3Of w))
  | 8 => some (.vshl (f3Of w))
  | 9 => some (.vshr (f3Of w))
  | 10 => some (.vsar (f3Of w))
  | 11 => some (.vmin (f3Of w))
  | 12 => some (.vmax (f3Of w))
  | 13 => some (.vminu (f3Of w))
  | 14 => some (.vmaxu (f3Of w))
  | 15 => some (.vaddsat (f3Of w))
  | 16 => some (.vsubsat (f3Of w))
  | 17 => some (.vabsdiff (f3Of w))
  | 18 => some (.vmad (f3Of w))
  | 19 => some (.vbfe (f3Of w))
  | 20 => some (.vbfi (f3Of w))
  | 21 => some (.vpopc (f3Of w))
  | 22 => some (.vclz (f3Of w))
  | 23 => some (.vmov (f3Of w))
  | 24 => some (.vsel (f3Of w))
  | 25 => some (.vdot4 (f3Of w))
  | 26 => some (.vdot4u (f3Of w))
  | 27 => some (.viota (f3Of w))
  | _ => none

/-- The instructions of OP 0x21 by FN (R338-R348). -/
noncomputable def op21 (fn : Nat) (w : DWord) : Option Instr :=
  match fn with
  | 0 => some (.vaddI (fiOf w))
  | 1 => some (.vsubI (fiOf w))
  | 2 => some (.vmulI (fiOf w))
  | 3 => some (.vmulhiI (fiOf w))
  | 4 => some (.vmulhuI (fiOf w))
  | 5 => some (.vandI (fiOf w))
  | 6 => some (.vorI (fiOf w))
  | 7 => some (.vxorI (fiOf w))
  | 8 => some (.vshlI (fiOf w))
  | 9 => some (.vshrI (fiOf w))
  | 10 => some (.vsarI (fiOf w))
  | 11 => some (.vminI (fiOf w))
  | 12 => some (.vmaxI (fiOf w))
  | 13 => some (.vminuI (fiOf w))
  | 14 => some (.vmaxuI (fiOf w))
  | 15 => some (.vaddsatI (fiOf w))
  | 16 => some (.vsubsatI (fiOf w))
  | 17 => some (.vabsdiffI (fiOf w))
  | 18 => some (.vmadI (fiOf w))
  | 19 => some (.vbfeI (fiOf w))
  | 20 => some (.vbfiI (fiOf w))
  | 25 => some (.vdot4I (fiOf w))
  | 26 => some (.vdot4uI (fiOf w))
  | _ => none

/-- The instructions of OP 0x22 by FN (R338-R348). -/
noncomputable def op22 (fn : Nat) (w : DWord) : Option Instr :=
  match fn with
  | 0 => some (.vcmpeq (f3Of w))
  | 1 => some (.vcmpne (f3Of w))
  | 2 => some (.vcmplt (f3Of w))
  | 3 => some (.vcmple (f3Of w))
  | 4 => some (.vcmpltu (f3Of w))
  | 5 => some (.vcmpleu (f3Of w))
  | 6 => some (.vcmpgt (f3Of w))
  | 7 => some (.vcmpge (f3Of w))
  | 8 => some (.vcmpgtu (f3Of w))
  | 9 => some (.vcmpgeu (f3Of w))
  | _ => none

/-- The instructions of OP 0x23 by FN (R338-R348). -/
noncomputable def op23 (fn : Nat) (w : DWord) : Option Instr :=
  match fn with
  | 0 => some (.vcmpeqI (fiOf w))
  | 1 => some (.vcmpneI (fiOf w))
  | 2 => some (.vcmpltI (fiOf w))
  | 3 => some (.vcmpleI (fiOf w))
  | 4 => some (.vcmpltuI (fiOf w))
  | 5 => some (.vcmpleuI (fiOf w))
  | 6 => some (.vcmpgtI (fiOf w))
  | 7 => some (.vcmpgeI (fiOf w))
  | 8 => some (.vcmpgtuI (fiOf w))
  | 9 => some (.vcmpgeuI (fiOf w))
  | _ => none

/-- The instructions of OP 0x24 by FN (R338-R348). -/
noncomputable def op24 (fn : Nat) (w : DWord) : Option Instr :=
  match fn with
  | 0 => some (.vshuf (f3Of w))
  | 1 => some (.vrot (f3Of w))
  | 2 => some (.vbcast (f3Of w))
  | 3 => some (.vred (f3Of w))
  | 4 => some (.vscan (f3Of w))
  | 5 => some (.vcompact (f3Of w))
  | 6 => some (.vswiz (f3Of w))
  | _ => none

/-- The instructions of OP 0x30 by FN (R338-R348). -/
noncomputable def op30 (fn : Nat) (w : DWord) : Option Instr :=
  match fn with
  | 0 => some (.vfadd (f3Of w))
  | 1 => some (.vfsub (f3Of w))
  | 2 => some (.vfmul (f3Of w))
  | 3 => some (.vfma (f3Of w))
  | 4 => some (.vfmin (f3Of w))
  | 5 => some (.vfmax (f3Of w))
  | 6 => some (.vfrnd (f3Of w))
  | 7 => some (.vfract (f3Of w))
  | 8 => some (.vhadd (f3Of w))
  | 9 => some (.vhmul (f3Of w))
  | 10 => some (.vhfma (f3Of w))
  | 11 => some (.vfdot2 (f3Of w))
  | _ => none

/-- The instructions of OP 0x31 by FN (R338-R348). -/
noncomputable def op31 (fn : Nat) (w : DWord) : Option Instr :=
  match fn with
  | 0 => some (.vfcmpeq (f3Of w))
  | 1 => some (.vfcmpne (f3Of w))
  | 2 => some (.vfcmplt (f3Of w))
  | 3 => some (.vfcmple (f3Of w))
  | 4 => some (.vfcmpgt (f3Of w))
  | 5 => some (.vfcmpge (f3Of w))
  | 6 => some (.vfcmpord (f3Of w))
  | 7 => some (.vfcmpunord (f3Of w))
  | _ => none

/-- The instructions of OP 0x32 by FN (R338-R348). -/
noncomputable def op32 (fn : Nat) (w : DWord) : Option Instr :=
  match fn with
  | 0 => some (.vrcp (f3Of w))
  | 1 => some (.vrsq (f3Of w))
  | 2 => some (.vsqrt (f3Of w))
  | 3 => some (.vexp2 (f3Of w))
  | 4 => some (.vlog2 (f3Of w))
  | 5 => some (.vsin (f3Of w))
  | 6 => some (.vcos (f3Of w))
  | 7 => some (.vtanh (f3Of w))
  | _ => none

/-- The instructions of OP 0x33 by FN (R338-R348). -/
noncomputable def op33 (fn : Nat) (w : DWord) : Option Instr :=
  match fn with
  | 0 => some (.vcvt (f3Of w))
  | 1 => some (.vpack (f3Of w))
  | 2 => some (.vunpack (f3Of w))
  | 3 => some (.vscale (f3Of w))
  | _ => none

/-- The instructions of OP 0x40 by FN (R338-R348). -/
noncomputable def op40 (fn : Nat) (w : DWord) : Option Instr :=
  match fn with
  | 0 => some (.ldg (f3Of w))
  | 1 => some (.stg (f3Of w))
  | 2 => some (.ldgs (f3Of w))
  | 3 => some (.stgs (f3Of w))
  | 4 => some (.pin (f3Of w))
  | 5 => some (.unpin (f3Of w))
  | 6 => some (.cflush (f3Of w))
  | 7 => some (.ldlod (f3Of w))
  | 8 => some (.lodq (f3Of w))
  | _ => none

/-- The instructions of OP 0x41 by FN (R338-R348). -/
noncomputable def op41 (fn : Nat) (w : DWord) : Option Instr :=
  match fn with
  | 0 => some (.lds (f3Of w))
  | 1 => some (.sts (f3Of w))
  | 2 => some (.ldt (f3Of w))
  | 3 => some (.stt (f3Of w))
  | 4 => some (.ldb (f3Of w))
  | 5 => some (.stb (f3Of w))
  | _ => none

/-- The instructions of OP 0x42 by FN (R338-R348). -/
noncomputable def op42 (fn : Nat) (w : DWord) : Option Instr :=
  match fn with
  | 0 => some (.aaddG (f3Of w))
  | 1 => some (.aminG (f3Of w))
  | 2 => some (.amaxG (f3Of w))
  | 3 => some (.aminuG (f3Of w))
  | 4 => some (.amaxuG (f3Of w))
  | 5 => some (.aandG (f3Of w))
  | 6 => some (.aorG (f3Of w))
  | 7 => some (.axorG (f3Of w))
  | 8 => some (.axchgG (f3Of w))
  | 9 => some (.acasG (f3Of w))
  | 10 => some (.afaddG (f3Of w))
  | 11 => some (.afminG (f3Of w))
  | 12 => some (.afmaxG (f3Of w))
  | _ => none

/-- The instructions of OP 0x43 by FN (R338-R348). -/
noncomputable def op43 (fn : Nat) (w : DWord) : Option Instr :=
  match fn with
  | 0 => some (.aaddS (f3Of w))
  | 1 => some (.aminS (f3Of w))
  | 2 => some (.amaxS (f3Of w))
  | 3 => some (.aminuS (f3Of w))
  | 4 => some (.amaxuS (f3Of w))
  | 5 => some (.aandS (f3Of w))
  | 6 => some (.aorS (f3Of w))
  | 7 => some (.axorS (f3Of w))
  | 8 => some (.axchgS (f3Of w))
  | 9 => some (.acasS (f3Of w))
  | 10 => some (.afaddS (f3Of w))
  | 11 => some (.afminS (f3Of w))
  | 12 => some (.afmaxS (f3Of w))
  | _ => none

/-- The instructions of OP 0x44 by FN (R338-R348). -/
noncomputable def op44 (fn : Nat) (w : DWord) : Option Instr :=
  match fn with
  | 0 => some (.fence (f3Of w))
  | 1 => some (.afence (f3Of w))
  | _ => none

/-- The instructions of OP 0x45 by FN (R338-R348). -/
noncomputable def op45 (fn : Nat) (w : DWord) : Option Instr :=
  match fn with
  | 0 => some (.amsg (f3Of w))
  | 1 => some (.amsgw (f3Of w))
  | _ => none

/-- The instructions of OP 0x50 by FN (R338-R348). -/
noncomputable def op50 (fn : Nat) (w : DWord) : Option Instr :=
  match fn with
  | 0 => some (.laymake (f3Of w))
  | 1 => some (.laychk (f3Of w))
  | _ => none

/-- The instructions of OP 0x51 by FN (R338-R348). -/
noncomputable def op51 (fn : Nat) (w : DWord) : Option Instr :=
  match fn with
  | 0 => some (.cpyin (f3Of w))
  | 1 => some (.cpyout (f3Of w))
  | 2 => some (.cpymc (f3Of w))
  | 3 => some (.cpycb (f3Of w))
  | 4 => some (.cbload (f3Of w))
  | _ => none

/-- The instructions of OP 0x58 by FN (R338-R348). -/
noncomputable def op58 (fn : Nat) (w : DWord) : Option Instr :=
  match fn with
  | 0 => some (.tcfg (f3Of w))
  | 1 => some (.mma (f3Of w))
  | 2 => some (.mmaz (f3Of w))
  | 3 => some (.mclr (f3Of w))
  | 4 => some (.mld (f3Of w))
  | 5 => some (.mst (f3Of w))
  | 6 => some (.mstv (f3Of w))
  | 7 => some (.mfence (f3Of w))
  | 8 => some (.mbatch (f3Of w))
  | 9 => some (.mwait (f3Of w))
  | _ => none

/-- The instructions of OP 0x60 by FN (R338-R348). -/
noncomputable def op60 (fn : Nat) (w : DWord) : Option Instr :=
  match fn with
  | 0 => some (.sample (f3Of w))
  | 1 => some (.samplel (f3Of w))
  | 2 => some (.sampleg (f3Of w))
  | 3 => some (.tfetch (f3Of w))
  | 4 => some (.gather4 (f3Of w))
  | 5 => some (.imgld (f3Of w))
  | 6 => some (.imgst (f3Of w))
  | 7 => some (.qlod (f3Of w))
  | _ => none

/-- The instructions of OP 0x61 by FN (R338-R348). -/
noncomputable def op61 (fn : Nat) (w : DWord) : Option Instr :=
  match fn with
  | 0 => some (.pixout (f3Of w))
  | 1 => some (.zout (f3Of w))
  | 2 => some (.discard (f3Of w))
  | 3 => some (.pixld (f3Of w))
  | _ => none

/-- The instructions of OP 0x62 by FN (R338-R348). -/
noncomputable def op62 (fn : Nat) (w : DWord) : Option Instr :=
  match fn with
  | 0 => some (.vtxout (f3Of w))
  | 1 => some (.primout (f3Of w))
  | 2 => some (.meshend (f3Of w))
  | 3 => some (.taskout (f3Of w))
  | 4 => some (.posout (f3Of w))
  | _ => none

/-- The instructions of OP 0x68 by FN (R338-R348). -/
noncomputable def op68 (fn : Nat) (w : DWord) : Option Instr :=
  match fn with
  | 0 => some (.rqinit (f3Of w))
  | 1 => some (.rqstep (f3Of w))
  | 2 => some (.rqcommit (f3Of w))
  | 3 => some (.rqget (f3Of w))
  | 4 => some (.rqtrail (f3Of w))
  | 5 => some (.boxtest (f3Of w))
  | 6 => some (.tritest (f3Of w))
  | _ => none

/-- The instructions of OP 0x69 by FN (R338-R348). -/
noncomputable def op69 (fn : Nat) (w : DWord) : Option Instr :=
  match fn with
  | 0 => some (.hop (fiOf w))
  | 1 => some (.hopl (f3Of w))
  | 2 => some (.segid (f3Of w))
  | _ => none

/-- The instructions of OP 0x6A by FN (R338-R348). -/
noncomputable def op6A (fn : Nat) (w : DWord) : Option Instr :=
  match fn with
  | 0 => some (.launch (f3Of w))
  | 1 => some (.emit (f3Of w))
  | 2 => some (.emitc (f3Of w))
  | 3 => some (.recget (f3Of w))
  | 4 => some (.recdone (f3Of w))
  | _ => none

/-- The instructions of OP 0x70 by FN (R338-R348). -/
noncomputable def op70 (fn : Nat) (w : DWord) : Option Instr :=
  match fn with
  | 0 => some (.trap (fiOf w))
  | 1 => some (.tret (f3Of w))
  | 2 => some (.srd (f3Of w))
  | 3 => some (.swr (f3Of w))
  | 4 => some (.pctr (f3Of w))
  | 5 => some (.pcfg (f3Of w))
  | 6 => some (.iflush (f3Of w))
  | 7 => some (.brk (f3Of w))
  | _ => none

/-- R338, R339: the instruction that OP and FN name; none for a reserved OP or an unassigned FN. -/
noncomputable def opTable (op fn : Nat) (w : DWord) : Option Instr :=
  match op with
  | 0x01 => op01 fn w
  | 0x02 => op02 fn w
  | 0x03 => op03 fn w
  | 0x04 => op04 fn w
  | 0x05 => op05 fn w
  | 0x06 => op06 fn w
  | 0x07 => op07 fn w
  | 0x10 => op10 fn w
  | 0x11 => op11 fn w
  | 0x13 => op13 fn w
  | 0x14 => op14 fn w
  | 0x20 => op20 fn w
  | 0x21 => op21 fn w
  | 0x22 => op22 fn w
  | 0x23 => op23 fn w
  | 0x24 => op24 fn w
  | 0x30 => op30 fn w
  | 0x31 => op31 fn w
  | 0x32 => op32 fn w
  | 0x33 => op33 fn w
  | 0x40 => op40 fn w
  | 0x41 => op41 fn w
  | 0x42 => op42 fn w
  | 0x43 => op43 fn w
  | 0x44 => op44 fn w
  | 0x45 => op45 fn w
  | 0x50 => op50 fn w
  | 0x51 => op51 fn w
  | 0x58 => op58 fn w
  | 0x60 => op60 fn w
  | 0x61 => op61 fn w
  | 0x62 => op62 fn w
  | 0x68 => op68 fn w
  | 0x69 => op69 fn w
  | 0x6A => op6A fn w
  | 0x70 => op70 fn w
  | 0x12 => if frZero w then some (.rep (frOf w)) else none
  | _ => none

/-- R320: OP and FN stand in bits 62:56 and 55:51. -/
noncomputable def fullWord (w : DWord) : Option Instr := opTable (w.extractLsb' 56 7).toNat (w.extractLsb' 51 5).toNat w

/-- R338: OP and FN of an instruction of a full-form word. -/
def Instr.opfn (i : Instr) : Option (Nat × Nat) :=
  match i with
  | .sadd _ => some (0x01, 0)
  | .ssub _ => some (0x01, 1)
  | .smul _ => some (0x01, 2)
  | .smulhi _ => some (0x01, 3)
  | .smulhu _ => some (0x01, 4)
  | .sdiv _ => some (0x01, 5)
  | .sdivu _ => some (0x01, 6)
  | .srem _ => some (0x01, 7)
  | .sremu _ => some (0x01, 8)
  | .sand _ => some (0x01, 9)
  | .sor _ => some (0x01, 10)
  | .sxor _ => some (0x01, 11)
  | .sshl _ => some (0x01, 12)
  | .sshr _ => some (0x01, 13)
  | .ssar _ => some (0x01, 14)
  | .smin _ => some (0x01, 15)
  | .smax _ => some (0x01, 16)
  | .sminu _ => some (0x01, 17)
  | .smaxu _ => some (0x01, 18)
  | .ssel _ => some (0x01, 19)
  | .sbfe _ => some (0x01, 20)
  | .sbfi _ => some (0x01, 21)
  | .spopc _ => some (0x01, 22)
  | .sclz _ => some (0x01, 23)
  | .smov _ => some (0x01, 24)
  | .saddI _ => some (0x02, 0)
  | .ssubI _ => some (0x02, 1)
  | .smulI _ => some (0x02, 2)
  | .smulhiI _ => some (0x02, 3)
  | .smulhuI _ => some (0x02, 4)
  | .sdivI _ => some (0x02, 5)
  | .sdivuI _ => some (0x02, 6)
  | .sremI _ => some (0x02, 7)
  | .sremuI _ => some (0x02, 8)
  | .sandI _ => some (0x02, 9)
  | .sorI _ => some (0x02, 10)
  | .sxorI _ => some (0x02, 11)
  | .sshlI _ => some (0x02, 12)
  | .sshrI _ => some (0x02, 13)
  | .ssarI _ => some (0x02, 14)
  | .sminI _ => some (0x02, 15)
  | .smaxI _ => some (0x02, 16)
  | .sminuI _ => some (0x02, 17)
  | .smaxuI _ => some (0x02, 18)
  | .sbfeI _ => some (0x02, 20)
  | .sbfiI _ => some (0x02, 21)
  | .sli _ => some (0x03, 0)
  | .sadr _ => some (0x03, 1)
  | .scmpeq _ => some (0x04, 0)
  | .scmpne _ => some (0x04, 1)
  | .scmplt _ => some (0x04, 2)
  | .scmple _ => some (0x04, 3)
  | .scmpltu _ => some (0x04, 4)
  | .scmpleu _ => some (0x04, 5)
  | .scmpgt _ => some (0x04, 6)
  | .scmpge _ => some (0x04, 7)
  | .scmpgtu _ => some (0x04, 8)
  | .scmpgeu _ => some (0x04, 9)
  | .scmpeqI _ => some (0x05, 0)
  | .scmpneI _ => some (0x05, 1)
  | .scmpltI _ => some (0x05, 2)
  | .scmpleI _ => some (0x05, 3)
  | .scmpltuI _ => some (0x05, 4)
  | .scmpleuI _ => some (0x05, 5)
  | .scmpgtI _ => some (0x05, 6)
  | .scmpgeI _ => some (0x05, 7)
  | .scmpgtuI _ => some (0x05, 8)
  | .scmpgeuI _ => some (0x05, 9)
  | .sfadd _ => some (0x06, 0)
  | .sfsub _ => some (0x06, 1)
  | .sfmul _ => some (0x06, 2)
  | .sfma _ => some (0x06, 3)
  | .sfmin _ => some (0x06, 4)
  | .sfmax _ => some (0x06, 5)
  | .sfcmp _ => some (0x06, 6)
  | .scvt _ => some (0x06, 7)
  | .mand _ => some (0x07, 0)
  | .mor _ => some (0x07, 1)
  | .mxor _ => some (0x07, 2)
  | .mandn _ => some (0x07, 3)
  | .mnot _ => some (0x07, 4)
  | .mmov _ => some (0x07, 5)
  | .mpopc _ => some (0x07, 6)
  | .mfirst _ => some (0x07, 7)
  | .mtos _ => some (0x07, 8)
  | .mfroms _ => some (0x07, 9)
  | .mall _ => some (0x07, 10)
  | .mclear _ => some (0x07, 11)
  | .nop _ => some (0x10, 0)
  | .bra _ => some (0x11, 0)
  | .brc _ => some (0x11, 1)
  | .brmz _ => some (0x11, 2)
  | .brmnz _ => some (0x11, 3)
  | .call _ => some (0x11, 4)
  | .ret _ => some (0x11, 5)
  | .jmpr _ => some (0x11, 6)
  | .callr _ => some (0x11, 7)
  | .endI _ => some (0x13, 0)
  | .yield _ => some (0x13, 1)
  | .bar _ => some (0x13, 2)
  | .bart _ => some (0x13, 3)
  | .setfmt _ => some (0x13, 4)
  | .kset _ => some (0x14, 0)
  | .kadd _ => some (0x14, 1)
  | .kwait _ => some (0x14, 2)
  | .kyield _ => some (0x14, 3)
  | .krd _ => some (0x14, 4)
  | .karm _ => some (0x14, 5)
  | .vadd _ => some (0x20, 0)
  | .vsub _ => some (0x20, 1)
  | .vmul _ => some (0x20, 2)
  | .vmulhi _ => some (0x20, 3)
  | .vmulhu _ => some (0x20, 4)
  | .vand _ => some (0x20, 5)
  | .vor _ => some (0x20, 6)
  | .vxor _ => some (0x20, 7)
  | .vshl _ => some (0x20, 8)
  | .vshr _ => some (0x20, 9)
  | .vsar _ => some (0x20, 10)
  | .vmin _ => some (0x20, 11)
  | .vmax _ => some (0x20, 12)
  | .vminu _ => some (0x20, 13)
  | .vmaxu _ => some (0x20, 14)
  | .vaddsat _ => some (0x20, 15)
  | .vsubsat _ => some (0x20, 16)
  | .vabsdiff _ => some (0x20, 17)
  | .vmad _ => some (0x20, 18)
  | .vbfe _ => some (0x20, 19)
  | .vbfi _ => some (0x20, 20)
  | .vpopc _ => some (0x20, 21)
  | .vclz _ => some (0x20, 22)
  | .vmov _ => some (0x20, 23)
  | .vsel _ => some (0x20, 24)
  | .vdot4 _ => some (0x20, 25)
  | .vdot4u _ => some (0x20, 26)
  | .viota _ => some (0x20, 27)
  | .vaddI _ => some (0x21, 0)
  | .vsubI _ => some (0x21, 1)
  | .vmulI _ => some (0x21, 2)
  | .vmulhiI _ => some (0x21, 3)
  | .vmulhuI _ => some (0x21, 4)
  | .vandI _ => some (0x21, 5)
  | .vorI _ => some (0x21, 6)
  | .vxorI _ => some (0x21, 7)
  | .vshlI _ => some (0x21, 8)
  | .vshrI _ => some (0x21, 9)
  | .vsarI _ => some (0x21, 10)
  | .vminI _ => some (0x21, 11)
  | .vmaxI _ => some (0x21, 12)
  | .vminuI _ => some (0x21, 13)
  | .vmaxuI _ => some (0x21, 14)
  | .vaddsatI _ => some (0x21, 15)
  | .vsubsatI _ => some (0x21, 16)
  | .vabsdiffI _ => some (0x21, 17)
  | .vmadI _ => some (0x21, 18)
  | .vbfeI _ => some (0x21, 19)
  | .vbfiI _ => some (0x21, 20)
  | .vdot4I _ => some (0x21, 25)
  | .vdot4uI _ => some (0x21, 26)
  | .vcmpeq _ => some (0x22, 0)
  | .vcmpne _ => some (0x22, 1)
  | .vcmplt _ => some (0x22, 2)
  | .vcmple _ => some (0x22, 3)
  | .vcmpltu _ => some (0x22, 4)
  | .vcmpleu _ => some (0x22, 5)
  | .vcmpgt _ => some (0x22, 6)
  | .vcmpge _ => some (0x22, 7)
  | .vcmpgtu _ => some (0x22, 8)
  | .vcmpgeu _ => some (0x22, 9)
  | .vcmpeqI _ => some (0x23, 0)
  | .vcmpneI _ => some (0x23, 1)
  | .vcmpltI _ => some (0x23, 2)
  | .vcmpleI _ => some (0x23, 3)
  | .vcmpltuI _ => some (0x23, 4)
  | .vcmpleuI _ => some (0x23, 5)
  | .vcmpgtI _ => some (0x23, 6)
  | .vcmpgeI _ => some (0x23, 7)
  | .vcmpgtuI _ => some (0x23, 8)
  | .vcmpgeuI _ => some (0x23, 9)
  | .vshuf _ => some (0x24, 0)
  | .vrot _ => some (0x24, 1)
  | .vbcast _ => some (0x24, 2)
  | .vred _ => some (0x24, 3)
  | .vscan _ => some (0x24, 4)
  | .vcompact _ => some (0x24, 5)
  | .vswiz _ => some (0x24, 6)
  | .vfadd _ => some (0x30, 0)
  | .vfsub _ => some (0x30, 1)
  | .vfmul _ => some (0x30, 2)
  | .vfma _ => some (0x30, 3)
  | .vfmin _ => some (0x30, 4)
  | .vfmax _ => some (0x30, 5)
  | .vfrnd _ => some (0x30, 6)
  | .vfract _ => some (0x30, 7)
  | .vhadd _ => some (0x30, 8)
  | .vhmul _ => some (0x30, 9)
  | .vhfma _ => some (0x30, 10)
  | .vfdot2 _ => some (0x30, 11)
  | .vfcmpeq _ => some (0x31, 0)
  | .vfcmpne _ => some (0x31, 1)
  | .vfcmplt _ => some (0x31, 2)
  | .vfcmple _ => some (0x31, 3)
  | .vfcmpgt _ => some (0x31, 4)
  | .vfcmpge _ => some (0x31, 5)
  | .vfcmpord _ => some (0x31, 6)
  | .vfcmpunord _ => some (0x31, 7)
  | .vrcp _ => some (0x32, 0)
  | .vrsq _ => some (0x32, 1)
  | .vsqrt _ => some (0x32, 2)
  | .vexp2 _ => some (0x32, 3)
  | .vlog2 _ => some (0x32, 4)
  | .vsin _ => some (0x32, 5)
  | .vcos _ => some (0x32, 6)
  | .vtanh _ => some (0x32, 7)
  | .vcvt _ => some (0x33, 0)
  | .vpack _ => some (0x33, 1)
  | .vunpack _ => some (0x33, 2)
  | .vscale _ => some (0x33, 3)
  | .ldg _ => some (0x40, 0)
  | .stg _ => some (0x40, 1)
  | .ldgs _ => some (0x40, 2)
  | .stgs _ => some (0x40, 3)
  | .pin _ => some (0x40, 4)
  | .unpin _ => some (0x40, 5)
  | .cflush _ => some (0x40, 6)
  | .ldlod _ => some (0x40, 7)
  | .lodq _ => some (0x40, 8)
  | .lds _ => some (0x41, 0)
  | .sts _ => some (0x41, 1)
  | .ldt _ => some (0x41, 2)
  | .stt _ => some (0x41, 3)
  | .ldb _ => some (0x41, 4)
  | .stb _ => some (0x41, 5)
  | .aaddG _ => some (0x42, 0)
  | .aminG _ => some (0x42, 1)
  | .amaxG _ => some (0x42, 2)
  | .aminuG _ => some (0x42, 3)
  | .amaxuG _ => some (0x42, 4)
  | .aandG _ => some (0x42, 5)
  | .aorG _ => some (0x42, 6)
  | .axorG _ => some (0x42, 7)
  | .axchgG _ => some (0x42, 8)
  | .acasG _ => some (0x42, 9)
  | .afaddG _ => some (0x42, 10)
  | .afminG _ => some (0x42, 11)
  | .afmaxG _ => some (0x42, 12)
  | .aaddS _ => some (0x43, 0)
  | .aminS _ => some (0x43, 1)
  | .amaxS _ => some (0x43, 2)
  | .aminuS _ => some (0x43, 3)
  | .amaxuS _ => some (0x43, 4)
  | .aandS _ => some (0x43, 5)
  | .aorS _ => some (0x43, 6)
  | .axorS _ => some (0x43, 7)
  | .axchgS _ => some (0x43, 8)
  | .acasS _ => some (0x43, 9)
  | .afaddS _ => some (0x43, 10)
  | .afminS _ => some (0x43, 11)
  | .afmaxS _ => some (0x43, 12)
  | .fence _ => some (0x44, 0)
  | .afence _ => some (0x44, 1)
  | .amsg _ => some (0x45, 0)
  | .amsgw _ => some (0x45, 1)
  | .laymake _ => some (0x50, 0)
  | .laychk _ => some (0x50, 1)
  | .cpyin _ => some (0x51, 0)
  | .cpyout _ => some (0x51, 1)
  | .cpymc _ => some (0x51, 2)
  | .cpycb _ => some (0x51, 3)
  | .cbload _ => some (0x51, 4)
  | .tcfg _ => some (0x58, 0)
  | .mma _ => some (0x58, 1)
  | .mmaz _ => some (0x58, 2)
  | .mclr _ => some (0x58, 3)
  | .mld _ => some (0x58, 4)
  | .mst _ => some (0x58, 5)
  | .mstv _ => some (0x58, 6)
  | .mfence _ => some (0x58, 7)
  | .mbatch _ => some (0x58, 8)
  | .mwait _ => some (0x58, 9)
  | .sample _ => some (0x60, 0)
  | .samplel _ => some (0x60, 1)
  | .sampleg _ => some (0x60, 2)
  | .tfetch _ => some (0x60, 3)
  | .gather4 _ => some (0x60, 4)
  | .imgld _ => some (0x60, 5)
  | .imgst _ => some (0x60, 6)
  | .qlod _ => some (0x60, 7)
  | .pixout _ => some (0x61, 0)
  | .zout _ => some (0x61, 1)
  | .discard _ => some (0x61, 2)
  | .pixld _ => some (0x61, 3)
  | .vtxout _ => some (0x62, 0)
  | .primout _ => some (0x62, 1)
  | .meshend _ => some (0x62, 2)
  | .taskout _ => some (0x62, 3)
  | .posout _ => some (0x62, 4)
  | .rqinit _ => some (0x68, 0)
  | .rqstep _ => some (0x68, 1)
  | .rqcommit _ => some (0x68, 2)
  | .rqget _ => some (0x68, 3)
  | .rqtrail _ => some (0x68, 4)
  | .boxtest _ => some (0x68, 5)
  | .tritest _ => some (0x68, 6)
  | .hop _ => some (0x69, 0)
  | .hopl _ => some (0x69, 1)
  | .segid _ => some (0x69, 2)
  | .launch _ => some (0x6A, 0)
  | .emit _ => some (0x6A, 1)
  | .emitc _ => some (0x6A, 2)
  | .recget _ => some (0x6A, 3)
  | .recdone _ => some (0x6A, 4)
  | .trap _ => some (0x70, 0)
  | .tret _ => some (0x70, 1)
  | .srd _ => some (0x70, 2)
  | .swr _ => some (0x70, 3)
  | .pctr _ => some (0x70, 4)
  | .pcfg _ => some (0x70, 5)
  | .iflush _ => some (0x70, 6)
  | .brk _ => some (0x70, 7)
  | _ => none

/-- R333: a paired word. -/
noncomputable def decodePair (w : DWord) : Decoded :=
  let h0 := w.extractLsb' 32 31
  let h1 := w.extractLsb' 1 31
  if w.getLsbD 0 || h0.extractLsb' 0 5 ≠ 0#5 || h1.extractLsb' 0 5 ≠ 0#5 then .bad .illegalInstr
  else if !pairLegal (halfOf h0) (halfOf h1) then .bad .illegalInstr
  else if !bankRule (halfOf h0) (halfOf h1) then .bad .illegalPair
  else .instr (.pairedWord (halfOf h0) (halfOf h1))

/-- R340: the instruction of a 64-bit word, or the trap that decoding it raises. Every word is one or the other (R336). -/
noncomputable def decodeWord (w : DWord) : Decoded :=
  if w.getLsbD 63 then decodePair w
  else match fullWord w with
    | none => .bad .illegalInstr
    | some i => if i.wf then .instr i else .bad .illegalInstr

/-- R313: decoding the eight bytes at an instruction's address. -/
noncomputable def decodeBytes (l : List Byte) : Decoded × List Byte :=
  (decodeWord (BitVec.ofNat 64 (leNat (l.take 8))), l.drop 8)

/-! ### RV32IMAC with Zicsr (log 12) -/

def rvImmI (w : Word) : Word := (w.extractLsb' 20 12).signExtend 32
def rvImmS (w : Word) : Word := (w.extractLsb' 25 7 ++ w.extractLsb' 7 5).signExtend 32
def rvImmB (w : Word) : Word :=
  (w.extractLsb' 31 1 ++ w.extractLsb' 7 1 ++ w.extractLsb' 25 6 ++ w.extractLsb' 8 4 ++ 0#1).signExtend 32
def rvImmJ (w : Word) : Word :=
  (w.extractLsb' 31 1 ++ w.extractLsb' 12 8 ++ w.extractLsb' 20 1 ++ w.extractLsb' 21 10 ++ 0#1).signExtend 32

/-- The register operation that funct7 and funct3 name. -/
def rvOpOf (f7 f3 : Nat) : Option RvAlu :=
  match f7, f3 with
  | 0, 0 => some .add | 0x20, 0 => some .sub | 0, 1 => some .sll | 0, 2 => some .slt | 0, 3 => some .sltu
  | 0, 4 => some .xor | 0, 5 => some .srl | 0x20, 5 => some .sra | 0, 6 => some .or | 0, 7 => some .and
  | 1, 0 => some .mul | 1, 1 => some .mulh | 1, 2 => some .mulhsu | 1, 3 => some .mulhu
  | 1, 4 => some .div | 1, 5 => some .divu | 1, 6 => some .rem | 1, 7 => some .remu
  | _, _ => none

def rvAmoOf (f5 : Nat) : Option RvAmo :=
  match f5 with
  | 1 => some .swap | 0 => some .add | 4 => some .xor | 12 => some .and | 8 => some .or
  | 16 => some .min | 20 => some .max | 24 => some .minu | 28 => some .maxu | _ => none

/-- A 32-bit RV32IMA or Zicsr word. -/
def decodeRv32 (w : Word) : Rv :=
  let rd := w.extractLsb' 7 5
  let rs1 := w.extractLsb' 15 5
  let rs2 := w.extractLsb' 20 5
  let f3 := (w.extractLsb' 12 3).toNat
  let f7 := (w.extractLsb' 25 7).toNat
  match (w.extractLsb' 0 7).toNat with
  | 0x37 => .lui rd (w &&& 0xFFFFF000#32)
  | 0x17 => .auipc rd (w &&& 0xFFFFF000#32)
  | 0x6F => .jal rd (rvImmJ w)
  | 0x67 => if f3 = 0 then .jalr rd rs1 (rvImmI w) else .illegal
  | 0x63 => match f3 with
    | 0 => .branch .eq rs1 rs2 (rvImmB w) | 1 => .branch .ne rs1 rs2 (rvImmB w)
    | 4 => .branch .lt rs1 rs2 (rvImmB w) | 5 => .branch .ge rs1 rs2 (rvImmB w)
    | 6 => .branch .ltu rs1 rs2 (rvImmB w) | 7 => .branch .geu rs1 rs2 (rvImmB w)
    | _ => .illegal
  | 0x03 => match f3 with
    | 0 => .load .b rd rs1 (rvImmI w) | 1 => .load .h rd rs1 (rvImmI w) | 2 => .load .w rd rs1 (rvImmI w)
    | 4 => .load .bu rd rs1 (rvImmI w) | 5 => .load .hu rd rs1 (rvImmI w) | _ => .illegal
  | 0x23 => match f3 with
    | 0 => .store .b rs2 rs1 (rvImmS w) | 1 => .store .h rs2 rs1 (rvImmS w) | 2 => .store .w rs2 rs1 (rvImmS w)
    | _ => .illegal
  | 0x13 => match f3 with
    | 1 => if f7 = 0 then .opImm .sll rd rs1 (rs2.setWidth 32) else .illegal
    | 5 => if f7 = 0 then .opImm .srl rd rs1 (rs2.setWidth 32)
           else if f7 = 0x20 then .opImm .sra rd rs1 (rs2.setWidth 32) else .illegal
    | k => match rvOpOf 0 k with | some o => .opImm o rd rs1 (rvImmI w) | none => .illegal
  | 0x33 => match rvOpOf f7 f3 with | some o => .op o rd rs1 rs2 | none => .illegal
  | 0x0F => if f3 = 0 then .fence else .illegal
  | 0x2F =>
    if f3 ≠ 2 then .illegal
    else match (w.extractLsb' 27 5).toNat with
      | 2 => if rs2 = 0 then .lr rd rs1 else .illegal
      | 3 => .sc rd rs1 rs2
      | k => match rvAmoOf k with | some o => .amo o rd rs1 rs2 | none => .illegal
  | 0x73 => match f3 with
    | 0 => if w = 0x73#32 then .ecall else if w = 0x100073#32 then .ebreak else if w = 0x10500073#32 then .wfi else .illegal
    | 1 => .csr .rw rd (w.extractLsb' 20 12) rs1 | 2 => .csr .rs rd (w.extractLsb' 20 12) rs1
    | 3 => .csr .rc rd (w.extractLsb' 20 12) rs1 | 5 => .csri .rw rd (w.extractLsb' 20 12) rs1
    | 6 => .csri .rs rd (w.extractLsb' 20 12) rs1 | 7 => .csri .rc rd (w.extractLsb' 20 12) rs1
    | _ => .illegal
  | _ => .illegal

/-- The register x8 to x15 that a three-bit field of a compressed word names. -/
def rvC3 (b : BitVec 3) : BitVec 5 := 1#2 ++ b

/-- A 16-bit compressed word, as the instruction it stands for. -/
def decodeRvC (h : BitVec 16) : Rv :=
  let bit (i : Nat) : BitVec 1 := h.extractLsb' i 1
  let rd := h.extractLsb' 7 5
  let rs2 := h.extractLsb' 2 5
  let r1' := rvC3 (h.extractLsb' 7 3)
  let r2' := rvC3 (h.extractLsb' 2 3)
  let imm6 : Word := (bit 12 ++ h.extractLsb' 2 5).signExtend 32
  let sh : Word := (h.extractLsb' 2 5).setWidth 32
  let lwImm : Word := (bit 5 ++ h.extractLsb' 10 3 ++ bit 6 ++ 0#2).setWidth 32
  let jImm : Word := (bit 12 ++ bit 8 ++ h.extractLsb' 9 2 ++ bit 6 ++ bit 7 ++ bit 2 ++ bit 11 ++ h.extractLsb' 3 3 ++ 0#1).signExtend 32
  let bImm : Word := (bit 12 ++ h.extractLsb' 5 2 ++ bit 2 ++ h.extractLsb' 10 2 ++ h.extractLsb' 3 2 ++ 0#1).signExtend 32
  match (h.extractLsb' 0 2).toNat, (h.extractLsb' 13 3).toNat with
  | 0, 0 =>
    let imm : Word := (h.extractLsb' 7 4 ++ h.extractLsb' 11 2 ++ bit 5 ++ bit 6 ++ 0#2).setWidth 32
    if imm = 0 then .illegal else .opImm .add r2' 2#5 imm
  | 0, 2 => .load .w r2' r1' lwImm
  | 0, 6 => .store .w r2' r1' lwImm
  | 1, 0 => .opImm .add rd rd imm6
  | 1, 1 => .jal 1#5 jImm
  | 1, 2 => .opImm .add rd 0#5 imm6
  | 1, 3 =>
    if rd = 2#5 then
      let imm : Word := (bit 12 ++ h.extractLsb' 3 2 ++ bit 5 ++ bit 2 ++ bit 6 ++ 0#4).signExtend 32
      if imm = 0 then .illegal else .opImm .add 2#5 2#5 imm
    else if imm6 = 0 then .illegal else .lui rd (imm6 <<< 12)
  | 1, 4 => match (h.extractLsb' 10 2).toNat with
    | 0 => if bit 12 = 1#1 then .illegal else .opImm .srl r1' r1' sh
    | 1 => if bit 12 = 1#1 then .illegal else .opImm .sra r1' r1' sh
    | 2 => .opImm .and r1' r1' imm6
    | _ => if bit 12 = 1#1 then .illegal else match (h.extractLsb' 5 2).toNat with
      | 0 => .op .sub r1' r1' r2' | 1 => .op .xor r1' r1' r2' | 2 => .op .or r1' r1' r2' | _ => .op .and r1' r1' r2'
  | 1, 5 => .jal 0#5 jImm
  | 1, 6 => .branch .eq r1' 0#5 bImm
  | 1, 7 => .branch .ne r1' 0#5 bImm
  | 2, 0 => if bit 12 = 1#1 then .illegal else .opImm .sll rd rd sh
  | 2, 2 => if rd = 0 then .illegal else .load .w rd 2#5 ((h.extractLsb' 2 2 ++ bit 12 ++ h.extractLsb' 4 3 ++ 0#2).setWidth 32)
  | 2, 4 =>
    if bit 12 = 0#1 then
      if rs2 = 0 then (if rd = 0 then .illegal else .jalr 0#5 rd 0) else .op .add rd 0#5 rs2
    else if rs2 = 0 then (if rd = 0 then .ebreak else .jalr 1#5 rd 0) else .op .add rd rd rs2
  | 2, 6 => .store .w rs2 2#5 ((h.extractLsb' 7 2 ++ h.extractLsb' 9 4 ++ 0#2).setWidth 32)
  | _, _ => .illegal

/-- R246: the cache-side word that opcode, funct3 and funct7 name, with its unused fields zero. -/
def decodeCacheSide (w : Word) : Option Instr :=
  let r : AwlR := { rd := w.extractLsb' 7 5, rs1 := w.extractLsb' 15 5, rs2 := w.extractLsb' 20 5 }
  let i? : Option Instr :=
    match (w.extractLsb' 0 7).toNat, (w.extractLsb' 12 3).toNat, (w.extractLsb' 25 7).toNat with
    | 0x0B, 0, 0 => some (.alrd r) | 0x0B, 1, 0 => some (.alwr r) | 0x0B, 2, 0 => some (.alock r)
    | 0x0B, 2, 1 => some (.apin r) | 0x0B, 2, 2 => some (.aunpin r) | 0x0B, 3, 0 => some (.afill r)
    | 0x2B, 0, 0 => some (.afwd r) | 0x2B, 1, 0 => some (.areply r) | 0x2B, 2, 0 => some (.aend r)
    | _, _, _ => none
  match i? with
  | some i => if i.formLegal then some i else none
  | none => none

/-- An awl's word: a cache-side instruction, or a base instruction of 2 or 4 bytes; an illegal one is the base row's `illegal`. -/
def decodeAwl (w : Word) : Instr :=
  if w.extractLsb' 0 2 ≠ 3#2 then .awlBaseInstruction (decodeRvC (w.extractLsb' 0 16)) 2
  else if w.extractLsb' 0 7 = 0x0B#7 || w.extractLsb' 0 7 = 0x2B#7 then
    (decodeCacheSide w).getD (.awlBaseInstruction .illegal 4)
  else .awlBaseInstruction (decodeRv32 w) 4

/-! ### The encoder -/

/-- R320: the word of an F3 or FM instruction. -/
def packF3 (op fn : Nat) (f : F3) : DWord :=
  0#1 ++ BitVec.ofNat 7 op ++ BitVec.ofNat 5 fn ++ f.pm ++ f.ty ++ f.md ++ f.x ++ f.d ++ f.a ++ f.b

/-- R322: the word of an FI instruction. -/
def packFI (op fn : Nat) (f : FI) : DWord :=
  0#1 ++ BitVec.ofNat 7 op ++ BitVec.ofNat 5 fn ++ f.pm ++ f.ty ++ f.imm.extractLsb' 11 10 ++ f.d ++ f.a ++ f.imm.extractLsb' 0 11

/-- R323. -/
def packFL (op fn : Nat) (f : FL) : DWord := 0#1 ++ BitVec.ofNat 7 op ++ BitVec.ofNat 5 fn ++ f.d ++ f.imm ++ 0#8

/-- R324. -/
def packFB (op fn : Nat) (f : FB) : DWord :=
  0#1 ++ BitVec.ofNat 7 op ++ BitVec.ofNat 5 fn ++ f.pm ++ f.cc ++ f.neg ++ 0#3 ++ f.disp ++ 0#8

/-- R327. -/
def packFR (f : FR) : DWord := 0#1 ++ 0x12#7 ++ f.cnt ++ f.dinc ++ f.ainc ++ f.binc ++ 0#38

/-- R330. -/
def packHalf (h : Half) : BitVec 31 := h.ho ++ h.pm ++ h.d ++ h.a ++ 0#5
def packPair (h0 h1 : Half) : DWord := 1#1 ++ packHalf h0 ++ packHalf h1 ++ 0#1

/-- R246. -/
def packAwl (f7 f3 op : Nat) (r : AwlR) : Word :=
  BitVec.ofNat 7 f7 ++ r.rs2 ++ r.rs1 ++ BitVec.ofNat 3 f3 ++ r.rd ++ BitVec.ofNat 7 op

/-- The fields of an FB instruction, and of an FL instruction. -/
def Instr.fb? (i : Instr) : Option FB :=
  match i with
  | .bra f | .brc f | .brmz f | .brmnz f | .call f | .ret f => some f
  | _ => none
def Instr.fl? (i : Instr) : Option FL :=
  match i with
  | .sli f | .sadr f => some f
  | _ => none

/-- The 64-bit word of an Idivo instruction; 0, which is no instruction, for a row that has none. -/
def encodeWord (i : Instr) : DWord :=
  match i with
  | .pairedWord h0 h1 => packPair h0 h1
  | .rep f => packFR f
  | _ =>
    match i.opfn with
    | none => 0
    | some (op, fn) =>
      match i.f3?, i.fi?, i.fb?, i.fl? with
      | some f, _, _, _ => packF3 op fn f
      | _, some f, _, _ => packFI op fn f
      | _, _, some f, _ => packFB op fn f
      | _, _, _, some f => packFL op fn f
      | _, _, _, _ => 0

/-- The 32-bit word of a cache-side instruction (R246); 0 for every other row. -/
def encodeAwl (i : Instr) : Word :=
  match i with
  | .alrd r => packAwl 0 0 0x0B r | .alwr r => packAwl 0 1 0x0B r | .alock r => packAwl 0 2 0x0B r
  | .apin r => packAwl 1 2 0x0B r | .aunpin r => packAwl 2 2 0x0B r | .afill r => packAwl 0 3 0x0B r
  | .afwd r => packAwl 0 0 0x2B r | .areply r => packAwl 0 1 0x2B r | .aend r => packAwl 0 2 0x2B r
  | _ => 0

/-- The bytes of an instruction as they lie in memory, lowest address first; none for a row that no word encodes. -/
def encode (i : Instr) : Option (List Byte) :=
  if encodeWord i ≠ 0 then some (leBytes 8 (encodeWord i).toNat)
  else if encodeAwl i ≠ 0 then some (leBytes 4 (encodeAwl i).toNat)
  else none

/-- What the decoder reads from an instruction whose bits are `w`: an awl word when the table gives up to 32 bits, an Idivo word
otherwise. -/
noncomputable def decodeTableWord (nbits w : Nat) : Option Instr :=
  if nbits ≤ 32 then
    match decodeAwl (BitVec.ofNat 32 (leNat (leBytes 4 (w % 2 ^ nbits)))) with
    | .awlBaseInstruction .illegal _ => none
    | i => some i
  else match (decodeBytes (leBytes 8 (w % 2 ^ nbits))).1 with
    | .instr i => some i
    | .bad _ => none

end Sys2Proof
end

