-- ==== Sys2Proof/Config.lean ====
section
/-! DEFINITION. What an implementation fixes, and the free values: constants without a body, of which nothing in Lean can
prove anything (log 4). A claim about a free value holds whatever it is. -/
namespace Sys2Proof.Config

/-- A value the manual leaves open, numbered by the state's counter or by the operands it depends on (log 4). -/
opaque freeWord : Nat → Word
/-- A choice the manual leaves open between two outcomes (log 4). -/
opaque freeBool : Nat → Bool
/-- A choice the manual leaves open among several, taken modulo their number (log 4). -/
opaque freeNat : Nat → Nat
/-- The byte at an offset of a block's scratchpad that nothing has written since the block started (log 9). -/
opaque spmInitial : Nat → Nat → Byte
/-- By how much a VTRANS result differs from the exactly rounded one, before it is limited to the bound of R304, for a function
number and an input (log 10). -/
opaque vtransError : Nat → Word → Int
/-- SHA-384 of a byte string (R58, R60, R70; log 11). -/
opaque sha384 : List Byte → BitVec 384
/-- Whether an RSASSA-PSS SHA-384 signature verifies: modulus, message, signature (R59, R64; log 11). -/
opaque rsaVerify : List Byte → List Byte → List Byte → Bool
/-- Whether an SLH-DSA-SHA2-192s signature verifies: public key, message, signature (R59, R64; log 11). -/
opaque slhVerify : List Byte → List Byte → List Byte → Bool
/-- The identity key's RSA signature over a transcript digest (R69; log 11). -/
opaque rsaSign : BitVec 384 → List Byte
/-- The identity key's SLH-DSA signature over the same digest (R69; log 11). -/
opaque slhSign : BitVec 384 → List Byte
/-- The device identity certificate chain of slot 0 (R68; log 11). -/
opaque certChain : List Byte
/-- Words of SPDM responses that the manual does not give: timings and buffer sizes (R68; log 38). -/
opaque spdmWord : Nat → Word
/-- The boot ROM's bytes, of which measurement block 1 is the digest (R70; log 11). -/
opaque bootRom : List Byte
/-- Worrek's key digest in slot 0 (R61; log 11). -/
opaque vendorDigest : BitVec 384
/-- R116: how many launches beyond one a partition's launch queue holds before it is full (log 27). -/
opaque launchQueueMore : Nat

/-- R31, R32: whether a link of an output, at a rate and with a number of lanes, carries so many bits in a time (log 75). -/
opaque linkCarries : Nat → Nat → Nat → Nat → Bool

/-- R166: how a tile-list area of a size is laid out, of which only the number of entries it holds shows (log 35). -/
opaque binRoom : Nat → Nat

/-- R9, R180: cores of the Torram 96. -/
def cores : Nat := 96
/-- R12: enabled cores of the Torram 64. -/
def cores64 : Nat := 64
/-- R9: L2 slices. -/
def slices : Nat := 48
/-- R291: ways of an L2 set (R77, R221 and R291 together: the pin limit of 12 is the ways less 4). -/
def ways : Nat := 16
/-- R183: scalar registers of a core. -/
def coreSregs : Nat := 32768
/-- R183: vector registers of a core partition. -/
def partitionVregs : Nat := 512
/-- R189: scratchpad bytes of a core. -/
def spmBytes : Nat := 262144
/-- R193: bytes of a B-store slice. -/
def sliceBytes : Nat := 131072
/-- R195: copy-queue entries of a core. -/
def copyEntries : Nat := 64
/-- R458: operations the matrix pipeline holds. -/
def matrixDepth : Nat := 32
/-- R175: IXU slots of a core. -/
def ixuSlots : Nat := 16

end Sys2Proof.Config
end

