-- ==== Sys2Proof/Machine/State.lean ====
section
/-! DEFINITION. The machine's state as plain data, the reasons a step can stop, and the state after reset. Every piece of state
the manual names stands here; INVENTORY.md lists each with its rule and reset value. -/
namespace Sys2Proof.Machine

/-- Sparse data by key, keys strictly rising, unlisted keys absent. -/
abbrev KMap (α : Type) := List (Nat × α)
/-- Sparse words by key, keys strictly rising, an unlisted key reading as zero and never listed with zero. -/
abbrev Sparse (w : Nat) := List (Nat × BitVec w)

/-- Why a step stops with a fault. -/
inductive Fault
  /-- Raised by a meaning of an instruction of a group or an awl when no such agent is the current one: no step of the machine
  runs it so. Safe: it stops where the hardware has nothing to run. -/
  | noIssuer
  deriving DecidableEq, Repr

/-- Why a step is refused. -/
inductive Refusal
  /-- Raised by an arm of `exec` whose instruction has no meaning yet. Safe: nothing is claimed of it. -/
  | notModelled (mnemonic : String)
  deriving DecidableEq, Repr

/-- Which agent's instruction is being executed: a group, with the instruction word it fetched (R279), or the awl of a slice. -/
inductive Actor
  | none
  | group (gid : Nat) (word : DWord)
  | awl (slice : Nat)
  deriving DecidableEq, Repr

/-- What happens next: an event or command of the opcode table, an issue selection of a core partition (R134), an awl's next
instruction (R239), a visit of the Bridle to a queue (R48) or to the mailbox (R66), a host read of a register (R38), the passing of
clocks (R13), a flit that the Girth link sends or acknowledges (R28), or a sector that a copy moves (R450). -/
inductive Event
  | op (i : Instr)
  | issue (core cp : Nat)
  | awl (slice : Nat)
  | queue (fn ctx : Nat)
  | mailbox
  | registerRead (fn off : Nat)
  | coreClock (core n : Nat)
  | fabricClock (die n : Nat)
  | bridleClock (n : Nat)
  | linkSend (dir chan : Nat)
  | linkAck (dir chan seq : Nat)
  | copyMove (core idx : Nat)
  deriving DecidableEq, Repr, Inhabited

/-! ### Package, link and host interface -/

inductive Boot | booting | ready | failed | strapError
  deriving DecidableEq, Repr

/-- The package and its board. `t64` and `boardForm` tell the ordering codes apart (R1), `sriov` enables the virtual functions (R21), `acs` is PF0's
access control (R24). -/
structure Plat where
  powered : Bool := true
  heldInReset : Bool := false
  thermtrip : Bool := false
  t64 : Bool := false
  boardForm : Bool := false
  sriov : Bool := false
  acs : Word := 0
  reliable : Bool := false
  straps : Straps := {}
  presenceLow : Bool := false
  boot : Boot := .booting
  clock0 : Nat := 2100
  clock1 : Nat := 2100
  pwrbrake : Bool := false
  powerLimitW : Nat := 420
  bridleCycles : DWord := 0
  fabricCycles0 : Nat := 0
  fabricCycles1 : Nat := 0
  deriving DecidableEq, Repr

/-- One direction of the Girth link (R25-R30): flits are (channel, sequence number). `buffer` holds the last 512 sent, in the order sent, `resend` those
that go again before any other, and `replays` when the replays were asked for (R29). -/
structure LinkDir where
  buffer : List (Nat × Nat) := []
  nextSeq : List Nat := [0, 0, 0, 0]
  acked : List Nat := [0, 0, 0, 0]
  resend : List (Nat × Nat) := []
  replays : List DWord := []
  failedLanes : Nat := 0
  sparesUsed : Nat := 0
  half : Bool := false
  deriving DecidableEq, Repr

structure Link where
  retraining : Bool := false
  d0 : LinkDir := {}
  d1 : LinkDir := {}
  attempts : Nat := 0
  fatal : Bool := false
  deriving DecidableEq, Repr

/-- A function's window, log and interrupt registers (R41, R83, R84, R86), and its error status (R24). -/
structure Func where
  present : Bool := true
  decodeOn : Bool := true
  wbase : DWord := 0
  wen : Bool := false
  wsize : Nat := 28
  wsizeNext : Nat := 28
  elbase : DWord := 0
  elctl : Word := 0
  elwptr : Word := 0
  elrptr : Word := 0
  elovf : Word := 0
  gen : Word := 0
  dropgen : Word := 0
  aer : Word := 0
  msixMask : DWord := 0xFFFFFFFFFFFFFFFF#64
  msixPend : DWord := 0
  msixTable : Sparse 32 := []
  deriving DecidableEq, Repr

/-- The management mailbox (R66). -/
structure Mailbox where
  req : Word := 0
  go : Bool := false
  arg : DWord := 0
  argLen : Word := 0
  res : DWord := 0
  resLen : Word := 0
  stat : Word := 0
  resOut : Word := 0
  deriving DecidableEq, Repr

structure KeySlot where
  digest : BitVec 384 := 0
  enrolled : Bool := false
  revoked : Bool := false
  deriving DecidableEq, Repr

/-- The security block (R57-R65, R70). `fuses` is the fuse state as the boot ROM read it (R70). -/
structure Sec where
  slot0 : KeySlot := { digest := Config.vendorDigest, enrolled := true }
  slot1 : KeySlot := {}
  slot2 : KeySlot := {}
  slot3 : KeySlot := {}
  vendorOff : Bool := false
  minSvn : Nat := 0
  session : Bool := false
  nonce : Option (BitVec 384) := none
  flashA : List Byte := []
  flashB : List Byte := []
  selector : Byte := 0
  runningB : Option Bool := none
  runningSlot : Nat := 0
  runningDigest : BitVec 384 := 0
  slotDigest : BitVec 384 := 0
  bootFuses : List Byte := []
  deriving DecidableEq, Repr

/-- The SPDM responder (R68-R70). -/
structure Spdm where
  version : Bool := false
  caps : Bool := false
  algs : Bool := false
  transcript : List Byte := []
  response : List Byte := []
  deriving DecidableEq, Repr

/-- How a host access through a window completed (R22, R40, R41). -/
inductive Completion
  | success (data : List Byte)
  | unsupported
  | abort
  | retry
  deriving DecidableEq, Repr

/-! ### Partitions and contexts -/

/-- A consent grant (R100). -/
structure Grant where
  rights : BitVec 2 := 0
  grantor : BitVec 16 := 0
  grantee : BitVec 16 := 0
  kind : Nat := 0
  out : Nat := 0
  x0 : Nat := 0
  y0 : Nat := 0
  x1 : Nat := 0
  y1 : Nat := 0
  deriving DecidableEq, Repr

/-- One accepted GRANT: the slot's contents before and after it, and the frame number of every context of the partition at that
moment (R102). -/
structure GrantChange where
  slot : Nat
  before : Option Grant
  after : Option Grant
  frames : KMap Nat
  deriving DecidableEq, Repr

/-- A partition's configuration entry (R72), stage-2 root (R204), grants (R100) and scheduler pointers (R120). `pausing` is set from a
pause until event 0x06; `pausedVecs` are the vectors that owe a signal (R88, R89). `serving` is the context whose queue the Bridle
visits and `taken` how many commands it has taken there (R48). -/
structure Part where
  en : Bool := false
  temporal : Bool := false
  paused : Bool := false
  weight : BitVec 16 := 0
  allow : BitVec 16 := 0
  coreset : BitVec 96 := 0
  pinquota : Word := 0
  memquota : Word := 0
  colours : DWord := 0
  s2root : Option DWord := none
  grants : KMap Grant := []
  grantGens : KMap (BitVec 16) := []
  grantLog : List GrantChange := []
  pointer0 : Nat := 0
  pointer1 : Nat := 0
  pausing : Bool := false
  pausedVecs : List Nat := []
  savedGen : Word := 0
  serving : Nat := 0
  taken : Nat := 0
  deriving DecidableEq, Repr

/-- An awl window (R242). -/
structure Window where
  triggers : BitVec 4 := 0
  budget : Nat := 0
  vbase : DWord := 0
  vsize : Nat := 0
  image : List Byte := []
  logaddr : DWord := 0
  deriving DecidableEq, Repr

/-- A surface descriptor's fields (R464). -/
structure Surf where
  base : DWord := 0
  width : Nat := 0
  height : Nat := 0
  pitch : Nat := 0
  format : Nat := 0
  levels : Bool := false
  capture : Bool := false
  filter : Nat := 0
  address : Nat := 0
  out : Nat := 0
  brand : BitVec 16 := 0
  leveldesc : DWord := 0
  brandplane : DWord := 0
  vx0 : Nat := 0
  vy0 : Nat := 0
  deriving DecidableEq, Repr

/-- An entry of a show or capture queue (R107, R108). `need` is the number of the PRESENT among its queue's commands. -/
structure Present where
  ctx : Nat
  surf : Surf
  out : Nat
  capture : Bool
  ratediv : Nat
  ox : Nat
  oy : Nat
  fill : Word
  stamp : Nat
  tag : DWord
  gen : Word
  need : Nat
  deriving DecidableEq, Repr

/-- A command that has started and not completed (R48). -/
structure OpenCmd where
  seq : Nat
  tag : DWord
  gen : Word
  complete : Bool
  deriving DecidableEq, Repr

/-- What holds a queue's later commands (R52, R108). -/
inductive Hold
  | wait (addr value : DWord) (host : Bool) (seq : Nat)
  | present (p : Present) (seq : Nat)
  deriving DecidableEq, Repr

/-- A FENCE_SIGNAL that waits for the commands before it (R52). -/
structure Signal where
  addr : DWord
  value : DWord
  host : Bool
  seq : Nat
  deriving DecidableEq, Repr

/-- A command queue and its doorbell registers (R42-R48). `parked` is the entry whose host page a fetch waits for (R46). -/
structure Queue where
  base : DWord := 0
  hostmem : Bool := false
  logsz : Nat := 0
  en : Bool := false
  wptr : Word := 0
  rptr : Word := 0
  err : Byte := 0
  halt : Bool := false
  seq : Nat := 0
  opened : List OpenCmd := []
  hold : Option Hold := none
  parked : Option DWord := none
  signals : List Signal := []
  deriving DecidableEq, Repr

/-- A transfer of a host copy engine (R53). -/
structure HostCopy where
  id : Nat
  ctx : Nat
  src : DWord
  dst : DWord
  bytes : Nat
  srcHost : Bool
  dstHost : Bool
  seq : Nat
  deriving DecidableEq, Repr

/-! ### Stitcher -/

/-- An output's configuration (R34). -/
structure OutCfg where
  en : Bool := false
  vrr : Bool := false
  dsc : Bool := false
  hpol : Bool := false
  vpol : Bool := false
  bpc : Nat := 8
  colour : Nat := 0
  pixclk : Nat := 0
  hactive : Nat := 0
  hsyncStart : Nat := 0
  hsyncEnd : Nat := 0
  htotal : Nat := 0
  vactive : Nat := 0
  vsyncStart : Nat := 0
  vsyncEnd : Nat := 0
  vtotal : Nat := 0
  vtotalMax : Nat := 0
  dscSlices : Nat := 0
  lanes : Nat := 0
  dscBpp : Nat := 0
  linkRate : Nat := 0
  bgR : Word := 0
  bgG : Word := 0
  bgB : Word := 0
  bgA : Word := 0
  deriving DecidableEq, Repr

/-- An effect region (R104). -/
structure Region where
  effect : Nat := 0
  kernel : Nat := 0
  amount : Nat := 0
  front : BitVec 16 := 0
  x0 : Nat := 0
  y0 : Nat := 0
  x1 : Nat := 0
  y1 : Nat := 0
  deriving DecidableEq, Repr

/-- A completed OWNMAP that waits for the next latch point (R99). -/
inductive MapWrite
  | assign
  | tiles (back : Bool) (x0 y0 w h : Nat) (entries : List Word)
  | blocks (back : Bool) (first : Nat) (brands : List (BitVec 16))
  | region (slot : Nat) (r : Region)
  deriving DecidableEq, Repr

/-- A latched frame (R109): the scanout that latched it and whether it has been shown. -/
structure Latched where
  p : Present
  scan : Nat
  shown : Bool
  deriving DecidableEq, Repr

/-- An output. `latchedNow` says that a scanout is under way, and `old` keeps old values of sectors written during it (R111). -/
structure Out where
  part : Nat := 31
  attached : Bool := true
  cfg : OutCfg := {}
  pending : Option OutCfg := none
  front : Sparse 32 := []
  back : Sparse 32 := []
  poolFront : Sparse 16 := []
  poolBack : Sparse 16 := []
  regions : KMap Region := []
  pendingMaps : List MapWrite := []
  scan : Nat := 0
  shows : List Present := []
  captures : List Present := []
  latched : List Latched := []
  capturing : List Present := []
  latchedNow : Bool := false
  frame : Sparse 48 := []
  old : List (Nat × BitVec 256) := []
  deriving DecidableEq, Repr

/-! ### Launches and blocks -/

/-- A role entry (R117). -/
structure Role where
  offset : Nat := 0
  groups : Nat := 0
  vregs : Nat := 0
  sregs : Nat := 0
  deriving DecidableEq, Repr

/-- A launch record (R113). -/
structure LaunchRec where
  entry : DWord := 0
  nx : Nat := 0
  ny : Nat := 0
  nz : Nat := 0
  threads : Nat := 0
  team : Nat := 1
  matrix : Bool := false
  travel : Bool := false
  graph : Bool := false
  graphics : Bool := false
  spm : Nat := 0
  vregs : Nat := 0
  sregs : Nat := 0
  nroles : Nat := 0
  scope : Nat := 4
  prio : Nat := 0
  die : Nat := 0
  args : DWord := 0
  segmap : DWord := 0
  graphdesc : DWord := 0
  roles : List Role := []
  deriving DecidableEq, Repr

/-- A node of a work graph (R129). -/
structure Node where
  recd : LaunchRec
  batch : Nat
  timeout : Nat
  deriving DecidableEq, Repr

/-- Resources of a core that are set aside (R121): for each group its core partition with its vector and scalar registers, a contiguous
scratchpad, the matrix array, and sets of cinch counters (R183). -/
structure Claim where
  core : Nat
  groups : List (Nat × Nat × Nat) := []
  spmBase : Nat := 0
  spmSize : Nat := 0
  matrix : Bool := false
  sets : Nat := 1
  deriving DecidableEq, Repr

/-- The drain reservation of a node (R133) and the block that runs in it. -/
structure Reserve where
  node : Nat
  claim : Claim
  block : Option Nat := none
  deriving DecidableEq, Repr

/-- An open batch (R131): the records that joined, in order, and the fabric clocks of the home scheduler since the first. -/
structure Batch where
  recs : List Nat
  age : Nat
  deriving DecidableEq, Repr

/-- A ready batch (R132), with the fabric clock at which it became ready. -/
structure Ready where
  stamp : Nat
  node : Nat
  recs : List Nat
  deriving DecidableEq, Repr

/-- A graph launch's state (R129-R133). Records are numbered 0 to POOLN - 1. `waiting` are the groups whose EMIT waits, in order. -/
structure GraphSt where
  recsz : Nat
  pooln : Nat
  poolbase : DWord
  nodes : List Node
  free : List Nat
  taken : KMap Nat := []
  committed : List Nat := []
  opened : KMap Batch := []
  ready0 : List Ready := []
  ready1 : List Ready := []
  waiting : List Nat := []
  reserved : List Reserve := []
  deriving DecidableEq, Repr

/-- A segment and an entry of a segment map (R136, R137). -/
structure Seg where
  code : DWord
  size : Nat
  vregs : Nat
  sregs : Nat
  deriving DecidableEq, Repr

structure Entry where
  seg : Nat
  lane : Bool
  vin : Nat
  sin : Nat
  min : BitVec 16
  offset : Nat
  timeout : Nat
  deriving DecidableEq, Repr

/-- What a hop ships (R144, R146): a group, or one thread of a HOPL; `src` numbers the hop, and `inBuf` says that it lies in its core's
arrival buffer (R149). `die` is the sender's. -/
structure HopRec where
  src : Nat := 0
  die : Nat := 0
  inBuf : Bool := false
  entry : Nat
  core : Nat
  lane : Bool
  v : Sparse 32
  m : Sparse 128
  c : BitVec 8
  s : Sparse 32
  m0 : Mask
  depth : Nat
  bidx : Word
  bidy : Word
  bidz : Word
  cap : Nat
  deriving DecidableEq, Repr

/-- A travelling launch's state (R136-R157). -/
structure TravelSt where
  repl : Bool
  pooln : Nat
  poolbase : DWord
  cores : BitVec 96
  segs : List Seg
  entries : List Entry
  trsz : Nat
  hrec : Nat
  pinned : Bool := false
  free : Nat
  flying : List HopRec := []
  deriving DecidableEq, Repr

/-- A draw that binning has reached and not skipped (R160, R161). -/
structure Draw where
  pstate : Word
  count : Nat
  mesh : Bool
  prog0 : DWord
  prog1 : DWord
  pixpc : DWord
  arg : DWord
  deriving DecidableEq, Repr

/-- A primitive that survived culling: its sequence number, draw, number within the draw, the twelve words of its clip positions, and the
attribute slots of its vertices when the mesh program wrote them (R163-R165). -/
structure Prim where
  seq : Nat
  draw : Nat
  tri : Nat
  pos : List Word
  attrs : List (Sparse 32)
  deriving DecidableEq, Repr

/-- The vertices and primitives a program has written (R474): position word i of vertex v is key 4 v + i, slot j key 16 v + j. -/
structure Geom where
  pos : Sparse 32 := []
  slots : Sparse 32 := []
  prims : KMap Word := []
  deriving DecidableEq, Repr

/-- What a mesh group handed on (R476). -/
structure MeshOut where
  vertices : Nat
  primitives : Nat
  geom : Geom
  deriving DecidableEq, Repr

/-- A chunk of a draw (R163): its first triangle or task group, how many groups it takes and how many are placed, and what they wrote. -/
structure Chunk where
  num : Nat
  draw : Nat
  first : Nat
  count : Nat
  die : Nat
  groups : Nat
  placed : Nat := 0
  pos : Sparse 32 := []
  meshes : KMap MeshOut := []
  deriving DecidableEq, Repr

/-- Why a fixed-function access waits: for a page, whose IPA is given but for a page request (R211); for awl invocations (R244); or not any
more, since its page request failed. -/
inductive FfWhy
  | page (ipa : Option Nat)
  | fills (l : List Nat)
  | failed
  deriving DecidableEq, Repr

/-- A fixed-function access that waits (R509), by its address. -/
structure FfWait where
  va : DWord
  why : FfWhy
  deriving DecidableEq, Repr

/-- A graphics launch's state (R158-R174). `draw` and `within` are the draw and the place in it of the next chunk, `opened` how many chunks
there have been, `entries` the primitives and tiles not yet sent to the binners, `binned` the entries in BINAREA, `tiles` the tiles whose
blocks are still to place, `inTiles` that a tile pass is under way and `last` that none follows it. -/
structure GfxSt where
  drawsAddr : DWord
  ndraws : Nat
  draws : KMap Draw := []
  width : Nat
  height : Nat
  targets : List (Option Surf)
  depth : Option Surf
  hiz : DWord
  binarea : DWord
  binsz : Nat
  draw : Nat := 0
  within : Nat := 0
  opened : Nat := 0
  chunks : List Chunk := []
  meshTri : KMap Nat := []
  entries : List (Prim × Nat) := []
  lists : KMap (List Prim) := []
  binned : Nat := 0
  tiles : List Nat := []
  inTiles : Bool := false
  last : Bool := false
  placing : Bool := true
  attrCache : KMap (List (Sparse 32)) := []
  logged : List Nat := []
  waits : List FfWait := []
  deriving DecidableEq, Repr

inductive LaunchKind
  | plain
  | graph (g : GraphSt)
  | travel (t : TravelSt)
  | gfx (g : GfxSt)
  deriving DecidableEq, Repr

/-- A launch armed on a counter and not started (R127); `due` once the counter has been zero. -/
structure Armed where
  k : Nat
  due : Bool
  done : Nat
  recAddr : DWord
  recd : LaunchRec
  kind : LaunchKind
  stamp : Nat
  depth : Nat
  deriving DecidableEq, Repr

/-- A layout record (R443). -/
structure Layout where
  base : DWord := 0
  format : Word := 0
  ndim : Word := 0
  ext : List Word := []
  stride : List DWord := []
  flags : Word := 0
  status : Word := 0
  rsvd : List Word := []
  deriving DecidableEq, Repr

/-- What the elements of a copy have come to so far, over its stops and parks (R238, R453): the greatest level used, the ORs of its status
bits, and the levels and pages that it has asked for (R234). -/
structure CopySum where
  used : Nat := 0
  fallback : Bool := false
  nodata : Bool := false
  cbrange : Bool := false
  asked : List (Nat × Nat) := []
  deriving DecidableEq, Repr

/-- A copy queued, stopped or waiting (R448-R456). `issued` numbers it, `start` is the index vector it goes on from, `desc` the level
descriptor as read at issue, `written` that only acknowledgements of its writes are outstanding (R261), `pageFailed` that the page request
on which it is parked has failed (R211). -/
structure Copy where
  fn : Nat
  ty : Nat
  bstore : Bool
  k : Nat
  bid : Nat
  gid : Nat
  groupUid : Nat
  recd : Layout
  off : Nat
  dval : Word
  statusReg : Nat
  start : List Nat
  reserved : Bool
  parked : Bool := false
  fault : DWord := 0
  parkIpa : Option Nat := none
  poison : Bool := false
  issued : Nat
  nent : Nat := 0
  vlen : Nat := 1
  unfenced : List (Nat × BitVec 256) := []
  fills : List Nat := []
  desc : List Byte := []
  sum : CopySum := {}
  written : Bool := false
  begun : List Nat := [0, 0, 0, 0, 0]
  mapRead : Bool := false
  pageFailed : Bool := false
  deriving DecidableEq, Repr

/-- Which program the groups of a block run (R467); those of a tile block run pixel programs. -/
inductive Prog | compute | position | attr | task | mesh | tile
  deriving DecidableEq, Repr

/-- A pixel of a pixel group's thread (R467): its place and depth. -/
structure PixIn where
  x : Nat
  y : Nat
  depth : Word
  deriving DecidableEq, Repr

/-- Pending pixel outputs of one thread (R473). -/
structure PixOut where
  colours : KMap (List Word) := []
  depth : Option Word := none
  deriving DecidableEq, Repr

/-- What a group of a graphics launch works on and has output: its first vertex, its number among its TASKOUT's mesh groups, how many
TASKOUTs it has executed, the geometry written, the counts of its MESHEND, its pixels with their quads and outputs, and the threads whose
quads keep their values (R174). -/
structure GroupGfx where
  draw : Nat := 0
  first : Nat := 0
  mesh : Nat := 0
  calls : Nat := 0
  geom : Geom := {}
  counts : Option (Nat × Nat) := none
  quads : List Nat := []
  px : KMap PixIn := []
  out : KMap PixOut := []
  dropped : BitVec 128 := 0
  deriving DecidableEq, Repr

/-- The batch a node block works on (R490). -/
structure NodeBlock where
  node : Nat
  recs : List Nat
  returned : List Nat := []
  deriving DecidableEq, Repr

/-- A group of a graphics launch that has ended: its work and outputs, and the m1 and v2 it left. -/
structure Ended where
  gfx : GroupGfx
  m1 : BitVec 128
  v2 : Sparse 32
  deriving DecidableEq, Repr

/-- What a block of a graphics launch works on: its draw and chunk; an attribute block's triangle; a tile block's tile, the primitives
still to come, the one in hand with the quads and covered pixels of its groups still to start, and the 8x8 blocks touched (R172); a payload
slot's task group, TASKOUT and mesh groups (R178); how far the tile's resolve has come; and the groups that have ended. -/
structure GfxBlock where
  draw : Nat := 0
  chunk : Nat := 0
  seq : Nat := 0
  tile : Nat := 0
  todo : List Prim := []
  cur : Option Prim := none
  quads : List (List (Nat × Nat)) := []
  touched : List Nat := []
  slot : Nat := 0
  task : Nat := 0
  call : Nat := 0
  meshes : Nat := 0
  started : Nat := 0
  fill : Nat := 0
  resolved : Nat := 0
  ended : List Ended := []
  deriving DecidableEq, Repr

/-- A resident block (R118, R121, R124). -/
structure Block where
  id : Nat
  launch : Nat
  core : Nat
  lin : Nat := 0
  bidx : Word := 0
  bidy : Word := 0
  bidz : Word := 0
  ngrp : Nat := 1
  kset : Nat := 0
  team : Nat := 0
  rank : Nat := 0
  matrix : Bool := false
  spmBase : Nat := 0
  spmSize : Nat := 0
  spm : KMap Byte := []
  k : List (BitVec 16) := List.replicate 32 0
  armed : List Armed := []
  tcfg : Word := 0
  astride : Word := 0
  soff : Word := 0
  batch : Nat := 0
  openOps : Nat := 0
  stopped : List Copy := []
  node : Option NodeBlock := none
  prog : Prog := .compute
  gfx : GfxBlock := {}
  cap : Nat := 0
  resident : Bool := true
  deriving DecidableEq, Repr

/-! ### Cores -/

/-- A matrix operation in the pipeline (R458-R461), with the operands, FMT and tile configuration it issued with. -/
structure MatOp where
  fn : Nat
  tile : Nat
  ty : Nat
  md : Nat
  a : Word
  b : Word
  d : Word
  gid : Nat
  groupUid : Nat
  bid : Nat
  fmt : Word
  m : Nat
  n : Nat
  astride : Nat
  soff : Nat
  live : Mask
  batch : Nat
  unfenced : List (Nat × BitVec 256)
  deriving DecidableEq, Repr

/-- The codebook store (R451). -/
structure Codebook where
  kset : Nat
  ty : Nat
  nent : Nat
  vlen : Nat
  bytes : List Byte
  deriving DecidableEq, Repr

/-- An assembly buffer (R147, R152): the threads of the current fill, those waiting for the next, whether it has its header, and the
fabric clocks since the fill's first thread. -/
structure Assembly where
  entry : Nat
  threads : List (List Word)
  waiting : List (List Word)
  header : Bool
  age : Nat
  deriving DecidableEq, Repr

/-- The pinned segment of a travelling launch on a core (R141-R151); `past` are the lengths of its arrival queue at the last fabric
clocks (R148). -/
structure Pinned where
  launch : Nat
  seg : Nat
  spmBase : Nat := 0
  spmSize : Nat := 0
  code : List DWord
  spm : Sparse 8 := []
  buffers : List Assembly
  arrivals : List HopRec := []
  past : List Nat := []
  busy : Nat := 0
  idle : Nat := 0
  retiring : Bool := false
  deriving DecidableEq, Repr

/-- The payload ring of a graphics launch on a core (R178): the scratchpad and the mesh group's resources set aside, the group that
holds the latter, and the blocks of the occupied slots. -/
structure Ring where
  claim : Claim
  holder : Option Nat := none
  slots : KMap Nat := []
  deriving DecidableEq, Repr

/-- An accepted launch (R113-R128). `parent` is the block that launched it with the counter its completion decrements; `host` is the
open command of a host launch. `pins` and `rings` are the segments and payload rings of the cores that it was pre-empted from (R157, R179). -/
structure Launch where
  id : Nat
  ctx : Nat
  recAddr : DWord
  recd : LaunchRec
  home : Nat
  depth : Nat
  stamp : Nat
  order : Nat
  parent : Option (Nat × Nat) := none
  parentLaunch : Option Nat := none
  host : Option Nat := none
  next : Nat := 0
  kind : LaunchKind := .plain
  pins : KMap Pinned := []
  rings : KMap Ring := []
  deriving DecidableEq, Repr

/-- A core. `deficit` are its temporal partitions' credits (R80), `holder` the one that has it, `charged` whether a block of the holder has been
admitted since, and `preempting` whether its blocks are to be saved. -/
structure Core where
  cycles : DWord := 0
  retired : Bool := false
  bstore : Sparse 8 := []
  bstoreCtx : Option Nat := none
  tiles : Sparse 32 := []
  pipe : List MatOp := []
  copyq : List Copy := []
  codebook : Option Codebook := none
  pinned : Option Pinned := none
  mapCache : KMap DWord := []
  filter : KMap (List (Nat × Nat)) := []
  icache : KMap DWord := []
  l1 : KMap (BitVec 256) := []
  rings : KMap Ring := []
  deficit : KMap Word := []
  holder : Option Nat := none
  charged : Bool := false
  preempting : Bool := false
  lastPart : Nat := 31
  deriving DecidableEq, Repr

/-! ### Groups -/

/-- The register state of R183. Vector register n of thread t is key 128 n + t. `awaits` names the scalar registers that copies are to write their
status to, with the copies' numbers, as long as the group has not written them since (R453). -/
structure Regs where
  v : Sparse 32 := []
  s : Sparse 32 := []
  m : Sparse 128 := []
  c : BitVec 8 := 0
  tags : List (Option (BitVec 8)) := [none, none, none, none]
  awaits : List (Nat × Nat) := []
  deriving DecidableEq, Repr

/-- The trap registers (R184, R278). -/
structure TrapRegs where
  base : DWord := 0
  pc : DWord := 0
  cause : Word := 0
  mask : Mask := 0
  addr : DWord := 0
  iter : List Word := [0, 0, 0, 0, 0]
  deriving DecidableEq, Repr

/-- An atomic's operation (R437), by FN. -/
inductive AtomOp | add | min | max | minu | maxu | and | or | xor | xchg | cas | fadd | fmin | fmax
  deriving DecidableEq, Repr

/-- What a load does with the core's L1 (R216): it looks there and allocates, only looks, or passes it by. -/
inductive L1Use | allocate | look | bypass
  deriving DecidableEq, Repr

/-- One effect of a memory instruction that is still to happen (R406, R244): a register word written with a value already formed, the
register words of one thread's load, read together when the data return (R258), a store, one of IMGST (R472), or an atomic with its data, compare
value and destination. -/
inductive RespItem
  | val (scalar : Bool) (key : Nat) (v : Word)
  | dev (scalar : Bool) (key pa bytes : Nat) (signed : Bool) (l1 : L1Use)
  | host (scalar : Bool) (key addr bytes : Nat) (signed : Bool)
  | store (pa : Nat) (data : List Byte)
  | texel (pa : Nat) (data : List Byte)
  | atom (key pa : Nat) (op : AtomOp) (wide : Bool) (b c : DWord)
  deriving DecidableEq, Repr

/-- The effects of one instruction that wait (R406), the FILL invocations that hold them (R244), whether they are an acquire (R257), and whether it
discards the core's L1 lines (R216). -/
structure Resp where
  items : List RespItem
  fills : List Nat := []
  acq : Bool := false
  ord : Bool := false
  deriving DecidableEq, Repr

/-- A hit or candidate of a ray query (R484). -/
structure Hit where
  t : Word
  u : Word
  v : Word
  prim : Word
  inst : Word
  shader : Word
  front : Bool
  deriving DecidableEq, Repr

/-- The instance in which a lower hierarchy is visited (R478, R480): the ray in object space, INSTID and SHADER. -/
structure RayInst where
  ray : List Word
  id : Word
  shader : Word
  deriving DecidableEq, Repr

/-- A node of the traversal (R481): its address, its hierarchy's base, its depth, the index of the child it is, and its instance. -/
structure RayNode where
  addr : DWord
  base : DWord
  depth : Nat
  child : Nat
  inst : Option RayInst
  deriving DecidableEq, Repr

/-- A ray query (R479-R486). `cur` is the node visited next, `stack` the nodes to come, newest first, `marked` the mark for restart. -/
structure Query where
  ray : List Word
  flags : BitVec 3
  base : DWord
  cur : Option RayNode
  hit : Option Hit := none
  cand : Option Hit := none
  done : Bool := false
  overdepth : Bool := false
  badnode : Bool := false
  restarts : Nat := 0
  trail : DWord := 0
  stack : List RayNode := []
  marked : Bool := false
  deriving DecidableEq, Repr

/-- What a group waits for before its word can run again (R134, R283); the group is ready once it holds. `page` and `barrier` end by
the release or the arrival that ends them; `fills` and `fetch` wait for awl invocations (R244, R246), the latter before the word is there. -/
inductive WaitFor
  | nothing
  | barrier (team : Bool) (id : Nat)
  | page
  | children
  | counterZero (k : Nat)
  | kyield (k : Nat) (target : DWord)
  | countersZero
  | counterRoom (k n : Nat)
  | batch (n : Nat)
  | matrixRoom
  | copyEntry
  | pool (n : Nat)
  | ringSlot
  | armedRoom
  | launchRoom
  | replies
  | writes
  | ixuSlot
  | fills (l : List Nat)
  | fetch (l : List Nat)
  deriving DecidableEq, Repr

/-- A group's replies owed by awls (R442, R252): the destination pair, the threads sent and still owed, the values that arrived, and the
trap of the threads that could not send. -/
structure AwlWait where
  dst : Nat
  sent : Mask
  owed : Mask
  got : KMap (Word × Word) := []
  later : Option (Mask × DWord) := none
  deriving DecidableEq, Repr

/-- A resident group. `rep` is the REP word whose repetitions run (R328), `replay` the threads for which the word runs again (R278),
`mcheck` a machine check to be taken at the next boundary: whether a register row was lost, and TRAPADDR (R510). `counted` says that the word has
counted as issued and `replays` that the threads of `replay` have not counted as replayed (R197). `resumed` says that the REP word is to be read
again (R329), `flushed` that the group has executed IFLUSH, `uncode` keeps old values of sectors written since then
(R315), and `pageFailed` says that the page request on which it is parked has failed (R211). -/
structure Group where
  uid : Nat
  core : Nat
  cp : Nat
  slot : Nat
  block : Nat
  index : Nat := 0
  role : Nat := 0
  vregs : Nat
  sregs : Nat
  pc : DWord
  regs : Regs := {}
  fmt : Word := 0x00000899#32
  repcnt : Word := 0
  rep : Option FR := none
  trap : TrapRegs := {}
  pctl : Word := 0
  pcs : List Word := [0, 0, 0, 0]
  cych : Word := 0
  wait : Nat := 0
  waitFor : WaitFor := .nothing
  wdog : Nat := 0
  parkIpa : Option Nat := none
  held : Option (LaunchRec × LaunchKind) := none
  replay : Option Mask := none
  resps : List Resp := []
  awl : Option AwlWait := none
  gfx : GroupGfx := {}
  mcheck : Option (Bool × DWord) := none
  ixu : Bool := false
  rays : KMap Query := []
  run : Nat := 0
  age : Nat := 0
  unfenced : List (Nat × BitVec 256) := []
  resumed : Bool := false
  flushed : Bool := false
  uncode : List (Nat × BitVec 256) := []
  pageFailed : Bool := false
  counted : Bool := false
  replays : Bool := false
  deriving DecidableEq, Repr

/-! ### Saved blocks and contexts -/

/-- A block record in a context's save area (R285-R287): where it lies, and what the record's own layout leaves out of the groups, copies,
tiles and B-store that it keeps. -/
structure Saved where
  addr : DWord
  bytes : Nat
  bid : Nat
  groups : List Group
  copies : List Copy := []
  tiles : Sparse 32 := []
  bstore : Sparse 8 := []
  deriving DecidableEq, Repr

/-- A context (R54, R55). `area` are the places and headers of the records that lay in its
save area when its partition was paused (R89). -/
structure Ctx where
  brand : BitVec 16 := 1
  allow : BitVec 16 := 0
  strict : Bool := false
  s1root : DWord := 0
  pasid : BitVec 20 := 0
  wdog : BitVec 16 := 0
  trapbase : DWord := 0
  savebase : DWord := 0
  savesize : DWord := 0
  pinquota : Word := 0
  frame : Nat := 0
  suppressed : Nat := 0
  queue : Queue := {}
  windows : KMap Window := []
  saved : List Saved := []
  area : List (DWord × List Byte) := []
  deriving DecidableEq, Repr

/-! ### L2, awls, errors -/

/-- A line present in its home slice (R216-R220): dirty, the contexts that pin it, the copies its sharer bits name, and the context,
window and address it was filled for (R244). -/
structure Line where
  dirty : Bool := false
  pins : List Nat := []
  sharers : List Nat := []
  ctx : Nat := 0
  window : Option Nat := none
  va : DWord := 0
  deriving DecidableEq, Repr

/-- A write whose invalidations are not all acknowledged (R218, R263): who made it, for which launch and context, the copies its line's sharer
bits name, and what it writes. `core` is the core whose L1 it passed, and `own` says that this core's own accesses see it already (R265). -/
structure PendingWrite where
  uid : Nat
  core : Option Nat
  own : Bool
  lid : Nat
  ck : Nat
  line : Nat
  sharers : List Nat
  pa : Nat
  data : List Byte
  deriving DecidableEq, Repr

/-- To whom an awl message's reply is owed (R252): a group's thread, by group uid, or nobody who waits (AMSG). -/
inductive ReplyTo
  | thread (uid t : Nat)
  | discard
  deriving DecidableEq, Repr

/-- A queued awl event (R244, R245). -/
structure AwlEvent where
  id : Nat
  code : Nat
  ctx : Nat
  window : Nat
  va : DWord
  payload : Word := 0
  fwd : Nat := 0
  reply : Option ReplyTo := none
  deriving DecidableEq, Repr

/-- A message or forward in transit (R252), with the die that it comes from. -/
structure AwlMsg where
  ctx : Nat
  va : DWord
  payload : Word
  fwd : Nat
  reply : ReplyTo
  die : Nat
  deriving DecidableEq, Repr

/-- A reply in transit (R252), with the die that it comes from. -/
structure AwlReply where
  uid : Nat
  t : Nat
  value : Word
  status : Word
  die : Nat
  deriving DecidableEq, Repr

/-- The running invocation (R241): its event, window image and whether the reply is still owed. -/
structure AwlRun where
  ev : AwlEvent
  image : List Byte
  owed : Bool
  held : List Nat := []
  deriving DecidableEq, Repr

structure Awl where
  x : Sparse 32 := []
  pc : Nat := 0
  ahi : BitVec 16 := 0
  budget : Nat := 0
  resv : Option Nat := none
  sram : Sparse 8 := []
  sramCtx : Option Nat := none
  queue : List AwlEvent := []
  run : Option AwlRun := none
  deriving DecidableEq, Repr

/-- An error record (R292). -/
structure ErrRec where
  number : Nat
  die : Nat
  macroCode : Nat
  index : Nat
  unit : Nat
  uncorrectable : Bool
  outcome : Nat
  part : Nat
  lost : Nat
  bcyc : DWord
  deriving DecidableEq, Repr

/-- A table entry by its place: the stage, the context or partition it belongs to, the level and the address bits above the level's page. -/
structure EntryId where
  stage2 : Bool
  owner : Nat
  level : Nat
  index : Nat
  deriving DecidableEq, Repr

/-- A translation: the physical address, or with `host` the virtual one, and the rights of the stages walked. -/
structure Leaf where
  pa : Nat
  rd : Bool := true
  wr : Bool := true
  ex : Bool := true
  unc : Bool := false
  host : Bool := false
  deriving DecidableEq, Repr

/-- What some TLB or walk cache holds (R208, R222): a valid table entry as read at a place, or a combined translation of the `size` bytes
from an address of a context. `froms` are the entries that it derives from. -/
inductive Tlb
  | entry (id : EntryId) (e : DWord) (froms : List EntryId)
  | page (ck va size : Nat) (leaf : Leaf) (froms : List EntryId)
  deriving DecidableEq, Repr

structure State where
  cur : Actor := .none
  agenda : List Event := []
  freeCtr : Nat := 0
  nextId : Nat := 1
  plat : Plat := {}
  link : Link := {}
  funcs : KMap Func := []
  mbox : Mailbox := {}
  sec : Sec := {}
  spdm : Spdm := {}
  irqs : List (Nat × Nat) := []
  hostCpl : List Completion := []
  mem : List Host.Cell := []
  hostMem : Sparse 8 := []
  hostAbsent : List (Nat × Nat) := []
  fot : Sparse 8 := []
  poisoned : List Nat := []
  lines : KMap Line := []
  evictOrder : KMap (List Nat) := []
  tlb : List Tlb := []
  frameReads : KMap Nat := []
  frameWrites : KMap Nat := []
  heldLines : KMap Nat := []
  stalled : Bool := false
  pendingWrites : List PendingWrite := []
  parts : KMap Part := []
  ctxs : KMap Ctx := []
  hostCopies : List HostCopy := []
  outs : KMap Out := []
  launches : KMap Launch := []
  blocks : KMap Block := []
  cores : KMap Core := []
  groups : KMap Group := []
  awls : KMap Awl := []
  awlMsgs : List AwlMsg := []
  awlReplies : List AwlReply := []
  errTable : List ErrRec := []
  errNext : Nat := 0
  corrected : List (ErrSite × DWord) := []
  selfTests : List ErrSite := []
  retiredRows : List (Nat × Nat) := []
  retiredWays : KMap Nat := []
  retiredFrames : List Nat := []
  deriving DecidableEq, Repr

/-- R71: the partitions that have a configuration entry. -/
def partNumbers : List Nat := List.range 24 ++ [31]

/-- Contexts are kept by 256 times their partition plus their number (R55). -/
def ctxKey (part num : Nat) : Nat := 256 * part + num

/-- R36: the machine right after reset. The FOT is kept as the difference from its reset value 0x1F (R213), so that an unlisted frame
belongs to partition 31. Context 0 of every function exists (R50, R55, R91). -/
def State.reset : State :=
  { funcs := (List.range 25).map fun n => (n, {})
    parts := partNumbers.map fun p => (p, { en := p = 31 })
    ctxs := partNumbers.map fun p => (ctxKey p 0, { allow := if p = 31 then 0xFFFF#16 else 0 })
    outs := (List.range 4).map fun n => (n, {})
    cores := (List.range 96).map fun n => (n, {})
    awls := (List.range 48).map fun n => (n, {}) }

end Sys2Proof.Machine
end

