-- ==== Sys2Proof/Machine/Ops.lean ====
section
/-! DEFINITION. The named operations over the state: sorted lists by key, memory and registers, translation and the frame check,
the event log, the ending of a group, and taking a trap and returning from one (R277-R280). -/
namespace Sys2Proof.Machine

abbrev Outcome := Host.Outcome State Fault Refusal

/-! ### Lists by key -/

def kget {α : Type} (m : KMap α) (k : Nat) : Option α :=
  match m with
  | [] => none
  | (j, a) :: r => if j = k then some a else kget r k

/-- Sets the value at a key, in its place in rising order. -/
def kset {α : Type} (m : KMap α) (k : Nat) (a : α) : KMap α :=
  match m with
  | [] => [(k, a)]
  | (j, b) :: r => if j = k then (k, a) :: r else if k < j then (k, a) :: (j, b) :: r else (j, b) :: kset r k a

def kdel {α : Type} (m : KMap α) (k : Nat) : KMap α := m.filter fun e => e.1 ≠ k

/-- Changes the value at a key that is present. -/
def kmod {α : Type} (m : KMap α) (k : Nat) (f : α → α) : KMap α :=
  match m with
  | [] => []
  | (j, a) :: r => if j = k then (j, f a) :: r else (j, a) :: kmod r k f

def kmapAll {α : Type} (m : KMap α) (f : Nat → α → α) : KMap α := m.map fun e => (e.1, f e.1 e.2)
def kkeys {α : Type} (m : KMap α) : List Nat := m.map Prod.fst

/-- A sparse word: an unlisted key reads as zero. -/
def sget {w : Nat} (m : Sparse w) (k : Nat) : BitVec w :=
  match m with
  | [] => 0
  | (j, v) :: r => if j = k then v else sget r k

/-- Writes a sparse word that is not zero, in its place in rising order. -/
def sput {w : Nat} (m : Sparse w) (k : Nat) (v : BitVec w) : Sparse w :=
  match m with
  | [] => [(k, v)]
  | (j, u) :: r => if j = k then (k, v) :: r else if k < j then (k, v) :: (j, u) :: r else (j, u) :: sput r k v

/-- Writes a sparse word; a zero is not listed. -/
def sset {w : Nat} (m : Sparse w) (k : Nat) (v : BitVec w) : Sparse w :=
  if v = 0 then m.filter fun e => e.1 ≠ k else sput m k v

def ssets {w : Nat} (m : Sparse w) (l : List (Nat × BitVec w)) : Sparse w := l.foldl (fun m e => sset m e.1 e.2) m

/-- The bytes at `n` keys from `a`. -/
def bytesAt (m : Sparse 8) (a n : Nat) : List Byte := (List.range n).map fun i => sget m (a + i)
def setBytes (m : Sparse 8) (a : Nat) (l : List Byte) : Sparse 8 := ssets m (l.zipIdx.map fun e => (a + e.2, e.1))

/-- The canonical form of memory: keys strictly rising and no zero listed. -/
def Memory.wf (m : List Host.Cell) : Bool :=
  match m with
  | [] => true
  | (a, v) :: r => v ≠ 0#8 && (match r with | [] => true | (b, _) :: _ => a < b) && Memory.wf r

def word32 (l : List Byte) : Word := BitVec.ofNat 32 (leNat l)
def word64 (l : List Byte) : DWord := BitVec.ofNat 64 (leNat l)
def pair64 (lo hi : Word) : DWord := hi ++ lo
def lo32 (v : DWord) : Word := v.setWidth 32
def hi32 (v : DWord) : Word := v.extractLsb' 32 32
/-- A field of a structure in memory: `n` bytes at an offset. -/
def field (l : List Byte) (o n : Nat) : Nat := leNat ((l.drop o).take n)
/-- Whether the bytes from `o` to `o + n - 1` are zero. -/
def zeroAt (l : List Byte) (o n : Nat) : Bool := ((l.drop o).take n).all (· = 0#8)
def bitsOf (m : Mask) : List Nat := (List.range 128).filter m.getLsbD
def maskOf (l : List Nat) : Mask := l.foldl (fun m t => m ||| ((1#128) <<< t)) 0
def popCount {w : Nat} (m : BitVec w) : Nat := ((List.range w).filter m.getLsbD).length
/-- The lowest set bit. -/
def firstBit {w : Nat} (m : BitVec w) : Option Nat := (List.range w).find? m.getLsbD
def satInc (v : Word) : Word := if v = 0xFFFFFFFF#32 then v else v + 1

/-- One of the values that the manual allows (log 4): the first when they are all equal. -/
def oneOf {α : Type} [DecidableEq α] (seed : Nat) (d : α) (l : List α) : α :=
  match l.eraseDups with
  | [] => d
  | [a] => a
  | m => (m[Config.freeNat seed % m.length]?).getD d

/-! ### Parts of the state -/

/-- R17, R36: whether the machine runs at all. -/
def State.running (s : State) : Bool := s.plat.powered && !s.plat.heldInReset

def State.part (s : State) (p : Nat) : Part := (kget s.parts p).getD {}
def State.ctx (s : State) (c : Nat) : Ctx := (kget s.ctxs c).getD {}
def State.func (s : State) (f : Nat) : Func := (kget s.funcs f).getD {}
def State.core (s : State) (c : Nat) : Core := (kget s.cores c).getD {}
def State.out (s : State) (o : Nat) : Out := (kget s.outs o).getD {}
def State.awl (s : State) (n : Nat) : Awl := (kget s.awls n).getD {}
def State.modGroup (s : State) (g : Nat) (f : Group → Group) : State := { s with groups := kmod s.groups g f }
def State.modBlock (s : State) (b : Nat) (f : Block → Block) : State := { s with blocks := kmod s.blocks b f }
def State.modLaunch (s : State) (l : Nat) (f : Launch → Launch) : State := { s with launches := kmod s.launches l f }
def State.modCore (s : State) (c : Nat) (f : Core → Core) : State := { s with cores := kmod s.cores c f }
def State.modCtx (s : State) (c : Nat) (f : Ctx → Ctx) : State := { s with ctxs := kmod s.ctxs c f }
def State.modPart (s : State) (p : Nat) (f : Part → Part) : State := { s with parts := kmod s.parts p f }
def State.modFunc (s : State) (n : Nat) (f : Func → Func) : State := { s with funcs := kmod s.funcs n f }
def State.modOut (s : State) (o : Nat) (f : Out → Out) : State := { s with outs := kmod s.outs o f }
def State.modAwl (s : State) (n : Nat) (f : Awl → Awl) : State := { s with awls := kmod s.awls n f }

/-- R55: a context key's partition and number. -/
def partOfCtx (c : Nat) : Nat := c / 256
def numOfCtx (c : Nat) : Nat := c % 256
/-- R71: the function of a partition, 0 for PF0. -/
def fnOfPart (p : Nat) : Nat := if p = 31 then 0 else p + 1
def partOfFn (f : Nat) : Nat := if f = 0 then 31 else f - 1

/-- R12, R180: enabled cores, the die of a core and its sector. -/
def State.ncores (s : State) : Nat := if s.plat.t64 then Config.cores64 else Config.cores
def State.dieCores (s : State) : Nat := s.ncores / 2
def State.dieOf (s : State) (core : Nat) : Nat := core / s.dieCores
/-- R13: the fabric clocks of a die. -/
def Plat.fabricCycles (p : Plat) (die : Nat) : Nat := if die = 0 then p.fabricCycles0 else p.fabricCycles1
def State.sectorOf (s : State) (core : Nat) : Nat := core % s.dieCores / (s.dieCores / 3 + if s.dieCores % 3 = 0 then 0 else 1)
def State.usable (s : State) (core : Nat) : Bool := core < s.ncores && !(s.core core).retired

/-- R183: a group's key from its place, and its place from the key. -/
def gidOf (core cp slot : Nat) : Nat := 64 * core + 16 * cp + slot
def coreOfGid (g : Nat) : Nat := g / 64

/-- The groups of a block, in GID order. -/
def State.groupsOf (s : State) (b : Nat) : List (Nat × Group) :=
  let l := s.groups.filter fun e => e.2.block = b
  (List.range 64).flatMap fun i => l.filter fun e => e.2.index = i

/-- The agent whose instruction is executed, with what it belongs to. -/
structure Env where
  gid : Nat
  word : DWord
  g : Group
  b : Block
  l : Launch
  ck : Nat
  ctx : Ctx
  deriving Repr

def State.envOf (s : State) (gid : Nat) (word : DWord) : Option Env :=
  match kget s.groups gid with
  | none => none
  | some g => match kget s.blocks g.block with
    | none => none
    | some b => match kget s.launches b.launch with
      | none => none
      | some l => some { gid := gid, word := word, g := g, b := b, l := l, ck := l.ctx, ctx := s.ctx l.ctx }

def State.env (s : State) : Option Env :=
  match s.cur with
  | .group gid word => s.envOf gid word
  | _ => none

def Env.part (e : Env) : Nat := partOfCtx e.ck
/-- The group's registers as they are now, for a meaning that has changed them since it read `e`. -/
def State.regsOf (s : State) (gid : Nat) : Regs := ((kget s.groups gid).map (·.regs)).getD {}
def Env.travel (e : Env) : Bool := match e.l.kind with | .travel _ => true | _ => false

/-- The meaning of an instruction of a group: a fault when no group issues, otherwise a next state. -/
def asGroup (s : State) (body : Env → State → State) : Outcome :=
  match s.env with
  | none => .fault .noIssuer
  | some e => .next (body e s)

/-! ### Registers -/

def Regs.vget (r : Regs) (n t : Nat) : Word := sget r.v (128 * n + t)
def Regs.vset (r : Regs) (n t : Nat) (v : Word) : Regs := { r with v := sset r.v (128 * n + t) v }
def Regs.sget (r : Regs) (n : Nat) : Word := Machine.sget r.s n
def Regs.sset (r : Regs) (n : Nat) (v : Word) : Regs := { r with s := Machine.sset r.s n v, awaits := r.awaits.filter (·.1 ≠ n) }
def Regs.sget64 (r : Regs) (n : Nat) : DWord := pair64 (r.sget n) (r.sget (n + 1))
def Regs.sset64 (r : Regs) (n : Nat) (v : DWord) : Regs := (r.sset n (lo32 v)).sset (n + 1) (hi32 v)
def Regs.mget (r : Regs) (n : Nat) : Mask := Machine.sget r.m n
def Regs.mset (r : Regs) (n : Nat) (v : Mask) : Regs := { r with m := Machine.sset r.m n v }
def Regs.cget (r : Regs) (n : Nat) : Bool := r.c.getLsbD n
def Regs.cset (r : Regs) (n : Nat) (v : Bool) : Regs :=
  { r with c := if v then r.c ||| ((1#8) <<< n) else r.c &&& ~~~((1#8) <<< n) }
/-- R187: a vector write on a pipe shifts the tags. -/
def Regs.shiftTags (r : Regs) (d : Nat) : Regs := { r with tags := some (BitVec.ofNat 8 d) :: r.tags.take 3 }
def Regs.tag (r : Regs) (i : Nat) : Option Nat := match r.tags[i]? with | some (some n) => some n.toNat | _ => none
def noTags : List (Option (BitVec 8)) := [none, none, none, none]

def State.setRegs (s : State) (gid : Nat) (r : Regs) : State := s.modGroup gid fun g => { g with regs := r }

/-- R6: the live mask and the predicate mask, within the threads that a replay names (R211, R278). -/
def Group.live (g : Group) : Mask := g.regs.mget 0
def Group.pred (g : Group) (mk : Nat) : Mask :=
  g.regs.mget mk &&& g.live &&& (match g.replay with | some m => m | none => BitVec.allOnes 128)

/-! ### Performance counters (R196, R197) -/

/-- Adds `n` events of a code to every counter that counts it; a wrap sets OVF. -/
def Group.count (g : Group) (code n : Nat) : Group :=
  (List.range 4).foldl (fun g i =>
    if (g.pctl.extractLsb' (6 * i) 6).toNat = code && g.pctl.getLsbD (24 + i) && code ≠ 0 && n ≠ 0 then
      let v := ((g.pcs[i]?).getD 0).toNat + n
      { g with pcs := g.pcs.set i (BitVec.ofNat 32 v)
               pctl := if v ≥ 2 ^ 32 then g.pctl ||| ((1#32) <<< (28 + i)) else g.pctl }
    else g) g
def State.count (s : State) (gid code n : Nat) : State := s.modGroup gid fun g => g.count code n

/-! ### Physical memory (R201, R202) and frames (R213, R215) -/

def State.stackBytes (s : State) : Nat :=
  let all := if s.plat.t64 then 32 * 2 ^ 30 else 48 * 2 ^ 30
  if s.plat.reliable then all - all / 32 else all

/-- R201: whether an address is backed. -/
def State.backed (s : State) (pa : Nat) : Bool := pa / 2 ^ 36 < 2 && pa % 2 ^ 36 < s.stackBytes
def State.readMem (s : State) (pa n : Nat) : List Byte := bytesAt s.mem pa n
def State.writeMem (s : State) (pa : Nat) (l : List Byte) : State := { s with mem := setBytes s.mem pa l }

/-- R203: the colour of an address and the slice that homes its line, numbered by die, sector and slice. -/
def colourOf (pa : Nat) : Nat := pa / 2 ^ 16 % 64
def sliceOf (pa : Nat) : Nat := 24 * (pa / 2 ^ 36 % 2) + 8 * (pa / 2 ^ 22 % 3) + colourOf pa / 8
def setOf (pa : Nat) : Nat := colourOf pa % 8 * 256 + pa / 128 % 256
def lineOf (pa : Nat) : Nat := pa / 128
/-- R203: the die that homes a line. -/
def homeDie (pa : Nat) : Nat := pa / 2 ^ 36 % 2

/-- R213: a frame's entry; the table is kept as its difference from the reset value. -/
def State.fotEntry (s : State) (frame : Nat) : Byte := sget s.fot frame ^^^ 0x1F#8
def State.setFot (s : State) (frame : Nat) (v : Byte) : State := { s with fot := sset s.fot frame (v ^^^ 0x1F#8) }
def fotOwner (e : Byte) : Nat := e.toNat % 32

/-- R213: the frames that hold the table itself, which only the Bridle reaches. -/
def State.fotFrames (s : State) : Nat := if s.plat.t64 then 8 else 12
def State.inFot (s : State) (pa : Nat) : Bool := pa % 2 ^ 36 / 65536 < s.fotFrames

/-- R213, R215: whether a partition may read or write an address. -/
def State.mayRead (s : State) (part pa : Nat) : Bool :=
  let e := s.fotEntry (pa / 65536)
  !s.inFot pa && (fotOwner e = part || e.getLsbD 5)
def State.mayWrite (s : State) (part pa : Nat) : Bool :=
  let e := s.fotEntry (pa / 65536)
  !s.inFot pa && fotOwner e = part && !e.getLsbD 5
/-- R290: a poisoned line or frame. -/
def State.isPoisoned (s : State) (pa : Nat) : Bool :=
  s.poisoned.contains (lineOf pa) || (s.fotEntry (pa / 65536)).getLsbD 7

/-! ### Translation (R204-R210) -/

/-- Why a walk ends without a translation. -/
inductive Stop
  | park (ipa : Nat)
  | fail (page stage2 : Bool)
  deriving DecidableEq, Repr

/-- R205: what an entry with its stage and level says. -/
inductive EntryKind
  | bad (page : Bool)
  | pend
  | table (oa : Nat)
  | leaf
  deriving DecidableEq, Repr

def oaOf (e : DWord) : Nat := (e.extractLsb' 12 34).toNat * 4096

/-- R205, R206: the checks of one entry. A level-0 leaf is aligned to 4 KiB, with C64 or without (log 19). -/
def entryKind (stage2 : Bool) (level : Nat) (e : DWord) : EntryKind :=
  if !e.getLsbD 0 then (if e.getLsbD 58 then .pend else .bad true)
  else if e.extractLsb' 58 6 ≠ 0 || e.extractLsb' 46 5 ≠ 0 || e.extractLsb' 2 10 ≠ 0 then .bad false
  else if !e.getLsbD 1 then
    if level = 0 || e.extractLsb' 51 7 ≠ 0 then .bad false else .table (oaOf e)
  else if level = 3 || (stage2 && e.getLsbD 57) || (level ≠ 0 && e.getLsbD 56) || e.getLsbD 55
    || oaOf e % 2 ^ (12 + 9 * level) ≠ 0 then .bad false
  else .leaf

def leafOf (level : Nat) (e : DWord) (a : Nat) : Leaf :=
  let size := if level = 0 && e.getLsbD 56 then 2 ^ 16 else 2 ^ (12 + 9 * level)
  { pa := oaOf e / size * size + a % size
    rd := e.getLsbD 51, wr := e.getLsbD 52, ex := e.getLsbD 53, unc := e.getLsbD 54, host := e.getLsbD 57 }

/-- A held table entry at a place. -/
def Tlb.at_ (id : EntryId) : Tlb → Option (DWord × List EntryId)
  | .entry i e l => if i = id then some (e, l) else none
  | .page .. => none

/-- A held combined translation of an address. -/
def Tlb.covers (ck va : Nat) : Tlb → Option Leaf
  | .entry .. => none
  | .page c a n f _ => if c = ck && a ≤ va && va < a + n then some { f with pa := f.pa + (va - a) } else none

def Tlb.froms : Tlb → List EntryId
  | .entry _ _ l => l
  | .page _ _ _ _ l => l

/-- The entry at an address, as memory holds it or as a cache of translations still does (R208, R222). -/
def State.entryAt (s : State) (seed : Nat) (id : EntryId) (pa : Nat) : DWord :=
  let now := word64 (s.readMem pa 8)
  match s.tlb.filterMap (Tlb.at_ id) with
  | [] => now
  | old => oneOf seed now (now :: old.map (·.1))

/-- What is kept of an entry at a place, read at the place `from_`: a valid one, with the places that it and what was held at either derive from. -/
def State.tlbOf (s : State) (id from_ : EntryId) (also : List EntryId) (e : DWord) : List Tlb :=
  let held (i : EntryId) : List EntryId := (s.tlb.filterMap (Tlb.at_ i)).flatMap (·.2)
  if e.getLsbD 0 then [.entry id e (id :: from_ :: also ++ held id ++ held from_).eraseDups] else []

/-- R209, R212: what is kept of entries of a stage that a walk has reached through others derives from those too. -/
def Tlb.under (stage2 : Bool) (ups : List EntryId) : Tlb → Tlb
  | .entry id e l => .entry id e (if id.stage2 = stage2 then (l ++ ups).eraseDups else l)
  | t => t

/-- R205: the level-0 entry by which an access is translated, with its number: its own, or any one of a 64 KiB group's sixteen as a 64 KiB page
when one of them has C64 set and they disagree (log 19). -/
def pickC64 (seed index : Nat) (own : DWord) (group : List DWord) : DWord × Nat :=
  if !group.any (fun e => e.getLsbD 0 && e.getLsbD 56) then (own, index)
  else
    let norm (e : DWord) : DWord := (e &&& ~~~(0xF000#64)) ||| (1#64 <<< 56)
    if group.all fun e => e.getLsbD 0 && e.getLsbD 56 && norm e = norm own then (norm own, index)
    else
      let mine := (if own.getLsbD 56 then norm own else own, index)
      oneOf seed mine (mine :: group.zipIdx.map fun e => (if e.1.getLsbD 0 then norm e.1 else e.1, index / 16 * 16 + e.2))

/-- A walk of stage 2 from a table at `table`, over the levels listed (R204-R206, R215). -/
def State.walk2 (s : State) (seed part ipa : Nat) : List Nat → Nat → Except Stop Leaf × List Tlb
  | [], _ => (.error (.fail false true), [])
  | lv :: rest, table =>
    let index := ipa / 2 ^ (12 + 9 * lv)
    let id (i : Nat) : EntryId := { stage2 := true, owner := part, level := lv, index := i }
    let at_ (i : Nat) := s.entryAt (seed + lv) (id i) (table + 8 * (i % 512))
    if !s.backed (table + 8 * (index % 512)) || !s.mayRead 31 table then (.error (.fail false true), [])
    else
      let own := at_ index
      let p := if lv = 0 then pickC64 (seed + 4) index own ((List.range 16).map fun j => at_ (index / 16 * 16 + j)) else (own, index)
      let t := s.tlbOf (id index) (id p.2) [] p.1
      match entryKind true lv p.1 with
      | .bad pg => (.error (.fail pg true), [])
      | .pend => (.error (.park ipa), [])
      | .table oa => match s.walk2 seed part ipa rest oa with | (r, l) => (r, t ++ l.map (Tlb.under true (t.flatMap Tlb.froms)))
      | .leaf => (.ok (leafOf lv p.1 ipa), t)

def levels4 : List Nat := [3, 2, 1, 0]

/-- R204, R76: an IPA of a partition, as a physical address; partition 31 has no stage 2. A walk reads bits [47:12] of it (R205). -/
def State.stage2 (s : State) (seed part ipa : Nat) : Except Stop Leaf × List Tlb :=
  if part = 31 then (if s.backed ipa then .ok { pa := ipa } else .error (.fail false false), [])
  else match (s.part part).s2root with
    | none => (.error (.fail false true), [])
    | some root => match s.walk2 seed part (ipa % 2 ^ 48) levels4 root.toNat with
      | (.error e, l) => (.error e, l)
      | (.ok f, l) =>
        if !s.backed f.pa || !(s.part part).colours.getLsbD (colourOf f.pa) then (.error (.fail false true), l) else (.ok f, l)

/-- A walk of stage 1 (R204-R206): every table is reached through stage 2 and read as the context's partition. -/
def State.walk1 (s : State) (seed part ck va : Nat) : List Nat → Nat → Except Stop Leaf × List Tlb
  | [], _ => (.error (.fail false false), [])
  | lv :: rest, table =>
    let index := va / 2 ^ (12 + 9 * lv)
    match s.stage2 (seed + 8 * (lv + 1)) part (table + 8 * (index % 512)) with
    | (.error e, l) => (.error e, l)
    | (.ok f, l) =>
      if !s.mayRead part f.pa then (.error (.fail false false), l)
      else
        let id (i : Nat) : EntryId := { stage2 := false, owner := ck, level := lv, index := i }
        let at_ (i : Nat) := s.entryAt (seed + lv) (id i) (f.pa / 4096 * 4096 + 8 * (i % 512))
        let own := at_ index
        let p := if lv = 0 then pickC64 (seed + 4) index own ((List.range 16).map fun j => at_ (index / 16 * 16 + j)) else (own, index)
        let t := l ++ s.tlbOf (id index) (id p.2) (l.flatMap Tlb.froms) p.1
        match entryKind false lv p.1 with
        | .bad pg => (.error (.fail pg false), l)
        | .pend => (.error (.park ((table + 8 * (index % 512)) % 2 ^ 48)), l)
        | .table oa => match s.walk1 seed part ck va rest oa with | (r, l') => (r, t ++ l'.map (Tlb.under false (t.flatMap Tlb.froms)))
        | .leaf =>
          let lf := leafOf lv p.1 va
          if lf.host then (.ok lf, t)
          else match s.stage2 (seed + 40) part lf.pa with
            | (.error e, l') => (.error e, t ++ l')
            | (.ok f2, l') =>
              (.ok { pa := f2.pa, rd := lf.rd && f2.rd, wr := lf.wr && f2.wr, ex := lf.ex && f2.ex, unc := lf.unc || f2.unc }, t ++ l')

/-- R205: the size of the page that a leaf entry maps, when this is one. -/
def Tlb.leafSize (stage2 : Bool) : Tlb → Option Nat
  | .entry id e _ => if id.stage2 = stage2 && e.getLsbD 1 then some (if id.level = 0 && e.getLsbD 56 then 2 ^ 16 else 2 ^ (12 + 9 * id.level)) else none
  | .page .. => none

/-- R208: the combined translation that a walk of an address has found, at the smaller of the two stages' page sizes. The entry of stage 2 that
maps the page is the last that the walk met. -/
def pageOf (ck va : Nat) (f : Leaf) (l : List Tlb) : Tlb :=
  let n1 := (l.findSome? (Tlb.leafSize false)).getD 4096
  let n := match l.getLast?.bind (Tlb.leafSize true) with | some n2 => min n1 n2 | none => n1
  .page ck (va - va % n) n { f with pa := f.pa - va % n } (l.flatMap Tlb.froms).eraseDups

/-- R204, R208: the translation of an address of a context: by a walk, or as a TLB still holds it. -/
def State.translate (s : State) (seed part ck va : Nat) : Except Stop Leaf × List Tlb :=
  match s.walk1 seed part ck va levels4 (s.ctx ck).s1root.toNat with
  | (r, l) =>
    let l := match r with | .ok f => l ++ [pageOf ck va f l] | .error _ => l
    match s.tlb.filterMap (Tlb.covers ck va), r with
    | [], _ => (r, l)
    | old, .ok f => (.ok (oneOf (seed + 60) f (f :: old)), l)
    | f :: old, .error _ => (if Config.freeBool (seed + 61) then r else .ok (oneOf (seed + 60) f (f :: old)), l)

/-- What an access needs (R206). -/
inductive Access | read | write | atomic | fetch
  deriving DecidableEq, Repr

def Leaf.allows (f : Leaf) (k : Access) : Bool :=
  match k with | .read => f.rd | .write => f.wr | .atomic => f.rd && f.wr | .fetch => f.ex

/-- How an access goes: at a device address, at a host address (R207), a park, or a cause (R279) with, for a walk failure, whether
stage 2 failed (R206). -/
inductive Acc
  | dev (pa : Nat) (unc : Bool)
  | host (key : Nat)
  | park (ipa : Nat) (pri : Bool)
  | stop (cause : Nat) (walk : Option Bool)
  deriving DecidableEq, Repr

/-- R200. -/
def canonical (va : DWord) : Bool := va.extractLsb' 47 17 = 0 || va.extractLsb' 47 17 = BitVec.allOnes 17

/-- R207: a context's host address space is its PASID's. -/
def hostKey (pasid va : Nat) : Nat := pasid * 2 ^ 64 + va

/-- R200, R206, R207, R215, R290: one access of a context at a canonical or other address. A page of a PASID that is listed absent
needs a page request (R23, R211) unless the context already holds its translation. -/
def State.access (s : State) (seed ck : Nat) (va : DWord) (k : Access) : Acc × List Tlb :=
  let part := partOfCtx ck
  let c := s.ctx ck
  if !canonical va then (.stop 5 none, [])
  else match s.translate seed part ck (va.toNat % 2 ^ 48) with
    | (.error (.park ipa), l) => (.park ipa false, l)
    | (.error (.fail pg st2), l) => (.stop (if pg then 6 else 5) (some st2), l)
    | (.ok f, l) =>
      if !f.allows k then (.stop 5 none, l)
      else if f.host then
        if s.hostAbsent.contains (c.pasid.toNat, va.toNat / 4096) then (.park 0 true, l)
        else (.host (hostKey c.pasid.toNat va.toNat), l)
      else if !(if k = .read || k = .fetch then s.mayRead part f.pa else s.mayWrite part f.pa) then (.stop 5 none, l)
      else if s.isPoisoned f.pa then (.stop 14 none, l)
      else (.dev f.pa f.unc, l)

/-- R290: how far into `n` bytes of one page the first poisoned line lies. -/
def State.firstPoison (s : State) (pa n : Nat) : Option Nat :=
  (List.range (n / 128 + 2)).findSome? fun i =>
    let a := if i = 0 then pa else (pa / 128 + i) * 128
    if a < pa + n && s.isPoisoned a then some (a - pa) else none

/-- An access of `n` bytes of one page, with the address that a trap or park of it names: a poisoned line stops it where it lies (R290). -/
def State.accessOf (s : State) (seed ck : Nat) (va : DWord) (n : Nat) (k : Access) : DWord × Acc × List Tlb :=
  match s.access seed ck va k with
  | (.dev pa unc, l) => match s.firstPoison pa n with
    | some o => (va + BitVec.ofNat 64 o, .stop 14 none, l)
    | none => (va, .dev pa unc, l)
  | (a, l) => (va, a, l)

/-- Free choices an access may use. -/
def seedsPerAccess : Nat := 64

def State.keepTlb (s : State) (l : List Tlb) : State := { s with tlb := s.tlb ++ l.filter fun t => !s.tlb.contains t }
/-- Passes over `n` free values. -/
def State.skip (s : State) (n : Nat) : State := { s with freeCtr := s.freeCtr + n }

/-! ### Writes to device memory (R218, R260) -/

def sectorBits (l : List Byte) : BitVec 256 := BitVec.ofNat 256 (leNat l)
def State.sectorAt (s : State) (pa : Nat) : BitVec 256 := sectorBits (s.readMem (pa / 32 * 32) 32)
def dropL1 (c : Core) (sector : Nat) : Core := { c with l1 := kdel c.l1 sector }
def addOld (key : Nat) (old : BitVec 256) (l : List (Nat × BitVec 256)) : List (Nat × BitVec 256) := l.filter (· ≠ (key, old)) ++ [(key, old)]

/-- Above the keys of sectors, what else an unfenced write waits for (R463). -/
def tagUnit : Nat := 2 ^ 68
/-- The key of a sector of a host page among unfenced writes. -/
def hostSector (a : Nat) : Nat := 2 ^ 65 + a / 2 ^ 64 * 2 ^ 43 + a % 2 ^ 48 / 32
/-- Whether a key is of a sector of device memory or of a host page. -/
def memKey (key : Nat) : Bool := key < 2 ^ 60 || (2 ^ 65 ≤ key && key < tagUnit)

def Group.note (p : Group → Bool) (key : Nat) (old : BitVec 256) (g : Group) : Group :=
  if !p g then g
  else { g with unfenced := addOld key old g.unfenced, uncode := if memKey key then addOld key old g.uncode else g.uncode }
def Copy.note (q : Nat → Bool) (key : Nat) (old : BitVec 256) (o : Copy) : Copy :=
  if q o.bid then { o with unfenced := addOld key old o.unfenced } else o

/-- R111: during a scanout. -/
def Out.note (key : Nat) (old : BitVec 256) (o : Out) : Out := if o.latchedNow && memKey key then { o with old := addOld key old o.old } else o

/-- R260, R315, R463: a write to a sector leaves its old value readable by the async operations that the groups satisfying `p` issue before an
AFENCE, by their fetches before an IFLUSH, by the scanouts under way, and by the copies and matrix operations under way of the blocks satisfying `q`, resident or saved. -/
def State.noteOld (s : State) (p : Group → Bool) (q : Nat → Bool) (key : Nat) (old : BitVec 256) : State :=
  { s with groups := kmapAll s.groups fun _ => Group.note p key old
           cores := kmapAll s.cores fun _ c =>
             { c with copyq := c.copyq.map (Copy.note q key old)
                      pipe := c.pipe.map fun o => if q o.bid then { o with unfenced := addOld key old o.unfenced } else o }
           ctxs := kmapAll s.ctxs fun _ c =>
             { c with saved := c.saved.map fun b => { b with groups := b.groups.map (Group.note p key old), copies := b.copies.map (Copy.note q key old) } }
           outs := kmapAll s.outs fun _ => Out.note key old }

/-- The old values of the sectors whose keys satisfy `p` are gone for every reader. -/
def State.dropOld (s : State) (p : Nat → Bool) : State :=
  let cut (l : List (Nat × BitVec 256)) : List (Nat × BitVec 256) := l.filter fun e => !p (e.1 % tagUnit)
  let grp (g : Group) : Group := { g with unfenced := cut g.unfenced, uncode := cut g.uncode }
  let cpy (c : Copy) : Copy := { c with unfenced := cut c.unfenced }
  { s with groups := kmapAll s.groups fun _ => grp
           cores := kmapAll s.cores fun _ c =>
             { c with copyq := c.copyq.map cpy, pipe := c.pipe.map fun o => { o with unfenced := cut o.unfenced } }
           ctxs := kmapAll s.ctxs fun _ c => { c with saved := c.saved.map fun b => { b with groups := b.groups.map grp, copies := b.copies.map cpy } }
           outs := kmapAll s.outs fun _ o => { o with old := cut o.old } }

def State.blockOn (s : State) (core bid : Nat) : Bool := ((kget s.blocks bid).map (·.core)).getD 0 = core

/-- R218, R263: a pending write lands: from now on every reader sees it. What its own core saw before stays as that core had it. One without data has
only given up the copies of its line, for an atomic that waits. -/
def State.land (s : State) (w : PendingWrite) : State :=
  if w.data = [] then s
  else
  let near (c : Nat) : Bool := w.own && w.core = some c
  let s := s.noteOld (fun g => !near g.core) (fun b => !(w.own && match w.core with | some c => s.blockOn c b | none => false)) (w.pa / 32) (s.sectorAt w.pa)
  let s := s.writeMem w.pa w.data
  match w.core with | some c => s.modCore c fun k => dropL1 k (w.pa / 32) | none => s

/-- R218: every copy of a line has acknowledged, and the writes that waited for it land in their order. -/
def State.settleLine (s : State) (line : Nat) : State :=
  (s.pendingWrites.filter fun w => w.line = line).foldl State.land
    { s with pendingWrites := s.pendingWrites.filter fun w => w.line ≠ line, lines := kmod s.lines line fun l => { l with sharers := [] } }

/-- The parts of a range that lie in one sector each. -/
def sectorPieces (pa : Nat) (l : List Byte) : List (Nat × List Byte) :=
  (List.range (l.length / 32 + 2)).filterMap fun i =>
    let start := if i = 0 then pa else (pa / 32 + i) * 32
    let stop := min (pa + l.length) ((pa / 32 + i + 1) * 32)
    if start < stop then some (start, (l.drop (start - pa)).take (stop - start)) else none

/-- R29: whether what a die sends to the home of an address must wait for the link. -/
def State.far (s : State) (die pa : Nat) : Bool := s.link.retraining && homeDie pa ≠ die
/-- What the agent does must wait for the link, when it sends there. -/
def State.cross (s : State) (die pa : Nat) : State := if s.far die pa then { s with stalled := true } else s
/-- The die of the agent that acts: a group's core's, or die 0, where the Bridle, the host's link and the Stitcher are (log 41). -/
def State.agentDie (s : State) : Nat := match s.cur with | .group gid _ => s.dieOf (coreOfGid gid) | _ => 0

/-- R246: whether an awl holds a line of a range with ALOCK. -/
def State.rangeHeld (s : State) (pa n : Nat) : Bool := s.heldLines.any fun h => pa / 128 ≤ h.1 && h.1 ≤ (pa + n - 1) / 128
/-- Whether an access of a range by an agent that acts must wait: for a line that an awl holds (log 82), or for the link. -/
def State.cut (s : State) (pa n : Nat) : Bool := s.rangeHeld pa n || s.far s.agentDie pa
/-- R246, R29: an access of a range by an agent that is no awl. Where it must wait, what the agent does waits. -/
def State.meet (s : State) (pa n : Nat) : State :=
  match s.cur with
  | .awl _ => s
  | _ => if s.cut pa n then { s with stalled := true } else s

/-- R218: a write by an agent that is no core, when it has completed: the copies of its lines have acknowledged, and every reader sees it. -/
def State.storeDone (s : State) (pa : Nat) (l : List Byte) : State :=
  (sectorPieces pa l).foldl (fun s x =>
    ((s.settleLine (lineOf x.1)).noteOld (fun _ => true) (fun _ => true) (x.1 / 32) ((s.settleLine (lineOf x.1)).sectorAt x.1)).writeMem x.1 x.2) (s.meet pa l.length)

/-- A write to host memory: its sectors' old values stay readable by async operations (R260). -/
def State.writeHost (s : State) (a : Nat) (l : List Byte) : State :=
  (sectorPieces a l).foldl (fun s x =>
    let old := sectorBits (bytesAt s.hostMem (x.1 / 32 * 32) 32)
    { s.noteOld (fun _ => true) (fun _ => true) (hostSector x.1) old with hostMem := setBytes s.hostMem x.1 x.2 }) s

/-! ### Event logs and interrupts (R83-R87) -/

/-- R86: a vector is signalled, or its pending bit is set while it is masked. -/
def State.signal (s : State) (fn vec : Nat) : State :=
  if (s.func fn).msixMask.getLsbD vec then s.modFunc fn fun f => { f with msixPend := f.msixPend ||| ((1#64) <<< vec) }
  else { s with irqs := s.irqs ++ [(fn, vec)] }

/-- Where a record of a function's log lies: PF0's in physical memory, a VF's in IPAs through stage 2 (log 13). -/
def State.logPa (s : State) (fn a : Nat) : Option Nat :=
  match (s.stage2 s.freeCtr (partOfFn fn) a).1 with
  | .ok f => if s.mayWrite (partOfFn fn) f.pa then some f.pa else none
  | .error _ => none

/-- R85, R86, R87: appends a record to a function's log; `sig` is false for a record flushed by a pause (R88). -/
def State.logRaw (s : State) (fn code ctx : Nat) (gen : Word) (tag : DWord) (data : List Byte) (sig : Bool) : State :=
  let f := s.func fn
  if gen.toNat < f.gen.toNat then s.modFunc 0 fun f => { f with dropgen := satInc f.dropgen }
  else if !f.elctl.getLsbD 8 then s
  else
    let size := 2 ^ (f.elctl.extractLsb' 0 5).toNat
    if (f.elwptr - f.elrptr).toNat ≥ size then
      s.modFunc fn fun f => { f with elovf := satInc f.elovf, elctl := f.elctl ||| 0x200#32 }
    else match s.logPa fn (f.elbase.toNat + 32 * (f.elwptr.toNat % size)) with
      | none => s
      | some pa =>
        let rec' := leBytes 2 code ++ leBytes 2 ctx ++ leBytes 4 gen.toNat ++ leBytes 8 tag.toNat ++ data ++ List.replicate (16 - data.length) 0
        let vec := ((if code = 1 then f.elctl.extractLsb' 10 3 else f.elctl.extractLsb' 13 3)).toNat
        let s := (s.storeDone pa rec').modFunc fn fun f => { f with elwptr := f.elwptr + 1 }
        if sig then s.signal fn vec else s.modPart (partOfFn fn) fun p => { p with pausedVecs := if p.pausedVecs.contains vec then p.pausedVecs else p.pausedVecs ++ [vec] }

/-- R88: from a pause until event 0x06 records are appended without a signal, and from then on none is appended. -/
def State.log (s : State) (fn code ctx : Nat) (gen : Word) (tag : DWord) (data : List Byte) : State :=
  let p := s.part (partOfFn fn)
  if p.paused && !p.pausing then s else s.logRaw fn code ctx gen tag data (!p.paused)

/-- A record with the function's present generation. -/
def State.logNow (s : State) (fn code ctx : Nat) (tag : DWord) (data : List Byte) : State :=
  s.log fn code ctx (s.func fn).gen tag data

/-- R85, R206: event 0x05 in the log of a context's function, and in PF0's for a failure at stage 2; with the tag of the command that raises it
(R47), or zero. PF0's copy has PF0's own generation and the context's number (log 80). -/
def State.logTagged (s : State) (ck : Nat) (tag : DWord) (va : DWord) (cause : Nat) (stage2 : Bool) : State :=
  let fn := fnOfPart (partOfCtx ck)
  let data := leBytes 8 va.toNat ++ [BitVec.ofNat 8 cause]
  let s := s.logNow fn 5 (numOfCtx ck) tag data
  if stage2 && fn ≠ 0 then s.logNow 0 5 (numOfCtx ck) tag data else s

/-- Such a record of what no command raises. -/
def State.logFault (s : State) (ck : Nat) (va : DWord) (cause : Nat) (stage2 : Bool) : State := s.logTagged ck 0 va cause stage2

/-- What every access leaves: the table entries it may have cached, the free values it used, and the record of a failed walk. -/
def State.afterTagged (s : State) (ck : Nat) (tag : DWord) (va : DWord) (r : Acc × List Tlb) : State :=
  let s := (s.keepTlb r.2).skip seedsPerAccess
  match r.1 with
  | .stop cause (some st2) => s.logTagged ck tag va cause st2
  | _ => s
def State.afterAccess (s : State) (ck : Nat) (va : DWord) (r : Acc × List Tlb) : State := s.afterTagged ck 0 va r

/-! ### Cinch counters (R126, R127, R396) -/

def Block.kval (b : Block) (k : Nat) : Nat := ((b.k[k]?).getD 0).toNat

/-- R396, R127: sets a counter; when it becomes zero the launches armed on it are due. -/
def Block.kput (b : Block) (k v : Nat) : Block :=
  { b with k := b.k.set k (BitVec.ofNat 16 v)
           armed := if v = 0 then b.armed.map fun a => if a.k = k then { a with due := true } else a else b.armed }

/-- R126, R396: a completion decrements a counter, and leaves it at 0 when it is 0. -/
def Block.kdec (b : Block) (k : Nat) : Block := if b.kval k = 0 then b else b.kput k (b.kval k - 1)

/-! ### Moving on, waiting and parking -/

/-- The word is done: the next repetition of REP (R328, R329) or the next word. -/
def Group.advance (g : Group) : Group :=
  let g := { g with replay := none, wait := 0, waitFor := .nothing, parkIpa := none, held := none, counted := false }
  if g.rep.isSome && g.repcnt.toNat > 1 then { g with repcnt := g.repcnt - 1 }
  else { g with pc := g.pc + 8, repcnt := if g.rep.isSome then 0 else g.repcnt, rep := none }

/-- The word is done and execution goes on elsewhere. -/
def Group.goto (g : Group) (pc : DWord) : Group :=
  { g with replay := none, wait := 0, waitFor := .nothing, parkIpa := none, held := none, counted := false, pc := pc, rep := none
           repcnt := if g.rep.isSome then 0 else g.repcnt }

def State.advance (s : State) (gid : Nat) : State := s.modGroup gid Group.advance

/-- R283: the wait reason that WAITRSN shows. A wait for room in the matrix pipeline, for writes to complete, for an IXU slot or for fills has
none: the group's operands or pipe are not available (R134). -/
def WaitFor.code : WaitFor → Nat
  | .barrier false _ => 1
  | .barrier true _ => 2
  | .counterZero _ | .countersZero | .counterRoom .. => 3
  | .batch _ => 4
  | .copyEntry => 5
  | .pool _ => 6
  | .ringSlot => 7
  | .armedRoom | .launchRoom => 8
  | .page => 9
  | .children => 10
  | .kyield .. => 13
  | .replies => 12
  | .nothing | .matrixRoom | .writes | .ixuSlot | .fills _ | .fetch _ => 0

/-- The group waits at its word, which runs again when the wait ends. -/
def State.waitAt (s : State) (gid : Nat) (w : WaitFor) : State := s.modGroup gid fun g => { g with wait := w.code, waitFor := w }

/-- R210: the group parks at its word with the threads that are not finished; `threads` is false for a fetch. -/
def State.park (s : State) (gid : Nat) (threads : Option Mask) (addr : DWord) (ipa : Option Nat) : State :=
  s.modGroup gid fun g =>
    { g with wait := 9, waitFor := .page, parkIpa := ipa, replay := match threads with | some m => some m | none => g.replay
             trap := { g.trap with mask := threads.getD 0, addr := addr } }

/-! ### Counters with their waiters -/

/-- What else of a copy's old value says that another group of the block has observed the copy's counter (R441, log 6). -/
def seenUnit : Nat := 2 ^ 60 * tagUnit

/-- R261, R463: the group has observed a zero value of counter `k`, so that the copies counted on it are visible to its operations. -/
def Group.observed (g : Group) (k : Nat) : Group := { g with unfenced := g.unfenced.filter fun e => e.1 % seenUnit / tagUnit ≠ 2 * k + 1 }
/-- Another group of its block has. -/
def Group.othersSaw (k : Nat) (g : Group) : Group :=
  { g with unfenced := g.unfenced.map fun (e : Nat × BitVec 256) => if e.1 / tagUnit = 2 * k + 1 then (e.1 + seenUnit, e.2) else e }
/-- R257, R260: an acquire of the group makes what other groups have observed visible to it, so that its next AFENCE covers that. -/
def Group.acquired (g : Group) : Group :=
  { g with unfenced := g.unfenced.map fun (e : Nat × BitVec 256) => if e.1 / seenUnit = 1 then (e.1 % tagUnit, e.2) else e }

/-- A group of a block observes a zero value of counter `k`. -/
def State.observe (s : State) (gid bid k : Nat) : State :=
  { s with groups := kmapAll s.groups fun id g => if id = gid then g.observed k else if g.block = bid then g.othersSaw k else g }

/-- Whether a group of a block waits for its counter `k`. -/
def State.awaited (s : State) (b k : Nat) : Bool :=
  s.groups.any fun e => e.2.block = b && match e.2.waitFor with | .counterZero j | .kyield j _ => j = k | _ => false

/-- R397: what a group that waits for counter `k` does when it becomes zero; `seen` says that one of its block waits for it. -/
def Group.counterZero (g : Group) (k : Nat) (seen : Bool) : Group :=
  let other := if seen then g.othersSaw k else g
  match g.waitFor with
  | .counterZero j => if j = k then (g.observed k).advance else other
  | .kyield j t => if j = k then (g.observed k).goto t else other
  | _ => other

/-- R396, R397: sets a counter of a block; the groups that wait for it to be zero go on when it is. -/
def State.kput (s : State) (b k v : Nat) : State :=
  let s := s.modBlock b fun blk => blk.kput k v
  if v = 0 then { s with groups := kmapAll s.groups fun _ g => if g.block = b then g.counterZero k (s.awaited b k) else g } else s

/-- R126: a completion's decrement. -/
def State.kdec (s : State) (b k : Nat) : State :=
  match kget s.blocks b with
  | none => s
  | some blk => if blk.kval k = 0 then s else s.kput b k (blk.kval k - 1)

/-! ### Orders (R216, R218, R257) -/

/-- R216, R257: an acquire at team scope or wider discards the core's L1 lines. -/
def State.acquire (s : State) (core scope : Nat) : State := if scope ≥ 2 then s.modCore core fun c => { c with l1 := [] } else s
/-- R257: an acquire by a group of a core. -/
def State.acquireBy (s : State) (gid core scope : Nat) : State := (s.acquire core scope).modGroup gid Group.acquired
/-- R218, R257: whether writes of a group, or of its core's other groups, which it may have observed, wait for acknowledgements. -/
def State.writesPending (s : State) (uid : Nat) : Bool :=
  s.pendingWrites.any fun p => p.uid = uid || (p.own && s.groups.any fun g => g.2.uid = uid && p.core = some g.2.core)

/-! ### Barriers (R393) -/

/-- The groups that take part in a barrier of a block, or of its team: those that have not ended (R391). -/
def State.participants (s : State) (b : Nat) (team : Bool) : List (Nat × Group) :=
  match kget s.blocks b with
  | none => []
  | some blk =>
    s.groups.filter fun e => e.2.waitFor ≠ .children && if team then match kget s.blocks e.2.block with
      | some o => o.launch = blk.launch && o.team = blk.team
      | none => false
    else e.2.block = b

/-- Whether no block of a block's team is switched out. -/
def State.teamResident (s : State) (b : Nat) : Bool :=
  match kget s.blocks b with
  | none => true
  | some blk => s.blocks.all fun o => o.2.launch ≠ blk.launch || o.2.team ≠ blk.team || o.2.resident

/-- When every participant waits at the barrier, all of them leave together. -/
def State.tryBarrier (s : State) (b : Nat) (team : Bool) (id : Nat) : State :=
  let l := s.participants b team
  if l ≠ [] && s.teamResident b && l.all fun e => e.2.waitFor = .barrier team id then
    l.foldl (fun s e => (s.advance e.1).acquireBy e.1 e.2.core (if team then 2 else 1)) s
  else s

/-- The barriers that a group's ending may complete. -/
def State.tryBarriers (s : State) (b : Nat) : State :=
  (List.range 16).foldl (fun s id => (s.tryBarrier b false id).tryBarrier b true id) s

/-! ### The end of a group (R124, R391) -/

/-- R454, R279: the cause code of a stopped copy. -/
def Copy.stopCause (c : Copy) : Nat := if c.poison then 0x0E else 0x09

/-- R454: discards a block's stopped copies: their counters stop counting them, and each is logged. -/
def State.dropStopped (s : State) (bid : Nat) : State :=
  match kget s.blocks bid with
  | none => s
  | some b =>
    let ck := ((kget s.launches b.launch).map (·.ctx)).getD 0
    b.stopped.foldl (fun s c => ((s.kdec bid c.k).modBlock bid fun b => { b with openOps := b.openOps - 1 }).logFault ck c.fault c.stopCause false)
      (s.modBlock bid fun b => { b with stopped := [] })

/-- Whether further groups of a block are still to start: pixel groups of a tile (R168), mesh groups of a payload slot (R178). -/
def Block.more (b : Block) : Bool :=
  match b.prog with
  | .tile => b.gfx.todo ≠ [] || b.gfx.quads ≠ []
  | .mesh => b.gfx.started < b.gfx.meshes
  | _ => false

/-- The end of a group of a graphics launch leaves its outputs with its block. -/
def State.noteEnded (s : State) (g : Group) : State :=
  s.modBlock g.block fun b =>
    if b.prog = .compute then b
    else
      let v2 := (g.regs.v.filter fun e => e.1 / 128 = 2).map fun e => (e.1 % 128, e.2)
      { b with gfx := { b.gfx with ended := b.gfx.ended ++ [{ gfx := g.gfx, m1 := Machine.sget g.regs.m 1, v2 := v2 }] } }

/-- R124: whether nothing but its groups keeps a block from retiring. -/
def Block.quiet (b : Block) : Bool := b.openOps = 0 && !b.armed.any (·.due)

/-- R178: the resources that a mesh group held in a payload ring are free. -/
def Core.freeHolder (c : Core) (gid : Nat) : Core :=
  { c with rings := kmapAll c.rings fun _ r => if r.holder = some gid then { r with holder := none } else r }

/-- A group's place is free. -/
def State.dropGroup (s : State) (gid : Nat) : State :=
  { s with groups := kdel s.groups gid, cores := kmod s.cores (coreOfGid gid) fun c => c.freeHolder gid }

/-- R178: a slot of a payload ring is free when its last mesh group has ended. -/
def State.leaveRing (s : State) (bid : Nat) (b : Block) : State :=
  if b.prog = .mesh then
    s.modCore b.core fun c => { c with rings := kmapAll c.rings fun _ r => { r with slots := r.slots.filter fun e => e.2 ≠ bid } }
  else s

/-- R152, R277, R391: the slot and the reservation of a travelling group that has ended are free. Its block is left without a group until its
copies have completed and the launches due have started (R124, R127; log 77). -/
def State.endTravelGroup (s : State) (gid : Nat) (g : Group) (b : Block) : State :=
  (((s.dropStopped g.block).dropGroup gid).modBlock g.block fun b => { b with cap := 0 }).modLaunch b.launch fun l =>
    match l.kind with
    | .travel t => { l with kind := .travel { t with free := t.free + b.cap } }
    | _ => l

def State.kindOf (s : State) (l : Nat) : LaunchKind := ((kget s.launches l).map (·.kind)).getD .plain

/-- R391, R124: ends a group, which may complete a barrier (R393). The last group of a block that cannot retire waits with CHILDREN. -/
def State.endGroup (s : State) (gid : Nat) : State :=
  match kget s.groups gid with
  | none => s
  | some g => match kget s.blocks g.block with
    | none => s.dropGroup gid
    | some b => match s.kindOf b.launch with
      | LaunchKind.travel _ => s.endTravelGroup gid g b
      | _ =>
        let s := s.noteEnded g
        if b.more || (s.groups.filter fun e => e.2.block = g.block && e.1 ≠ gid) ≠ [] then (s.dropGroup gid).tryBarriers g.block
        else
          let s := s.dropStopped g.block
          let quiet := ((kget s.blocks g.block).map Block.quiet).getD true
          if quiet then ((s.dropGroup gid).leaveRing g.block b).tryBarriers g.block else (s.waitAt gid .children).tryBarriers g.block

/-! ### Traps (R277-R280) -/

/-- What a trap writes: the cause, TRAPPC, TRAPMASK, TRAPADDR, RESUME and, for a stopped copy, TRAPITER. -/
structure Trap where
  cause : Nat
  pc : DWord
  mask : Mask := 0
  addr : DWord := 0
  resume : Bool := false
  iter : Option (List Word) := none
  deriving Repr

def causeIllegalInstr : Nat := 0x01
def causeIllegalPair : Nat := 0x02
def causeIllegalOperand : Nat := 0x03
def causeMisaligned : Nat := 0x04
def causeAccess : Nat := 0x05
def causePage : Nat := 0x06
def causeAsyncRecord : Nat := 0x07
def causeAsyncBounds : Nat := 0x08
def causeAsyncFault : Nat := 0x09
def causeAsyncCodebook : Nat := 0x0A
def causeMatrixOwner : Nat := 0x0B
def causePipeState : Nat := 0x0C
def causeWatchdog : Nat := 0x0D
def causePoison : Nat := 0x0E
def causeMachineCheck : Nat := 0x0F
def causeSwTrap : Nat := 0x10
def causeBreak : Nat := 0x11
def causeHopEntry : Nat := 0x12

/-- R278: ACTIVE of TRAPCAUSE. -/
def TrapRegs.active (t : TrapRegs) : Bool := t.cause.getLsbD 8
def TrapRegs.resume (t : TrapRegs) : Bool := t.cause.getLsbD 9

/-- R277: whether a trap of this group is a double trap. -/
def Group.doubleTrap (g : Group) : Bool := g.trap.active || g.trap.base = 0

/-- R277 steps 2 and 3: the trap registers and the PC. REPCNT keeps the repetitions left (R329). -/
def Group.enterTrap (g : Group) (t : Trap) : Group :=
  { g with pc := g.trap.base, wait := 0, waitFor := .nothing, wdog := 0, replay := none, parkIpa := none, held := none, rep := none
           counted := false, replays := false, resumed := false
           trap := { g.trap with pc := t.pc, mask := t.mask, addr := t.addr, iter := t.iter.getD g.trap.iter
                                 cause := BitVec.ofNat 32 (t.cause + 0x100 + if t.resume then 0x200 else 0) } }

/-- R277: taking a trap, for every cause. A double trap ends the group and is logged. -/
def State.takeTrap (s : State) (gid : Nat) (t : Trap) : State :=
  match kget s.groups gid with
  | none => s
  | some g =>
    if g.doubleTrap then
      match s.envOf gid 0 with
      | none => s.endGroup gid
      | some e => (s.endGroup gid).logFault e.ck t.pc t.cause false
    else s.modGroup gid fun g => g.enterTrap t

/-- R284: a group that leaves a wait for the pool takes nothing. -/
def State.withdraw (s : State) (e : Env) : State :=
  s.modLaunch e.b.launch fun l => match l.kind with
    | .graph g => { l with kind := .graph { g with waiting := g.waiting.filter (· ≠ e.g.uid) } }
    | _ => l

/-- A whole-group trap at the group's word, with TRAPADDR as given. -/
def State.trapHere (s : State) (e : Env) (cause : Nat) (addr : DWord) : State :=
  s.takeTrap e.gid { cause := cause, pc := e.g.pc, addr := addr }
/-- R279: a trap whose TRAPADDR is the word. -/
def State.trapWord (s : State) (e : Env) (cause : Nat) : State := s.trapHere e cause e.word
def State.illegalInstr (s : State) (e : Env) : State := s.trapWord e causeIllegalInstr
def State.illegalOperand (s : State) (e : Env) : State := s.trapWord e causeIllegalOperand

/-- R327: a REP word. -/
def isRepWord (w : DWord) : Bool := w.extractLsb' 56 8 = 0x12#8 && frZero w

/-- R142: the word that a travelling group's core holds of its segment. A word outside the segment is fetched as any other. -/
def State.pinnedWord (s : State) (e : Env) (pc : DWord) : Option DWord :=
  match e.l.kind, (s.core e.g.core).pinned with
  | .travel t, some p =>
    let start := ((t.segs[p.seg]?).map (·.code)).getD 0
    if p.launch = e.b.launch && start.toNat ≤ pc.toNat then p.code[(pc.toNat - start.toNat) / 8]? else none
  | _, _ => none

/-- The word at an address as a fetch of the group's context finds it, without effect. -/
def State.peekWord (s : State) (e : Env) (pc : DWord) : Option DWord :=
  match s.pinnedWord e pc with
  | some w => some w
  | none => match (s.access s.freeCtr e.ck pc .fetch).1 with
    | .dev pa _ => some (word64 (s.readMem pa 8))
    | .host key => some (word64 (bytesAt s.hostMem key 8))
    | _ => none

/-- R278, R329, R389: the REP word whose target a word is, when repetitions are left. -/
def State.repTarget (s : State) (e : Env) (pc : DWord) : Option FR :=
  if e.g.repcnt = 0 then none
  else match s.peekWord e (pc - 8) with | some w => if isRepWord w then some (frOf w) else none | none => none

/-- R313, R324, R280: why an address cannot be loaded into PC. -/
def badTarget (pc : DWord) : Option Nat :=
  if pc.extractLsb' 0 3 ≠ 0 then some causeMisaligned else if !canonical pc then some causeAccess else none

/-- R278, R401: the return from a trap of a group whose ACTIVE is set. -/
def Group.trapReturn (g : Group) (rep : Option FR) : Group :=
  let g := { g with pc := g.trap.pc, replay := none, rep := rep, repcnt := if rep.isSome then g.repcnt else 0, wait := 0, waitFor := .nothing, counted := false }
  if !g.trap.resume then g
  else if g.trap.mask = 0 then g.advance
  else { g with replay := some g.trap.mask }

/-- TRET (R401): ACTIVE is cleared first, and a TRAPPC that cannot be loaded traps at the TRET. -/
def State.returnFromTrap (s : State) (e : Env) : State :=
  if !e.g.trap.active then s.illegalInstr e
  else
    let s := s.modGroup e.gid fun g => { g with trap := { g.trap with cause := g.trap.cause &&& ~~~(0x100#32) } }
    match badTarget e.g.trap.pc with
    | some c => s.trapHere e c e.g.trap.pc
    | none => s.modGroup e.gid fun g => g.trapReturn (s.repTarget e e.g.trap.pc)

end Sys2Proof.Machine
end

