-- ==== Sys2Proof/Machine/Float.lean ====
section
/-! DEFINITION. The floating-point formats and their arithmetic (R293-R304, R508): a value is decoded to an exact one, computed
exactly, and rounded once. -/
namespace Sys2Proof.Machine

/-- R293: a format. `big` is the encoding of the largest finite value and `qnan` the canonical NaN (0 for f4, R302). -/
structure Fmt where
  ebits : Nat
  mbits : Nat
  bias : Nat
  inf : Bool
  big : Nat
  qnan : Nat
  deriving DecidableEq, Repr

def fmtF64 : Fmt := { ebits := 11, mbits := 52, bias := 1023, inf := true, big := 0x7FEFFFFFFFFFFFFF, qnan := 0x7FF8000000000000 }
def fmtF32 : Fmt := { ebits := 8, mbits := 23, bias := 127, inf := true, big := 0x7F7FFFFF, qnan := 0x7FC00000 }
def fmtF16 : Fmt := { ebits := 5, mbits := 10, bias := 15, inf := true, big := 0x7BFF, qnan := 0x7E00 }
def fmtBf16 : Fmt := { ebits := 8, mbits := 7, bias := 127, inf := true, big := 0x7F7F, qnan := 0x7FC0 }
def fmtF8a : Fmt := { ebits := 4, mbits := 3, bias := 7, inf := false, big := 0x7E, qnan := 0x7F }
def fmtF8b : Fmt := { ebits := 5, mbits := 2, bias := 15, inf := true, big := 0x7B, qnan := 0x7E }
def fmtF4 : Fmt := { ebits := 2, mbits := 1, bias := 1, inf := false, big := 0x7, qnan := 0 }

/-- R334: the float format of a TY code. -/
def fmtOf (ty : Nat) : Fmt :=
  match ty with
  | 9 => fmtF16 | 10 => fmtBf16 | 11 => fmtF8a | 12 => fmtF8b | 13 => fmtF4 | 14 => fmtF64 | _ => fmtF32

def Fmt.width (f : Fmt) : Nat := 1 + f.ebits + f.mbits

/-- An exact value: a finite one is (-1)^neg × m × 2^e, zero keeping its sign. -/
inductive Val
  | nan
  | inf (neg : Bool)
  | fin (neg : Bool) (m : Nat) (e : Int)
  deriving DecidableEq, Repr

/-- R301. -/
inductive RMode | rne | rtz | rdn | rup | rna
  deriving DecidableEq, Repr

def arithMode (md : Nat) : RMode := match md with | 1 => .rtz | 2 => .rdn | 3 => .rup | 4 => .rna | _ => .rne
def convMode (md : Nat) : RMode := match md % 4 with | 1 => .rtz | 2 => .rdn | 3 => .rup | _ => .rne

/-- R294: the value of an encoding. -/
def Fmt.decode (f : Fmt) (b : Nat) : Val :=
  let m := b % 2 ^ f.mbits
  let e := b / 2 ^ f.mbits % 2 ^ f.ebits
  let neg := b / 2 ^ (f.mbits + f.ebits) % 2 = 1
  let low : Int := 1 - (f.bias : Int) - (f.mbits : Int)
  if f.inf && e = 2 ^ f.ebits - 1 then (if m = 0 then .inf neg else .nan)
  else if f.qnan = 0x7F && e = 15 && m = 7 then .nan
  else if e = 0 then .fin neg m low
  else .fin neg (m + 2 ^ f.mbits) (low + e - 1)

/-- Rounds m × 2^e to a multiple of 2^q, as a count of 2^q. -/
def roundAt (mode : RMode) (neg : Bool) (m : Nat) (e q : Int) : Nat :=
  if q ≤ e then m * 2 ^ (e - q).toNat
  else
    let d := 2 ^ (q - e).toNat
    let n := m / d
    let r := m % d
    let up := match mode with
      | .rne => 2 * r > d || (2 * r = d && n % 2 = 1)
      | .rna => 2 * r ≥ d
      | .rtz => false
      | .rdn => neg && r ≠ 0
      | .rup => !neg && r ≠ 0
    if up then n + 1 else n

def bitLen (n : Nat) : Nat := if n = 0 then 0 else n.log2 + 1

def Fmt.signBit (f : Fmt) (neg : Bool) : Nat := if neg then 2 ^ (f.mbits + f.ebits) else 0

/-- R302: an infinity that a format delivers, and an overflow in a mode. -/
def Fmt.infinity (f : Fmt) (neg : Bool) : Nat :=
  if f.inf then f.signBit neg + (2 ^ f.ebits - 1) * 2 ^ f.mbits else if f.qnan = 0 then f.signBit neg + f.big else f.qnan
def Fmt.overflow (f : Fmt) (mode : RMode) (sat neg : Bool) : Nat :=
  let toInf := match mode with | .rne | .rna => true | .rtz => false | .rdn => neg | .rup => !neg
  if sat || !toInf then f.signBit neg + f.big else f.infinity neg

/-- R302: a value in a format. A value below the normal range is rounded once, at the subnormal's precision (log 20). -/
def Fmt.encode (f : Fmt) (mode : RMode) (sat : Bool) (v : Val) : Nat :=
  match v with
  | .nan => f.qnan
  | .inf neg => if sat then f.signBit neg + f.big else f.infinity neg
  | .fin neg m e =>
    if m = 0 then f.signBit neg
    else
      let low : Int := 1 - (f.bias : Int) - (f.mbits : Int)
      let q := max low (e + bitLen m - (f.mbits + 1))
      let n := roundAt mode neg m e q
      let code := if n < 2 ^ f.mbits then n else (n - 2 ^ f.mbits) + 2 ^ f.mbits * ((q - low).toNat + 1)
      if code > f.big then f.overflow mode sat neg else f.signBit neg + code

/-- R337: RoundTo for arithmetic. -/
def Fmt.round (f : Fmt) (mode : RMode) (v : Val) : Nat := f.encode mode false v

def Val.neg : Val → Val
  | .nan => .nan
  | .inf n => .inf (!n)
  | .fin n m e => .fin (!n) m e

def Val.isNan : Val → Bool | .nan => true | _ => false
def Val.isZero : Val → Bool | .fin _ 0 _ => true | _ => false
def Val.sign : Val → Bool | .nan => false | .inf n => n | .fin n _ _ => n

def Val.mul (a b : Val) : Val :=
  match a, b with
  | .nan, _ | _, .nan => .nan
  | .inf s, .inf t => .inf (s != t)
  | .inf s, .fin t m _ => if m = 0 then .nan else .inf (s != t)
  | .fin s m _, .inf t => if m = 0 then .nan else .inf (s != t)
  | .fin s m e, .fin t n f => .fin (s != t) (m * n) (e + f)

/-- A finite value as a count of 2^q, for a q not above its exponent. -/
def Val.scaled (q : Int) : Val → Int
  | .fin s m e => let n : Int := m * 2 ^ (e - q).toNat; if s then -n else n
  | _ => 0

def ofScaled (zeroNeg : Bool) (n : Int) (q : Int) : Val := if n = 0 then .fin zeroNeg 0 0 else .fin (n < 0) n.natAbs q

/-- The least exponent among finite nonzero values. -/
def minExp (l : List Val) : Int :=
  l.foldl (fun q v => match v with | .fin _ m e => if m = 0 then q else min q e | _ => q) 2000

/-- R508, R299: the exact sum of any number of addends. -/
def sumVals (mode : RMode) (l : List Val) : Val :=
  if l.any Val.isNan || (l.contains (.inf true) && l.contains (.inf false)) then .nan
  else if l.contains (.inf true) then .inf true
  else if l.contains (.inf false) then .inf false
  else
    let q := minExp l
    let n := l.foldl (fun n v => if v.isZero then n else n + v.scaled q) 0
    let zneg := if l.all fun v => v.isZero && v.sign then true else if l.all fun v => v.isZero && !v.sign then false else mode = .rdn
    ofScaled zneg n q

/-- The order of two values, none when either is NaN; zeros are equal. -/
def Val.cmp (a b : Val) : Option Ordering :=
  match a, b with
  | .nan, _ | _, .nan => none
  | .inf s, .inf t => some (if s = t then .eq else if s then .lt else .gt)
  | .inf s, _ => some (if s then .lt else .gt)
  | _, .inf t => some (if t then .gt else .lt)
  | a, b => let q := minExp [a, b]; some (compare ((a.scaled q)) (b.scaled q))

/-- R300: minimumNumber and maximumNumber. -/
def minNumber (a b : Val) : Val :=
  if a.isNan then b else if b.isNan then a
  else if a.isZero && b.isZero then (if a.sign then a else b)
  else if a.cmp b = some .gt then b else a
def maxNumber (a b : Val) : Val :=
  if a.isNan then b else if b.isNan then a
  else if a.isZero && b.isZero then (if a.sign then b else a)
  else if a.cmp b = some .lt then b else a

/-- A value rounded to an integer in a mode. -/
def Val.toInt (mode : RMode) : Val → Int
  | .fin s m e => let n : Int := roundAt mode s m e 0; if s then -n else n
  | _ => 0

def Val.ofInt (n : Int) : Val := .fin (n < 0) n.natAbs 0

def clampInt (lo hi n : Int) : Int := max lo (min hi n)

/-- R303: a conversion to an integer of a range. -/
def Val.toRange (mode : RMode) (lo hi : Int) (v : Val) : Int :=
  match v with
  | .nan => 0
  | .inf s => if s then lo else hi
  | v => clampInt lo hi (v.toInt mode)

/-- R412 VFRND. -/
def Val.integral (mode : RMode) (v : Val) : Val :=
  match v with
  | .fin s m e => .fin s (roundAt mode s m e 0) 0
  | v => v

/-- R413 VFRACT, in a format. -/
def Fmt.fract (f : Fmt) (v : Val) : Nat :=
  match v with
  | .fin s m e =>
    let fl : Int := if s then -(roundAt .rup false m e 0 : Int) else roundAt .rtz false m e 0
    let x := f.round .rne (sumVals .rne [v, Val.ofInt (-fl)])
    if (f.decode x).isZero then 0
    else if f.decode x = f.decode (f.round .rne (.fin false 1 0)) then x - 1 else x
  | _ => f.qnan

def f32 (w : Word) : Val := fmtF32.decode w.toNat
def toF32 (mode : RMode) (v : Val) : Word := BitVec.ofNat 32 (fmtF32.round mode v)
def f32Add (a b : Word) : Word := toF32 .rne (sumVals .rne [f32 a, f32 b])
def f32Min (a b : Word) : Word := toF32 .rne (minNumber (f32 a) (f32 b))
def f32Max (a b : Word) : Word := toF32 .rne (maxNumber (f32 a) (f32 b))
def f32Sub (a b : Word) : Word := toF32 .rne (sumVals .rne [f32 a, (f32 b).neg])
def f32Mul (a b : Word) : Word := toF32 .rne ((f32 a).mul (f32 b))
def f32OfInt (n : Int) : Word := toF32 .rne (Val.ofInt n)
def f32Lt (a b : Word) : Bool := (f32 a).cmp (f32 b) = some .lt
def f32Le (a b : Word) : Bool := (f32 a).cmp (f32 b) = some .lt || (f32 a).cmp (f32 b) = some .eq

/-- The exact quotient, cut below `extra` bits with the remainder kept as a last odd bit. -/
def divVal (a b : Val) : Val :=
  match a, b with
  | .nan, _ | _, .nan => .nan
  | .inf _, .inf _ => .nan
  | .inf s, .fin t _ _ => .inf (s != t)
  | .fin s _ _, .inf t => .fin (s != t) 0 0
  | .fin s m e, .fin t n f =>
    if n = 0 then (if m = 0 then .nan else .inf (s != t))
    else if m = 0 then .fin (s != t) 0 0
    else
      let k := 160 + bitLen n
      let num := m * 2 ^ k
      let qt := num / n
      .fin (s != t) (2 * qt + if num % n = 0 then 0 else 1) (e - f - k - 1)
def f32Div (a b : Word) : Word := toF32 .rne (divVal (f32 a) (f32 b))

/-! ### Transcendental functions (R304, log 10): the exact result in fixed point of `fxBits` fraction bits -/

def fxBits : Nat := 192
def fxOne : Int := 2 ^ fxBits
def fxMul (a b : Int) : Int := a * b / fxOne
def fxDiv (a b : Int) : Int := a * fxOne / b

/-- Σ x^n / n! over `n` terms (Horner, from the last). -/
def fxExpSeries (x : Int) : Nat → Int → Int
  | 0, acc => acc
  | n + 1, acc => fxExpSeries x n (fxOne + fxMul x acc / (n + 1))
def fxExp (x : Int) : Int := fxExpSeries x 60 fxOne

/-- Σ z^(2i+1)/(2i+1), i below `n`, by Horner in z². -/
def fxAtanhSeries (z2 : Int) : Nat → Int → Int
  | 0, acc => acc
  | n + 1, acc => fxAtanhSeries z2 n (fxOne / (2 * n + 1) + fxMul z2 acc)
def fxAtanh (z : Int) : Int := fxMul z (fxAtanhSeries (fxMul z z) 130 0)
/-- ln 2 = 2 atanh(1/3). -/
def fxLn2 : Int := 2 * fxAtanh (fxOne / 3)

/-- Σ (-1)^i y^i / (2i+1)! for y = x², times x. -/
def fxSinSeries (y : Int) : Nat → Int → Int
  | 0, acc => acc
  | n + 1, acc => fxSinSeries y n (fxOne - fxMul y acc / ((2 * (n + 1)) * (2 * (n + 1) + 1)))
def fxSin (x : Int) : Int := fxMul x (fxSinSeries (fxMul x x) 40 fxOne)

/-- π by Machin's formula: 16 atan(1/5) - 4 atan(1/239). -/
def fxAtanSeries (y : Int) : Nat → Int → Int
  | 0, acc => acc
  | n + 1, acc => fxAtanSeries y n (fxOne / (2 * n + 1) - fxMul y acc)
def fxAtanInv (k : Int) : Int := fxAtanSeries (fxOne / (k * k)) 100 0 / k
def fxPi : Int := 16 * fxAtanInv 5 - 4 * fxAtanInv 239

def ofFx (n : Int) : Val := .fin (n < 0) n.natAbs (-(fxBits : Int))

/-- The fraction of a finite value, in fixed point, and its floor (for values whose exponent is not below -fxBits it is exact). -/
def Val.floorFx : Val → Int × Int
  | .fin s m e =>
    let n : Int := if 0 ≤ e + fxBits then m * 2 ^ (e + fxBits).toNat else m / 2 ^ (-(e + fxBits)).toNat
    let n := if s then -n else n
    (n / fxOne, n % fxOne)
  | _ => (0, 0)

/-- 2^x for a finite x. -/
def exp2Val (v : Val) : Val :=
  match v with
  | .fin _ 0 _ => .fin false 1 0
  | .fin s m e =>
    if e + bitLen m > 12 then (if s then .fin false 1 (-5000) else .fin false 1 5000)
    else
      let (k, f) := (Val.fin s m e).floorFx
      .fin false (fxExp (fxMul f fxLn2)).natAbs (k - fxBits)
  | v => v

/-- log₂ x for a finite x > 0: x = 2^k × t with 1 ≤ t < 2, and ln t = 2 atanh((t - 1)/(t + 1)). -/
def log2Val (v : Val) : Val :=
  match v with
  | .fin _ m e =>
    let k : Int := e + bitLen m - 1
    let t : Int := m * 2 ^ (fxBits - (bitLen m - 1))
    let ln := 2 * fxAtanh (fxDiv (t - fxOne) (t + fxOne))
    ofFx (k * fxOne + fxDiv ln fxLn2)
  | v => v

/-- sin(2πx) for a finite x; the fraction of x is exact. -/
def sinTurns (v : Val) (shift : Int) : Val :=
  let (_, f0) := v.floorFx
  let f := (f0 + shift) % fxOne
  let q := 4 * f / fxOne
  let r := if q = 0 then f else if q = 1 then fxOne / 2 - f else if q = 2 then f - fxOne / 2 else fxOne - f
  let y := fxSin (2 * fxMul fxPi r)
  ofFx (if q < 2 then y else -y)

/-- tanh x for a finite x: for a small x by its first terms, else from e^(-2|x|). -/
def tanhVal (v : Val) : Val :=
  match v with
  | .fin s m e =>
    let n : Int := e + bitLen m
    if m = 0 then v
    else if n < -20 then
      -- x - x³/3, within far less than an ulp of f32
      sumVals .rne [v, (divVal (v.mul (v.mul v)) (.fin true 3 0))]
    else if n > 6 then .fin s (2 ^ 100 - 1) (-100)
    else
      let (k, f) := (Val.fin false m e).floorFx
      let x := k * fxOne + f
      -- e^(-2x) = (e^(-x/32))^64
      let p := (List.range 6).foldl (fun p _ => fxMul p p) (fxExp (-(x / 32)))
      let t := fxDiv (fxOne - p) (fxOne + p)
      ofFx (if s then -t else t)
  | v => v

/-- √x for a finite x ≥ 0, cut far below f32's precision with the remainder kept as a last odd bit. -/
def sqrtVal (m : Nat) (e : Int) : Val :=
  let (m, e) := if e % 2 = 0 then (m, e) else (2 * m, e - 1)
  let n := m * 2 ^ 200
  let r := n.sqrt
  .fin false (2 * r + if r * r = n then 0 else 1) (e / 2 - 101)

def nan32 : Word := 0x7FC00000#32

/-- An f32 result moved by the part's own error, at most `k` ulps (R304). -/
def nudgeUlps (fn : Nat) (x : Word) (k : Nat) (r : Word) : Word :=
  let d := Config.vtransError fn x % (2 * k + 1) - k
  if (f32 r).isNan then r else match f32 r with
    | .inf _ => r
    | _ =>
      let mag : Int := (r.toNat % 2 ^ 31 : Nat) + d
      if mag < 0 then BitVec.ofNat 32 (mag.natAbs) ||| (~~~r &&& 0x80000000#32)
      else BitVec.ofNat 32 mag.natAbs ||| (r &&& 0x80000000#32)

/-- R304, R416: whether an f32 result, rounded to f16, lies within 1 ulp of f16 of the exact one; where that is zero it is zero (log 10). -/
def f16Near (r : Word) (exact : Val) : Bool :=
  let near := fmtF16.encode .rne false exact
  let got := fmtF16.decode (fmtF16.encode .rne false (f32 r))
  if exact.isZero then got.isZero && !got.sign
  else match sumVals .rne [got, exact.neg] with
    | .fin _ m e => (Val.fin false m e).cmp (.fin false 1 (max (near / 1024 % 32 : Nat) 1 - 25)) ≠ some .gt
    | _ => true

/-- Whether an f32 is an f16 value. -/
def isF16 (x : Word) : Bool := toF32 .rne (fmtF16.decode (fmtF16.encode .rne false (f32 x))) = x

/-- A result moved by at most 2⁻²² in value (R304); the exactly rounded one when the move would leave a bound. -/
def nudgeAbs (fn : Nat) (x : Word) (exact : Val) : Word :=
  let d := Config.vtransError fn x % (2 ^ 21 + 1) - 2 ^ 20
  let r := toF32 .rne (sumVals .rne [exact, .fin (d < 0) d.natAbs (-42)])
  let diff := sumVals .rne [f32 r, exact.neg]
  if isF16 x && !f16Near r exact then (if exact.isZero then 0 else toF32 .rne exact) else match diff with
  | .fin _ m e => if (Val.fin false m e).cmp (.fin false 1 (-22)) = some .gt then toF32 .rne exact else r
  | _ => r

/-- R304: one VTRANS function of an f32, by FN. -/
def vtrans (fn : Nat) (x : Word) : Word :=
  let v := f32 x
  match fn, v with
  | _, .nan => nan32
  | 0, .inf s => toF32 .rne (.fin s 0 0)
  | 0, .fin s m e => if m = 0 then toF32 .rne (.inf s) else nudgeUlps 0 x 1 (toF32 .rne (divVal (.fin false 1 0) (.fin s m e)))
  | 1, .inf s => if s then nan32 else 0
  | 1, .fin s m e =>
    if m = 0 then toF32 .rne (.inf s) else if s then nan32
    else nudgeUlps 1 x 1 (toF32 .rne (divVal (.fin false 1 0) (sqrtVal m e)))
  | 2, .inf s => if s then nan32 else x
  | 2, .fin s m e => if m = 0 then x else if s then nan32 else toF32 .rne (sqrtVal m e)
  | 3, .inf s => if s then 0 else x
  | 3, v => nudgeUlps 3 x 2 (toF32 .rne (exp2Val v))
  | 4, .inf s => if s then nan32 else x
  | 4, .fin s m e =>
    if m = 0 then toF32 .rne (.inf true) else if s then nan32
    else if x = 0x3F800000#32 then 0
    else
      let y := log2Val (.fin s m e)
      if f32Le 0x3F000000#32 x && f32Le x 0x40000000#32 then nudgeAbs 4 x y else nudgeUlps 4 x 2 (toF32 .rne y)
  | 5, .inf _ => nan32
  | 5, v => if v.floorFx.2 = 0 && v.integral .rtz = v.integral .rup then 0 else nudgeAbs 5 x (sinTurns v 0)
  | 6, .inf _ => nan32
  | 6, v => nudgeAbs 6 x (sinTurns v (fxOne / 4))
  | 7, .inf s => toF32 .rne (.fin s 1 0)
  | _, .inf _ => nan32
  | _, v => if v.isZero then x else nudgeUlps 7 x 2 (toF32 .rne (tanhVal v))

end Sys2Proof.Machine
end

