-- ==== Sys2Proof/Machine/Flags.lean ====
section
/-! DEFINITION. The conditions and result functions of the integer and float instructions: what a compare puts into a condition
bit or a mask, the integer results of R378-R380, R408 and R411, and the legality of FMT and PCTL. -/
namespace Sys2Proof.Machine

/-! ### Compares (R382, R384, R409, R415) -/

inductive Cond | eq | ne | lt | le | ltu | leu | gt | ge | gtu | geu
  deriving DecidableEq, Repr

/-- R382, R409: the condition on two integers. -/
def Cond.holds {w : Nat} (c : Cond) (a b : BitVec w) : Bool :=
  match c with
  | .eq => a = b | .ne => a ≠ b
  | .lt => a.slt b | .le => a.sle b | .ltu => a.ult b | .leu => a.ule b
  | .gt => b.slt a | .ge => b.sle a | .gtu => b.ult a | .geu => b.ule a

inductive FCond | eq | ne | lt | le | gt | ge | ord | unord
  deriving DecidableEq, Repr

def fcondOf (n : Nat) : FCond :=
  match n with | 0 => .eq | 1 => .ne | 2 => .lt | 3 => .le | 4 => .gt | 5 => .ge | 6 => .ord | _ => .unord

/-- R384, R415: with a NaN, NE and UNORD hold and nothing else does. -/
def FCond.holds (c : FCond) (a b : Val) : Bool :=
  match a.cmp b, c with
  | none, .ne | none, .unord => true
  | none, _ => false
  | some o, .eq => o = .eq | some o, .ne => o ≠ .eq
  | some o, .lt => o = .lt | some o, .le => o ≠ .gt
  | some o, .gt => o = .gt | some o, .ge => o ≠ .lt
  | some _, .ord => true | some _, .unord => false

/-! ### Integer results -/

/-- R379. -/
def sdiv32 (a b : Word) : Word := if b = 0 then (if a.slt 0 then 1 else 0xFFFFFFFF#32) else a.sdiv b
def sdivu32 (a b : Word) : Word := if b = 0 then 0xFFFFFFFF#32 else a.udiv b
def srem32 (a b : Word) : Word := if b = 0 then a else a.srem b
def sremu32 (a b : Word) : Word := if b = 0 then a else a.umod b

def mulHi (a b : Word) : Word := BitVec.ofInt 32 (a.toInt * b.toInt / 2 ^ 32)
def mulHiU (a b : Word) : Word := BitVec.ofNat 32 (a.toNat * b.toNat / 2 ^ 32)

def shl {w : Nat} (a b : BitVec w) : BitVec w := a <<< (b.toNat % w)
def shr {w : Nat} (a b : BitVec w) : BitVec w := a >>> (b.toNat % w)
def sar {w : Nat} (a b : BitVec w) : BitVec w := a.sshiftRight (b.toNat % w)

def minS {w : Nat} (a b : BitVec w) : BitVec w := if b.slt a then b else a
def maxS {w : Nat} (a b : BitVec w) : BitVec w := if a.slt b then b else a
def minU {w : Nat} (a b : BitVec w) : BitVec w := if b.ult a then b else a
def maxU {w : Nat} (a b : BitVec w) : BitVec w := if a.ult b then b else a

/-- R380: offset and width from the second source. -/
def bfOff (b : Word) : Nat := b.toNat % 32
def bfLen (b : Word) : Nat := min (b.toNat / 256 % 64) (32 - bfOff b)
def bfMask (b : Word) : Word := BitVec.ofNat 32 (2 ^ bfLen b - 1)

def bfe (sext : Bool) (a b : Word) : Word :=
  let f := (a >>> bfOff b) &&& bfMask b
  if sext && bfLen b > 0 && f.getLsbD (bfLen b - 1) then f ||| ~~~(bfMask b) else f
def bfi (d a b : Word) : Word :=
  let mask := bfMask b <<< bfOff b
  (d &&& ~~~mask) ||| ((a <<< bfOff b) &&& mask)

def popc32 (a : Word) : Word := BitVec.ofNat 32 (popCount a)
def clz32 (a : Word) : Word := BitVec.ofNat 32 (32 - bitLen a.toNat)

/-- R295: the range of an integer of `w` bits. -/
def intLo (signed : Bool) (w : Nat) : Int := if signed then -(2 ^ (w - 1)) else 0
def intHi (signed : Bool) (w : Nat) : Int := if signed then 2 ^ (w - 1) - 1 else 2 ^ w - 1
def intOf {w : Nat} (signed : Bool) (a : BitVec w) : Int := if signed then a.toInt else a.toNat

/-- R408 VADDSAT, VSUBSAT and VABSDIFF. -/
def addSat {w : Nat} (signed : Bool) (a b : BitVec w) : BitVec w :=
  BitVec.ofInt w (clampInt (intLo signed w) (intHi signed w) (intOf signed a + intOf signed b))
def subSat {w : Nat} (signed : Bool) (a b : BitVec w) : BitVec w :=
  BitVec.ofInt w (clampInt (intLo signed w) (intHi signed w) (intOf signed a - intOf signed b))
def absDiff {w : Nat} (signed : Bool) (a b : BitVec w) : BitVec w := BitVec.ofNat w (intOf signed a - intOf signed b).natAbs

/-! ### FMT and PCTL -/

/-- R305, R306: the legal values of FMT. -/
def fmtLegal (v : Word) : Bool :=
  let a := (v.extractLsb' 0 4).toNat
  let b := (v.extractLsb' 4 4).toNat
  let acc := (v.extractLsb' 8 4).toNat
  let sc := (v.extractLsb' 12 2).toNat
  let isF (k : Nat) := 9 ≤ k && k ≤ 13
  let isI (k : Nat) := 4 ≤ k && k ≤ 7
  v.extractLsb' 14 18 = 0 &&
    ((isF a && isF b && (acc = 8 || acc = 9) && (sc = 0 || (sc ≤ 2 && 11 ≤ a && 11 ≤ b)))
      || (isI a && isI b && acc = 0 && sc = 0))

/-- R197: the event codes are 0 to 17. -/
def eventLegal (n : Nat) : Bool := n ≤ 17
def pctlLegal (v : Word) : Bool := (List.range 4).all fun i => eventLegal (v.extractLsb' (6 * i) 6).toNat

end Sys2Proof.Machine
end

