-- ==== Sys2Proof/Machine/Operands.lean ====
section
/-! DEFINITION. Operand forms (R316-R322, R334): constants, sources, the checks that need the group's allocation, and the shared
shells of the instructions of a group. -/
namespace Sys2Proof.Machine

/-! ### Packed elements (R296) and the constant table (R319) -/

/-- R334: the width of an element of a type, and how many a register holds. -/
def elemBits (ty : Nat) : Nat :=
  match ty with
  | 2 | 3 | 9 | 10 => 16 | 4 | 5 | 11 | 12 => 8 | 6 | 7 | 13 => 4 | 14 => 64 | _ => 32
def elemCount (ty : Nat) : Nat := if ty = 14 then 1 else 32 / elemBits ty
/-- R295: the i types among the integer codes. -/
def tySigned (ty : Nat) : Bool := ty % 2 = 0
def tyIsFloat (ty : Nat) : Bool := 8 ≤ ty

def elem (ty : Nat) (x : Word) (i : Nat) : Nat := x.toNat / 2 ^ (elemBits ty * i) % 2 ^ elemBits ty
/-- A register whose element i is `f i`. -/
def packElems (ty : Nat) (f : Nat → Nat) : Word :=
  BitVec.ofNat 32 ((List.range (elemCount ty)).foldl (fun n i => n + f i % 2 ^ elemBits ty * 2 ^ (elemBits ty * i)) 0)
def setElem (ty : Nat) (x : Word) (i v : Nat) : Word := packElems ty fun j => if j = i then v else elem ty x j

/-- R319: entries 0-79 as integers, and 80-94 as f32 patterns. -/
def constInt (e : Nat) : Int := if e < 64 then e else -((e : Int) - 63)
def constF32 (e : Nat) : Word :=
  match e with
  | 80 => 0x3F000000#32 | 81 => 0x3F800000#32 | 82 => 0x40000000#32 | 83 => 0x40800000#32
  | 84 => 0xBF000000#32 | 85 => 0xBF800000#32 | 86 => 0xC0000000#32 | 87 => 0xC0800000#32
  | 88 => 0x40490FDB#32 | 89 => 0x3EA2F983#32 | 90 => 0x3F317218#32 | 91 => 0x3FB8AA3B#32
  | 92 => 0x7F800000#32 | 93 => 0xFF800000#32 | _ => 0x7FC00000#32

/-- R319: an entry's exact value. -/
def constVal (e : Nat) : Val := if e < 80 then Val.ofInt (constInt e) else f32 (constF32 e)

/-- R319: an entry in a 32-bit operand type. -/
def constWord (ty e : Nat) : Word :=
  if e = 95 then packElems ty fun _ => 2 ^ (elemBits ty - 1)
  else if ty ≤ 7 then (if e < 80 then packElems ty fun _ => (constInt e % 2 ^ elemBits ty).toNat else constF32 e)
  else packElems ty fun _ => (fmtOf ty).encode .rne false (constVal e)

/-- R319: an entry as an f64. -/
def constF64 (e : Nat) : DWord :=
  if e = 95 then 0x8000000000000000#64 else BitVec.ofNat 64 (fmtF64.encode .rne false (constVal e))
/-- R377: an entry as a 64-bit integer. -/
def constI64 (e : Nat) : DWord := BitVec.ofInt 64 (constInt e)

/-! ### Sources and destinations -/

def regOf (f : BitVec 11) : Nat := if f.getLsbD 10 then (f.extractLsb' 0 10).toNat else (f.extractLsb' 0 8).toNat
/-- The vector register a vector or latch operand names; an empty latch has been refused (R188). -/
def Group.vregOf (g : Group) (f : BitVec 11) : Nat :=
  match opKind f with | .latch => (g.regs.tag (f.extractLsb' 0 2).toNat).getD 0 | _ => regOf f

/-- R317: a 32-bit source for a thread. -/
def Group.src (g : Group) (ty : Nat) (f : BitVec 11) (t : Nat) : Word :=
  match opKind f with
  | .scalar => g.regs.sget (regOf f)
  | .const => constWord ty (regOf f)
  | _ => g.regs.vget (g.vregOf f) t

/-- R317, R318: a pair. -/
def Group.src64 (g : Group) (f : BitVec 11) (t : Nat) : DWord :=
  match opKind f with
  | .scalar => g.regs.sget64 (regOf f)
  | .const => constF64 (regOf f)
  | _ => pair64 (g.regs.vget (g.vregOf f) t) (g.regs.vget (g.vregOf f + 1) t)

/-- Register `k` of a multi-register source for a thread. -/
def Group.srcAt (g : Group) (f : BitVec 11) (t k : Nat) : Word :=
  match opKind f with
  | .scalar => g.regs.sget (regOf f + k)
  | .const => if k = 0 then constWord 0 (regOf f) else 0
  | _ => g.regs.vget (g.vregOf f + k) t

/-- A scalar instruction's sources (R317, R377, R382). -/
def Group.s32 (g : Group) (f : BitVec 11) : Word := g.src 0 f 0
def Group.s64 (g : Group) (f : BitVec 11) : DWord :=
  match opKind f with | .const => constI64 (regOf f) | _ => g.regs.sget64 (regOf f)
def Group.sF (g : Group) (f : BitVec 11) : Word := g.src 8 f 0
def Group.sF64 (g : Group) (f : BitVec 11) : DWord := g.src64 f 0

/-- R316: the mask a field names. -/
def mnum (f : BitVec 11) : Nat := (f.extractLsb' 0 4).toNat
def cnum (f : BitVec 11) : Nat := (f.extractLsb' 0 3).toNat
def knum (f : F3) : Nat := (f.x.extractLsb' 0 5).toNat
/-- R325: the signed 11-bit offset in B. -/
def offB (f : F3) : Int := f.b.toInt
/-- R322: the sign-extended immediate. -/
def imm32 (f : FI) : Word := f.imm.signExtend 32
def imm64 (f : FI) : DWord := f.imm.signExtend 64

/-! ### The checks of R318, R321 and R386 that raise ILLEGAL_OPERAND -/

def ruleFits (r : Rule) (g : Group) (f : BitVec 11) : Bool :=
  match r with
  | .dst v s n al =>
    match opKind f with
    | .vector => v && regOf f % al = 0 && regOf f + n ≤ g.vregs
    | .scalar => s && regOf f % al = 0 && regOf f + n ≤ g.sregs
    | _ => false
  | .src v s l c n al =>
    match opKind f with
    | .vector => v && regOf f % al = 0 && regOf f + n ≤ g.vregs
    | .scalar => s && regOf f % al = 0 && regOf f + n ≤ g.sregs
    | .latch => l && match g.regs.tag (f.extractLsb' 0 2).toNat with
      | some r => r % al = 0 && r + n ≤ g.vregs
      | none => false
    | .const => c
    | .reserved => false
  | .maskDst => mnum f ≠ 0
  | _ => true

/-- R336: why an F3 or FM word traps at decode for this group, ILLEGAL_INSTR before ILLEGAL_OPERAND. -/
def f3Cause (sh : Sheet) (g : Group) (f : F3) : Option Nat :=
  if !sh.f3Legal f then some causeIllegalInstr
  else if !(ruleFits sh.d g f.d && ruleFits sh.a g f.a && ruleFits sh.b g f.b) then some causeIllegalOperand else none
def fiCause (sh : Sheet) (g : Group) (f : FI) : Option Nat :=
  if !sh.fiLegal f then some causeIllegalInstr
  else if !(ruleFits sh.d g f.d && ruleFits sh.a g f.a) then some causeIllegalOperand else none

/-! ### Shells -/

/-- R197: adds a number that the manual leaves to timing to the counters of a code, when one counts it (log 8). -/
def State.countFree (s : State) (gid code : Nat) : State :=
  match kget s.groups gid with
  | none => s
  | some g =>
    if (List.range 4).any fun i => (g.pctl.extractLsb' (6 * i) 6).toNat = code && g.pctl.getLsbD (24 + i) then
      (s.count gid code (Config.freeNat s.freeCtr)).skip 1
    else s

/-- R188, R197: reads through latches, whose split between codes 8 and 9 is one of timing. -/
def State.countLatch (s : State) (gid : Nat) (l : List (Rule × BitVec 11)) : State :=
  if l.any fun (r, f) => opKind f = .latch && (match r with | .src .. => true | _ => false) then
    (s.countFree gid 8).countFree gid 9
  else s

/-- An F3 or FM instruction: the decode checks, then its effect. -/
def withF3 (sh : Sheet) (f : F3) (s : State) (body : Env → State → State) : Outcome :=
  asGroup s fun e s => match f3Cause sh e.g f with
    | some c => s.trapWord e c
    | none => body e (s.countLatch e.gid [(sh.d, f.d), (sh.a, f.a), (sh.b, f.b)])

/-- R336: an F3 or FM instruction that only some launches or programs may execute; elsewhere it traps ILLEGAL_INSTR, ahead of what is wrong with its
operands. -/
def withF3If (legal : Env → Bool) (sh : Sheet) (f : F3) (s : State) (body : Env → State → State) : Outcome :=
  asGroup s fun e s =>
    if !legal e then s.illegalInstr e
    else match f3Cause sh e.g f with
      | some c => s.trapWord e c
      | none => body e (s.countLatch e.gid [(sh.d, f.d), (sh.a, f.a), (sh.b, f.b)])

/-- An FI instruction: the decode checks, then its effect. -/
def withFI (sh : Sheet) (f : FI) (s : State) (body : Env → State → State) : Outcome :=
  asGroup s fun e s => match fiCause sh e.g f with
    | some c => s.trapWord e c
    | none => body e (s.countLatch e.gid [(sh.a, f.a)])

/-- Writes the group's registers and moves on. -/
def State.finish (s : State) (e : Env) (r : Regs) : State := s.modGroup e.gid fun g => ({ g with regs := r }).advance

/-- Writes a scalar register and moves on. -/
def State.finishS (s : State) (e : Env) (d : BitVec 11) (v : Word) : State := s.finish e (e.g.regs.sset (regOf d) v)
def State.finishS64 (s : State) (e : Env) (d : BitVec 11) (v : DWord) : State := s.finish e (e.g.regs.sset64 (regOf d) v)
def State.finishC (s : State) (e : Env) (d : BitVec 11) (v : Bool) : State := s.finish e (e.g.regs.cset (cnum d) v)
def State.finishM (s : State) (e : Env) (d : BitVec 11) (v : Mask) : State := s.finish e (e.g.regs.mset (mnum d) v)

/-! ### Vector execution (R182, R187, R404) -/

/-- R182: passes that execute under a predicate. -/
def passes (m : Mask) : Nat := ((List.range 4).filter fun p => m.extractLsb' (32 * p) 32 ≠ 0).length

/-- Writes registers from `d` up, `n` of them, for the predicated threads; everything is read from the registers as they were. -/
def Regs.vwrite (r : Regs) (d : Nat) (m : Mask) (n : Nat) (f : Nat → Nat → Word) : Regs :=
  { r with v := ssets r.v ((List.range n).flatMap fun k => (bitsOf m).map fun t => (128 * (d + k) + t, f t k)) }

/-- The counters of a vector instruction's passes (R197). -/
def State.countVector (s : State) (e : Env) (m : Mask) : State :=
  (s.count e.gid 3 (passes m)).count e.gid 4 (4 - passes m)

/-- A vector instruction that writes `n` registers from D: the predicated threads are written, the tags shift (R187). -/
def State.finishV (s : State) (e : Env) (mk : BitVec 4) (d : BitVec 11) (n : Nat) (f : Nat → Nat → Word) : State :=
  let m := e.g.pred mk.toNat
  (s.countVector e m).finish e ((e.g.regs.vwrite (regOf d) m n f).shiftTags (regOf d))

/-- R409, R415: a compare writes all 128 bits of its mask, zero outside the predicate; a replay only those of its threads. -/
def State.finishCmp (s : State) (e : Env) (mk : BitVec 4) (d : BitVec 11) (f : Nat → Bool) : State :=
  let m := e.g.pred mk.toNat
  let v := maskOf ((bitsOf m).filter f)
  let v := match e.g.replay with | none => v | some r => (e.g.regs.mget (mnum d) &&& ~~~r) ||| (v &&& r)
  (s.countVector e m).finish e (e.g.regs.mset (mnum d) v)

end Sys2Proof.Machine
end

