-- ==== Sys2Proof/Machine/Cache.lean ====
section
/-! DEFINITION. The L2 lines a slice holds, their sharers and pins, the events they raise for the awls, and the L1 of a core
(R216-R221, R233, R244, R245). -/
namespace Sys2Proof.Machine

/-! ### Awl events (R242-R245) -/

/-- R242: the window of a context that holds an address and has the trigger. -/
def Ctx.windowAt (c : Ctx) (trigger : Nat) (va : Nat) : Option (Nat × Window) :=
  c.windows.find? fun e => e.2.triggers.getLsbD trigger && e.2.vbase.toNat ≤ va && va < e.2.vbase.toNat + e.2.vsize

/-- R250: one atomic update of a window's abort block; a fault loses it. -/
def State.updateAbortBlock (s : State) (ck : Nat) (log : DWord) (f : List Byte → List Byte) : State :=
  let r := s.access s.freeCtr ck log .atomic
  let s := s.afterAccess ck log r
  match r.1 with
  | .dev pa _ => let s := s.settleLine (lineOf pa); s.storeDone pa (f (s.readMem pa 64))
  | _ => s

def patch (l : List Byte) (o : Nat) (b : List Byte) : List Byte := l.take o ++ b ++ l.drop (o + b.length)
/-- Raises a 32-bit count in a block of bytes, up to its largest value. -/
def bumpWord (l : List Byte) (o : Nat) : List Byte := patch l o (leBytes 4 (satInc (word32 ((l.drop o).take 4))).toNat)

/-- R245: queues an event at an awl, or counts it as dropped; answers its number when it was queued. -/
def State.queueAwl (s : State) (slice : Nat) (ev : AwlEvent) : State × Option Nat :=
  let a := s.awl slice
  if a.queue.length < 64 then
    let ev := { ev with id := s.nextId }
    ({ s with nextId := s.nextId + 1 }.modAwl slice fun a => { a with queue := a.queue ++ [ev] }, some ev.id)
  else
    match kget (s.ctx ev.ctx).windows ev.window with
    | some w => (s.updateAbortBlock ev.ctx w.logaddr fun l => bumpWord l 4, none)
    | none => (s, none)

/-- R244: raises MISS or FILL for the window that holds the line. -/
def State.raise (s : State) (slice code ck va : Nat) : State × Option Nat :=
  let line := va / 128 * 128
  match (s.ctx ck).windowAt code line with
  | none => (s, none)
  | some (n, _) => s.queueAwl slice { id := 0, code := code, ctx := ck, window := n, va := BitVec.ofNat 64 line }

/-- R244: EVICT goes to the window and context under which the line was filled. -/
def State.raiseEvict (s : State) (slice : Nat) (l : Line) : State :=
  match l.window with
  | none => s
  | some n => match kget (s.ctx l.ctx).windows n with
    | none => s
    | some w => if w.triggers.getLsbD 2 then (s.queueAwl slice { id := 0, code := 2, ctx := l.ctx, window := n, va := l.va }).1 else s

/-! ### Lines (R216, R217, R220, R221) -/

def State.line? (s : State) (pa : Nat) : Option Line := kget s.lines (lineOf pa)
def State.modLine (s : State) (pa : Nat) (f : Line → Line) : State := { s with lines := kmod s.lines (lineOf pa) f }

/-- R291: the ways a set still has. -/
def State.waysOf (s : State) (pa : Nat) : Nat := Config.ways - (kget s.retiredWays (2048 * sliceOf pa + setOf pa)).getD 0

/-- The lines present in the set of an address. -/
def State.setLines (s : State) (pa : Nat) : KMap Line :=
  s.lines.filter fun e => sliceOf (128 * e.1) = sliceOf pa && setOf (128 * e.1) = setOf pa

/-- The order in which the lines of an address's set are to be evicted, without that address's. -/
def setKey (pa : Nat) : Nat := 2048 * sliceOf pa + setOf pa
def State.orderOf (s : State) (pa : Nat) : List Nat := ((kget s.evictOrder (setKey pa)).getD []).filter (· ≠ lineOf pa)

/-- R216: a line's place in its set's order of eviction. One that is filled goes first under MD 1 and last under MD 2; every other place, and
that of a line that is accessed again, is a free choice (log 16). -/
def State.placeLine (s : State) (pa md : Nat) (fill : Bool) : State :=
  let l := s.orderOf pa
  let put (s : State) (i : Nat) : State := { s with evictOrder := kset s.evictOrder (setKey pa) (l.take i ++ lineOf pa :: l.drop i) }
  if l = [] then put s 0
  else if fill && md = 1 then put s 0
  else if fill && md = 2 then put s l.length
  else put (s.skip 1) (Config.freeNat s.freeCtr % (l.length + 1))

/-- R216, R244, R254: makes room in a set: the first line in the set's order that is neither pinned nor held goes, and raises EVICT when `ev`
holds. False when there is none. -/
def State.makeRoom (s : State) (pa : Nat) (ev : Bool) : State × Bool :=
  let l := s.setLines pa
  if l.length < s.waysOf pa then (s, true)
  else
    let cand := l.filter fun e => e.2.pins = [] && !s.heldLines.any fun h => h.1 = e.1
    match ((s.orderOf pa).filter fun k => cand.any fun e => e.1 = k) ++ cand.map (·.1) with
    | [] => (s, false)
    | k :: _ =>
      let s := match ev, kget s.lines k with | true, some ln => s.raiseEvict (sliceOf pa) ln | _, _ => s
      ({ s with lines := kdel s.lines k }, true)

/-- R217, R219: the copies a read may leave: bits 0 to 2 for another sector of the home die, 3 for the other die. -/
def State.sharerBit (s : State) (core pa : Nat) : Option Nat :=
  let sl := sliceOf pa
  if s.dieOf core ≠ sl / 24 then (if (s.fotEntry (pa / 65536)).getLsbD 6 then some 3 else none)
  else if s.sectorOf core ≠ sl % 24 / 8 then some (s.sectorOf core) else none

/-- Who makes an access: the core, if one does, the context and address, whether it raises events (R244), and the policy of its MD (R216). -/
structure Requester where
  core : Option Nat
  ck : Nat
  va : Nat
  ev : Bool
  md : Nat := 0
  deriving DecidableEq, Repr

/-- R219: the traffic of a frame's window. -/
def State.countTraffic (s : State) (r : Requester) (pa : Nat) (write : Bool) : State :=
  let fr := pa / 65536
  let inc (m : KMap Nat) := kset m fr ((kget m fr).getD 0 + 1)
  if write then { s with frameWrites := inc s.frameWrites }
  else match r.core with
    | some c => if s.dieOf c ≠ pa / 2 ^ 36 then { s with frameReads := inc s.frameReads } else s
    | none => s

/-- R216, R244: a miss fills the line and raises MISS and FILL; answers the FILL invocation that holds the requester. An uncached page's
line is not kept, and nothing fills. -/
def State.fillLine (s : State) (r : Requester) (pa : Nat) (unc : Bool) : State × List Nat :=
  let slice := sliceOf pa
  match s.line? pa with
  | some _ => (s.placeLine pa r.md false, [])
  | none =>
    let s := if r.ev then (s.raise slice 0 r.ck r.va).1 else s
    if unc then (s, [])
    else match s.makeRoom pa r.ev with
      | (s, false) => (s, [])
      | (s, true) =>
        let ln : Line := { ctx := r.ck, window := ((s.ctx r.ck).windowAt 2 (r.va / 128 * 128)).map (·.1), va := BitVec.ofNat 64 (r.va / 128 * 128) }
        let s := { s with lines := kset s.lines (lineOf pa) ln }.placeLine pa r.md true
        if r.ev then
          match s.raise slice 1 r.ck r.va with
          | (s, some i) => (s, [i])
          | (s, none) => (s, [])
        else (s, [])

/-- R217: a read leaves the copy that a sharer bit names. -/
def State.noteRead (s : State) (core pa : Nat) : State :=
  match s.sharerBit core pa with
  | some b => s.modLine pa fun l => { l with sharers := if l.sharers.contains b then l.sharers else l.sharers ++ [b] }
  | none => s

/-- R246: the invocation that holds a line with ALOCK. -/
def State.holders (s : State) (pa : Nat) : List Nat :=
  match kget s.heldLines (lineOf pa) with
  | some slice => match (s.awl slice).run with | some r => [r.ev.id] | none => []
  | none => []

/-- An access reaches its home slice; answers the invocations that hold the requester: FILL handlers (R244), and one that holds the line
(R246). -/
def State.touch (s : State) (r : Requester) (pa : Nat) (unc write : Bool) : State × List Nat :=
  match (s.countTraffic r pa write).fillLine r pa unc with
  | (s, fills) => (if write then s.modLine pa fun l => { l with dirty := true } else match r.core with | some c => s.noteRead c pa | none => s,
      if r.ev then fills ++ s.holders pa else fills)

/-! ### Pins (R220, R221, R433) -/

def State.pinnedBy (s : State) (ck : Nat) : Nat := (s.lines.filter fun e => e.2.pins.contains ck).length
/-- A line counts once against each context that pins it, and a partition holds what its contexts hold (R77, R220): a line that two contexts of one
partition pin counts twice (log 34). -/
def State.pinnedByPart (s : State) (part : Nat) : Nat :=
  s.lines.foldl (fun n e => n + (e.2.pins.filter fun c => partOfCtx c = part).length) 0

/-- R221, R433: pins a line for a context, in its home slice. -/
def State.pinLine (s : State) (ck pa : Nat) : State × Nat :=
  let ln := (s.line? pa).getD {}
  if ln.pins.contains ck then (s, 0)
  else if s.pinnedBy ck + 1 > (s.ctx ck).pinquota.toNat then (s, 1)
  else if s.pinnedByPart (partOfCtx ck) + 1 > (s.part (partOfCtx ck)).pinquota.toNat then (s, 2)
  else if ln.pins = [] && ((s.setLines pa).filter fun e => e.2.pins ≠ []).length ≥ s.waysOf pa - 4 then (s, 3)
  else if (s.line? pa).isNone then (s, 3)
  else (s.modLine pa fun l => { l with pins := l.pins ++ [ck] }, 0)

/-- R220, R433: releases a context's pin. -/
def State.unpinLine (s : State) (ck pa : Nat) : State × Nat :=
  match s.line? pa with
  | some l => if l.pins.contains ck then (s.modLine pa fun l => { l with pins := l.pins.filter (· ≠ ck) }, 0) else (s, 5)
  | none => (s, 5)

/-- Releases every pin of the contexts that satisfy `p`. -/
def State.releasePins (s : State) (p : Nat → Bool) : State :=
  { s with lines := kmapAll s.lines fun _ l => { l with pins := l.pins.filter fun c => !p c } }

/-! ### The L1 and the async proxy (R216, R260, R262) -/

/-- R265: memory as a core sees it: with the writes of its own that have passed its L1 and wait for acknowledgements. -/
def State.memOf (s : State) (core : Nat) : Sparse 8 :=
  s.pendingWrites.foldl (fun m w => if w.own && w.core = some core then setBytes m w.pa w.data else m) s.mem
/-- Memory as it will be when the writes that wait on a line have landed. -/
def State.memBehind (s : State) (line : Nat) : Sparse 8 :=
  s.pendingWrites.foldl (fun m w => if w.line = line then setBytes m w.pa w.data else m) s.mem
def State.sectorFor (s : State) (core pa : Nat) : BitVec 256 := sectorBits (bytesAt (s.memOf core) (pa / 32 * 32) 32)

/-- R216, R262, R426: what a core's load reads: a sector that its L1 holds may still be served from there; `again` says that a thread of
the same instruction has read the sector before, and with what result. -/
def State.l1Read (s : State) (core pa n : Nat) (use : L1Use) (again : Bool) : State × List Byte :=
  let sec := pa / 32
  let now := s.sectorFor core pa
  let cut (v : BitVec 256) : List Byte := leBytes n (v.toNat / 2 ^ (8 * (pa % 32)))
  let held := kget (s.core core).l1 sec
  if use = .bypass then (s.modCore core fun c => dropL1 c sec, cut now)
  else
    let v := match held with
      | some old => if again then old else oneOf s.freeCtr now [now, old]
      | none => now
    ((s.skip 1).modCore core fun c => if use = .allocate || held.isSome then { c with l1 := kset c.l1 sec v } else c, cut v)

/-- Keys of the sectors of memory, of a block's scratchpad and of a B-store among a group's unfenced writes; the scratchpad writes of the
group itself have a key of their own, and another once an MFENCE covers them (R462), and so have those of an MST. -/
def spmKey (off : Nat) : Nat := 2 ^ 60 + off / 32
def bstoreKey (a : Nat) : Nat := 2 ^ 61 + a / 32
def ownKey (off : Nat) : Nat := 2 ^ 62 + off / 32
def mfencedKey (off : Nat) : Nat := 2 ^ 63 + off / 32
def mstKey (off : Nat) : Nat := 2 ^ 64 + off / 32
/-- What an async read of a scratchpad may find unfenced. -/
def asyncKeys : List (Nat → Nat) := [spmKey, ownKey, mfencedKey, mstKey]
/-- What only an observed counter ends for a write of a copy, and only an MWAIT for a write of an MST (R463). -/
def copyTag (k : Nat) : Nat := tagUnit * (2 * k + 1)
def mstTag (batch : Nat) : Nat := tagUnit * (2 * batch + 2)
/-- Whether an old value stays readable until an MWAIT. -/
def mstEntry (e : Nat × BitVec 256) : Bool := 2 ≤ e.1 / tagUnit && e.1 / tagUnit % 2 = 0
/-- R472: what an old value from before an IMGST of the group is for the group's sampler alone: overwritten. -/
def texTag : Nat := tagUnit * (2 ^ 59 + 1)
def texEntry (e : Nat × BitVec 256) : Bool := e.1 / tagUnit = 2 ^ 59 + 1
/-- R441, R463: whether an AFENCE ends an old value: not that of a write of a copy or an MST. -/
def afenced (e : Nat × BitVec 256) : Bool := e.1 < tagUnit || texEntry e || (mstEntry e && e.1 % tagUnit / 2 ^ 64 ≠ 1)

/-- The value of the sector at `a` with the bytes that a write puts over it. -/
def overSector (a off : Nat) (l : List Byte) (v : BitVec 256) : BitVec 256 :=
  sectorBits ((List.range 32).map fun i => if off ≤ a + i then (l[a + i - off]?).getD (v.extractLsb' (8 * i) 8) else v.extractLsb' (8 * i) 8)

/-- R260: the bytes an async operation reads from a sector, which has the keys given: the new value or an old one of the unfenced writes. -/
def asyncSector (seed : Nat) (unf : List (Nat × BitVec 256)) (keys : List Nat) (now : BitVec 256) : BitVec 256 :=
  oneOf (2 ^ 80 * (seed + 1) + keys.headD 0) now (now :: (unf.filter fun e => keys.contains (e.1 % tagUnit)).map (·.2))

/-- Who writes: a number that waits for the acknowledgements, the core whose L1 the write passes, whether that core's own accesses see it
at once, and the launch and context. -/
structure Writer where
  uid : Nat
  core : Option Nat
  own : Bool
  lid : Nat
  ck : Nat

/-- R218: whether a write to a line waits: for its copies, or behind another write to the line. -/
def State.mustWait (s : State) (pa : Nat) : Bool :=
  ((s.line? pa).map (·.sharers)).getD [] ≠ [] || s.pendingWrites.any fun w => w.line = lineOf pa

/-- R216, R218, R260: a store to one sector of device memory. The sector's old value stays readable by async operations, and the core's L1 copy
is given up. While copies of the line have not acknowledged, only the core itself sees it (R263, R265, R274). -/
def State.storeDev (s : State) (w : Writer) (pa : Nat) (data : List Byte) : State :=
  let p : PendingWrite := { uid := w.uid, core := w.core, own := false, lid := w.lid, ck := w.ck, line := lineOf pa, sharers := ((s.line? pa).map (·.sharers)).getD [], pa := pa, data := data }
  if !s.mustWait pa then s.land p
  else
    let s := s.modLine pa fun l => { l with sharers := [] }
    let s := match w.own, w.core with
      | true, some c => (s.noteOld (fun g => g.core = c) (s.blockOn c) (pa / 32) (s.sectorFor c pa)).modCore c fun k => dropL1 k (pa / 32)
      | _, _ => s
    { s with pendingWrites := s.pendingWrites ++ [{ p with own := w.own }] }

/-- R217, R218: a line that an atomic waits for gives up its copies. -/
def State.invalidate (s : State) (w : Writer) (pa : Nat) : State := s.storeDev { w with own := false } pa []

/-- R472: after a store of IMGST the group's sampler finds its bytes in each old value of the sector too; what else reads through the async proxy may
find the values from before it. `key` is the sector's, `old` its value before, and `put` the store. -/
def State.texStore (s : State) (gid key pa : Nat) (data : List Byte) (old : BitVec 256) (put : State → State) : State :=
  let overlay (l : List (Nat × BitVec 256)) : List (Nat × BitVec 256) := l.flatMap fun x =>
    if x.1 = key then [(texTag + key, x.2), (key, overSector (pa / 32 * 32) pa data x.2)] else [x]
  let mark (l : List (Nat × BitVec 256)) : List (Nat × BitVec 256) := l.map fun x => if x = (key, old) then (texTag + key, old) else x
  (put (s.modGroup gid fun g => { g with unfenced := overlay g.unfenced })).modGroup gid fun g => { g with unfenced := mark g.unfenced }

end Sys2Proof.Machine
end

