-- ==== Sys2Proof/Machine/Memory.lean ====
section
/-! DEFINITION. The memory instructions of OPs 0x40 to 0x45 but for LDLOD and LODQ: global, scratchpad, team and B-store accesses,
pins, atomics, fences and messages (R422-R434, R437-R442). -/
namespace Sys2Proof.Machine

/-! ### Addresses and threads (R423, R424) -/

/-- R325: bytes of a width code. -/
def widthBytes (ty : BitVec 4) : Nat := match ty.toNat with | 0 | 1 => 1 | 2 | 3 => 2 | 4 => 4 | 5 => 8 | _ => 16
/-- R425: the loads that extend the sign. -/
def widthSigned (ty : BitVec 4) : Bool := ty = 0 || ty = 2

/-- R423: a thread's global address, with or without an offset. -/
def Group.gaddr (g : Group) (f : F3) (off : Bool) (t : Nat) : DWord :=
  g.src64 f.a t + if off then BitVec.ofInt 64 (offB f * widthBytes f.ty) else 0
/-- R423: a thread's 32-bit offset. -/
def Group.laddr (g : Group) (f : F3) (off : Bool) (t : Nat) : Word :=
  g.src 0 f.a t + if off then BitVec.ofInt 32 (offB f * widthBytes f.ty) else 0

/-- One thread's access and how it goes. -/
structure ThreadAcc where
  t : Nat
  addr : DWord
  acc : Acc
  tlb : List Tlb := []
  deriving Repr

/-- R280, R281, R424: how each thread's access goes. -/
def State.classify (s : State) (ck : Nat) (k : Access) (w : Nat) (l : List (Nat × DWord)) : List ThreadAcc :=
  l.zipIdx.map fun (x, i) =>
    if x.2.toNat % w ≠ 0 then { t := x.1, addr := x.2, acc := .stop causeMisaligned none }
    else match s.access (s.freeCtr + seedsPerAccess * i) ck x.2 k with
      | (a, tl) => { t := x.1, addr := x.2, acc := a, tlb := tl }

/-- What the accesses leave behind: cached entries, used free values, and one record for each page whose walk failed (R206). -/
def State.afterThreads (s : State) (ck : Nat) (l : List ThreadAcc) : State :=
  let s := (s.keepTlb (l.flatMap (·.tlb)).eraseDups).skip (seedsPerAccess * l.length)
  let bad := l.filterMap fun a => match a.acc with | .stop c (some st2) => some (a.addr, c, st2) | _ => none
  let firsts := bad.zipIdx.filter fun (b, i) => !(bad.take i).any fun o => o.1.toNat / 4096 = b.1.toNat / 4096
  firsts.foldl (fun s x => s.logFault ck x.1.1 x.1.2.1 x.1.2.2) s

/-- R280: the cause of a trap of several threads, and the lowest thread that has it. -/
def firstCause (l : List ThreadAcc) : Option (Nat × DWord) :=
  [causeMisaligned, causeAccess, causePage, causePoison].findSome? fun c =>
    (l.find? fun a => match a.acc with | .stop d _ => d = c | _ => false).map fun a => (c, a.addr)

/-- R280, R210, R424: the trap, the park or the end of a per-thread instruction. `whole` stands for the group in a uniform access. -/
def State.settle (s : State) (e : Env) (l : List ThreadAcc) (whole : Option Mask) : State :=
  let undone := l.filter fun a => match a.acc with | .stop .. | .park .. => true | _ => false
  let mask := whole.getD (maskOf (undone.map (·.t)))
  match firstCause l with
  | some (c, a) => s.takeTrap e.gid { cause := c, pc := e.g.pc, mask := mask, addr := a, resume := true }
  | none => match undone with
    | [] => s.advance e.gid
    | a :: _ => s.park e.gid (some mask) a.addr (match a.acc with | .park ipa pri => if pri then none else some ipa | _ => none)

def Env.requester (e : Env) (va : DWord) (md : Nat) : Requester := { core := some e.g.core, ck := e.ck, va := va.toNat, ev := true, md := md }
/-- The group's ordinary writes pass its core's L1. -/
def Env.writer (e : Env) : Writer := { uid := e.g.uid, core := some e.g.core, own := true, lid := e.b.launch, ck := e.ck }

/-- The lines of the threads' device accesses reach their home slices, each once. -/
def State.touchAll (s : State) (e : Env) (md : Nat) (write : Bool) (l : List ThreadAcc) : State × List Nat :=
  let devs := l.filterMap fun a => match a.acc with | .dev pa unc => some (lineOf pa, pa, unc, a.addr) | _ => none
  let firsts := devs.zipIdx.filter fun (d, i) => !(devs.take i).any fun o => o.1 = d.1
  firsts.foldl (fun r x => match r.1.touch (e.requester x.1.2.2.2 md) x.1.2.1 x.1.2.2.1 write with | (s, fl) => (s, r.2 ++ fl)) (s, [])

/-- R246: the invocations that hold a line of the threads' device accesses. -/
def State.holdersOf (s : State) (l : List ThreadAcc) : List Nat :=
  (l.flatMap fun a => match a.acc with | .dev pa _ => s.holders pa | _ => []).eraseDups

/-! ### Effects on registers and memory (R406, R425, R437) -/

def setWordReg (r : Regs) (scalar : Bool) (key : Nat) (v : Word) : Regs :=
  if scalar then r.sset key v else { r with v := sset r.v key v }

/-- R425. -/
def extendLoad (signed : Bool) (l : List Byte) : Word :=
  let n := leNat l
  let w := 8 * l.length
  if signed && w < 32 && n ≥ 2 ^ (w - 1) then BitVec.ofNat 32 (2 ^ 32 + n - 2 ^ w) else BitVec.ofNat 32 n

/-- R437: the new value of an atomic of `w` bits. -/
def atomNew {w : Nat} (op : AtomOp) (old b c : BitVec w) : BitVec w :=
  let f (g : Word → Word → Word) : BitVec w := (g (old.setWidth 32) (b.setWidth 32)).setWidth w
  match op with
  | .add => old + b | .min => minS old b | .max => maxS old b | .minu => minU old b | .maxu => maxU old b
  | .and => old &&& b | .or => old ||| b | .xor => old ^^^ b | .xchg => b
  | .cas => if old = c then b else old
  | .fadd => f f32Add | .fmin => f f32Min | .fmax => f f32Max

/-- An atomic on a word or pair: the bytes written and the old value. -/
def atomBytes (op : AtomOp) (wide : Bool) (b c : DWord) (old : List Byte) : List Byte × DWord :=
  if wide then (leBytes 8 (atomNew op (word64 old) b c).toNat, word64 old)
  else (leBytes 4 (atomNew op (word32 old) (lo32 b) (lo32 c)).toNat, (word32 old).setWidth 64)

/-- The old value of an atomic goes to its register or pair. -/
def setOld (r : Regs) (key : Nat) (wide : Bool) (old : DWord) : Regs :=
  let r := setWordReg r false key (lo32 old)
  if wide then setWordReg r false (key + 128) (hi32 old) else r

/-- R425, R406: the register words that a load's bytes become. -/
def loadWords (scalar : Bool) (key : Nat) (signed : Bool) (l : List Byte) : List (Nat × Word) :=
  (List.range ((l.length + 3) / 4)).map fun k => (key + (if scalar then k else 128 * k), extendLoad signed ((l.drop (4 * k)).take 4))

def State.setWords (s : State) (gid : Nat) (scalar : Bool) (l : List (Nat × Word)) : State :=
  s.modGroup gid fun g => { g with regs := l.foldl (fun r x => setWordReg r scalar x.1 x.2) g.regs }

/-- The die that an effect goes to: its line's home (R203), or die 0 for the host (R9). -/
def RespItem.die : RespItem → Option Nat
  | .val .. => none
  | .dev _ _ pa .. | .store pa _ | .texel pa _ | .atom _ pa .. => some (homeDie pa)
  | .host .. => some 0

/-- R217, R246, R263, R267, R29: whether an effect must wait: one on a line that an awl holds, an atomic on a line with writes that have not landed, a
read at the home slice of a sector to which a write of the core has not landed, and what would cross the link while it retrains. `acq` says that the
instruction is an acquire that discards L1 lines. -/
def State.blocked (s : State) (core : Nat) (acq : Bool) (it : RespItem) : Bool :=
  (s.link.retraining && it.die.any (· ≠ s.dieOf core))
    || match it with
      | .atom _ pa .. => s.holders pa ≠ [] || s.pendingWrites.any fun w => w.line = lineOf pa
      | .store pa _ | .texel pa _ => s.holders pa ≠ []
      | .dev _ _ pa _ _ use =>
        s.holders pa ≠ [] || ((acq || use = .bypass) && s.pendingWrites.any fun w => w.own && w.core = some core && w.pa / 32 = pa / 32)
      | _ => false

/-- Who makes a group's ordinary writes. -/
def State.writerOf (s : State) (gid : Nat) : Writer :=
  match s.envOf gid 0 with
  | some e => e.writer
  | none => { uid := 0, core := some (coreOfGid gid), own := true, lid := 0, ck := 0 }

/-- One effect, when it happens; `seen` are the sectors that the instruction's other threads have read. -/
def State.perform (s : State) (gid : Nat) (seen : List Nat) (it : RespItem) : State :=
  let core := coreOfGid gid
  let w := s.writerOf gid
  match it with
  | .val sc key v => s.setWords gid sc [(key, v)]
  | .dev sc key pa n sg use => match s.l1Read core pa n use (seen.contains (pa / 32)) with | (s, l) => s.setWords gid sc (loadWords sc key sg l)
  | .host sc key a n sg => s.setWords gid sc (loadWords sc key sg (bytesAt s.hostMem a n))
  | .store pa data => s.storeDev w pa data
  | .texel pa data => s.texStore gid (pa / 32) pa data (s.sectorFor core pa) fun s => s.storeDev w pa data
  | .atom key pa op wide b c =>
    match atomBytes op wide b c (s.readMem pa (if wide then 8 else 4)) with
    | (new, old) => (s.storeDev { w with own := false } pa new).modGroup gid fun g => { g with regs := setOld g.regs key wide old }

/-- R217, R218: an effect that has become possible happens, or it stays: an atomic waits until the copies of its line have acknowledged. -/
def State.tryItem (s : State) (gid : Nat) (acq : Bool) (seen : List Nat) (it : RespItem) : State × Bool :=
  if s.blocked (coreOfGid gid) acq it then (s, false)
  else match it with
    | .atom _ pa .. => if s.mustWait pa then (s.invalidate (s.writerOf gid) pa, false) else (s.perform gid seen it, true)
    | _ => (s.perform gid seen it, true)

/-- Every effect of an instruction that need not wait, in order; answers those that are left. -/
def State.performAll (s : State) (gid : Nat) (acq : Bool) (seen : List Nat) : List RespItem → State × List RespItem
  | [] => (s, [])
  | it :: rest =>
    match s.tryItem gid acq seen it with
    | (s, true) => s.performAll gid acq (match it with | .dev _ _ pa .. => pa / 32 :: seen | _ => seen) rest
    | (s, false) => match s.performAll gid acq seen rest with | (s, l) => (s, it :: l)

/-- What an instruction's waiting effects come to: one that is an acquire discards the core's L1 lines whenever values of it return (R216, R264). -/
def State.tryResp (s : State) (gid : Nat) (r : Resp) : State × Option Resp :=
  let s := if r.acq then s.acquire (coreOfGid gid) 4 else s
  match (if r.ord then s.modGroup gid Group.acquired else s).performAll gid r.acq [] r.items with
  | (s, []) => (s, none)
  | (s, left) => (s, some { r with items := left })

/-- R244, R406: effects that wait for the data or for a FILL invocation stand in the group's list, others happen at once. -/
def State.issueItems (s : State) (gid : Nat) (hold : Bool) (r : Resp) : State :=
  if r.items = [] && !r.ord then s
  else if hold || r.fills ≠ [] then s.modGroup gid fun g => { g with resps := g.resps ++ [r] }
  else match s.tryResp gid r with
    | (s, none) => s
    | (s, some r) => s.modGroup gid fun g => { g with resps := g.resps ++ [r] }

/-- R406: the first waiting effects of a group happen, unless a FILL invocation holds them (MEMORY_RESPONSE). -/
def State.respond (s : State) (gid : Nat) : State :=
  match kget s.groups gid with
  | none => s
  | some g => match g.resps with
    | [] => s
    | r :: rest =>
      if r.fills ≠ [] then s
      else match (s.modGroup gid fun g => { g with resps := rest }).tryResp gid r with
        | (s, none) => s
        | (s, some r) => s.modGroup gid fun g => { g with resps := r :: g.resps }

/-! ### Global loads and stores (R427-R429) -/

/-- R216: what MD and the page make of the L1. -/
def l1Use (md : BitVec 3) (unc : Bool) : L1Use := if unc || md = 3 then .bypass else if md = 1 then .look else .allocate

/-- R257: an order of acquire, and one at a scope that discards L1 lines. -/
def acqOrder (f : F3) : Bool := ordOf f = 1 || ordOf f = 3
def acquires (f : F3) : Bool := acqOrder f && scopeOf f ≥ 2

/-- The read of one thread's device or host access (R258). -/
def loadItem (f : F3) (scalar : Bool) (key : Nat) (acc : Acc) : Option RespItem :=
  match acc with
  | .dev pa unc => some (.dev scalar key pa (widthBytes f.ty) (widthSigned f.ty) (l1Use f.md unc))
  | .host a => some (.host scalar key a (widthBytes f.ty) (widthSigned f.ty))
  | _ => none

/-- R427, R428: a load of the threads listed. -/
def State.load (s : State) (e : Env) (f : F3) (scalar : Bool) (l : List (Nat × DWord)) : State :=
  let acc := s.classify e.ck .read (widthBytes f.ty) l
  let s := s.afterThreads e.ck acc
  match s.touchAll e f.md.toNat false acc with
  | (s, fills) =>
    let items := acc.filterMap fun a => loadItem f scalar (if scalar then regOf f.d else 128 * regOf f.d + a.t) a.acc
    ((s.countFree e.gid 11).countFree e.gid 12).issueItems e.gid true { items := items, fills := fills, acq := acquires f, ord := acqOrder f }
      |>.settle e acc (if scalar then some e.g.live else none)

/-- R425: the bytes a thread stores. -/
def Group.storeData (g : Group) (f : F3) (t : Nat) : List Byte :=
  ((List.range (memRegs f.ty)).flatMap fun k => leBytes 4 (g.srcAt f.d t k).toNat).take (widthBytes f.ty)

/-- R426: where several threads store to one location, it ends with the value of one of them. -/
def winners {α : Type} [DecidableEq α] (seed : Nat) (l : List (Nat × α)) : List (Nat × α) :=
  (l.zipIdx.filter fun (x, i) => !(l.take i).any fun o => o.1 = x.1).map fun (x, i) =>
    (x.1, oneOf (seed + i) x.2 ((l.filter fun o => o.1 = x.1).map (·.2)))

/-- R427, R428, R429: a store of the threads listed. -/
def State.store (s : State) (e : Env) (f : F3) (whole : Bool) (l : List (Nat × DWord)) : State :=
  if ordOf f = 2 && scopeOf f ≥ 2 && s.writesPending e.g.uid then s.waitAt e.gid .writes
  else
    let acc := s.classify e.ck .write (widthBytes f.ty) l
    let s := s.afterThreads e.ck acc
    match s.touchAll e f.md.toNat true acc with
    | (s, fills) =>
      let devs := acc.filterMap fun a => match a.acc with | .dev pa _ => some (pa, e.g.storeData f a.t) | _ => none
      let hosts := acc.filterMap fun a => match a.acc with | .host k => some (k, e.g.storeData f a.t) | _ => none
      let items := (winners s.freeCtr devs).map fun x => RespItem.store x.1 x.2
      let hw := winners (s.freeCtr + 128) hosts
      let s := hw.foldl (fun s x => s.writeHost x.1 x.2) s
      (((s.skip 256).countFree e.gid 12).issueItems e.gid false { items := items, fills := fills }).settle e acc (if whole then some e.g.live else none)

/-- The predicated threads with their global addresses. -/
def Group.gthreads (g : Group) (f : F3) (off : Bool) : List (Nat × DWord) :=
  (bitsOf (g.pred f.pm.toNat)).map fun t => (t, g.gaddr f off t)

/-- LDG (R427). -/
def execLdg (f : F3) (s : State) : Outcome := withF3 (ldgSheet f) f s fun e s => s.load e f false (e.g.gthreads f true)
/-- STG (R427). -/
def execStg (f : F3) (s : State) : Outcome := withF3 (stgSheet f) f s fun e s => s.store e f false (e.g.gthreads f true)
/-- LDGS (R428). -/
def execLdgs (f : F3) (s : State) : Outcome := withF3 (ldgsSheet f) f s fun e s => s.load e f true [(0, e.g.gaddr f true 0)]
/-- STGS (R428). -/
def execStgs (f : F3) (s : State) : Outcome := withF3 (stgsSheet f) f s fun e s => s.store e f true [(0, e.g.gaddr f true 0)]

/-! ### Pinning and flushing (R433, R434) -/

/-- R433: the lines of the threads, one after another, in ascending order of the lowest thread that names each, with the status each thread gets and
the FILL invocations met. -/
def lineStatuses (s : State) (acc : List ThreadAcc) (op : State → Nat → DWord → State × Nat × List Nat) : State × List (Nat × Nat) × List Nat :=
  acc.foldl (fun (r : State × List (Nat × Nat) × List Nat) a =>
    let put (n : Nat) : State × List (Nat × Nat) × List Nat := (r.1, r.2.1 ++ [(a.t, n)], r.2.2)
    match a.acc with
    | .dev pa unc =>
      if unc then put 4
      else match (acc.take (acc.findIdx fun o => o.t = a.t)).find? fun o => match o.acc with | .dev p u => !u && lineOf p = lineOf pa | _ => false with
        | some o => put (((r.2.1.find? fun x => x.1 = o.t).map (·.2)).getD 0)
        | none => match op r.1 pa a.addr with | (s, st, fl) => (s, r.2.1 ++ [(a.t, st)], r.2.2 ++ fl)
    | .host _ => put 4
    | _ => r) (s, [], [])

/-- R433: an instruction that pins or unpins; it waits for a line that an awl holds (R246), and for the FILL invocations of the lines that it
fills (R244). -/
def pinLike (sh : Sheet) (f : F3) (s : State) (op : Env → State → Nat → DWord → State × Nat × List Nat) : Outcome :=
  withF3 sh f s fun e s =>
    let acc := s.classify e.ck .read 1 (e.g.gthreads f true)
    if s.holdersOf acc ≠ [] then s.waitAt e.gid (.fills (s.holdersOf acc))
    else match lineStatuses (s.afterThreads e.ck acc) acc (op e) with
      | (s, st, fills) =>
        ((s.countFree e.gid 12).issueItems e.gid false
          { items := st.map fun x => .val false (128 * regOf f.d + x.1) (BitVec.ofNat 32 x.2), fills := fills }).settle e acc none

/-- PIN (R433): fills each line when it is absent, and pins it. -/
def execPin (f : F3) (s : State) : Outcome :=
  pinLike (pinSheet f) f s fun e s pa va => match s.touch (e.requester va 0) pa false false with
    | (s, fl) => match s.pinLine e.ck pa with | (s, n) => (s, n, fl)
/-- UNPIN (R433). -/
def execUnpin (f : F3) (s : State) : Outcome :=
  pinLike (pinSheet f) f s fun e s pa _ => match s.unpinLine e.ck pa with | (s, n) => (s, n, [])

/-- R434: what CFLUSH does to one line: copies and the core's L1 copy go, and an unpinned line leaves its home slice. -/
def State.flushLine (s : State) (core pa : Nat) : State :=
  let s := s.modCore core fun c => { c with l1 := c.l1.filter fun e => e.1 / 4 ≠ lineOf pa }
  match s.line? pa with
  | none => s
  | some l =>
    if l.pins = [] then { s with lines := kdel s.lines (lineOf pa) }
    else s.modLine pa fun l => { l with dirty := false, sharers := [] }

/-- CFLUSH (R434). -/
def execCflush (f : F3) (s : State) : Outcome :=
  withF3 (cflushSheet f) f s fun e s =>
    let acc := s.classify e.ck .read 1 (e.g.gthreads f true)
    if s.holdersOf acc ≠ [] then s.waitAt e.gid (.fills (s.holdersOf acc))
    else
      let s := acc.foldl (fun s a => match a.acc with | .dev pa false => s.flushLine e.g.core pa | _ => s) (s.afterThreads e.ck acc)
      (s.countFree e.gid 12).settle e acc none

/-! ### Scratchpad, team and B-store (R190, R191, R430-R432) -/

/-- Where a scratchpad access goes: the block whose allocation it is, or a core's segment scratchpad (R143). -/
inductive SpmAt
  | block (id : Nat)
  | segment (core : Nat)
  deriving DecidableEq, Repr

/-- R189, R191: the bytes at an offset; a byte that nothing has written since the block started is a free value (log 9). -/
def State.spmRead (s : State) (a : SpmAt) (off n : Nat) : List Byte :=
  match a with
  | .block id => match kget s.blocks id with
    | some b => (List.range n).map fun i => (kget b.spm (off + i)).getD (Config.spmInitial id (off + i))
    | none => List.replicate n 0
  | .segment c => match (s.core c).pinned with
    | some p => bytesAt p.spm off n
    | none => List.replicate n 0

/-- R260, R463: the bytes as a reader finds them that may see old values: of each sector the present one or one of those under the keys given. -/
def State.spmSeen (s : State) (seed : Nat) (unf : List (Nat × BitVec 256)) (keys : List (Nat → Nat)) (a : SpmAt) (off n : Nat) : List Byte :=
  if unf = [] then s.spmRead a off n
  else (List.range n).map fun i =>
    (asyncSector seed unf (keys.map fun k => k (off + i)) (sectorBits (s.spmRead a ((off + i) / 32 * 32) 32))).extractLsb' (8 * ((off + i) % 32)) 8

/-- R430, R463: what a load of a group finds. Where an MST of the group has written, each sector may still hold its old value until the MWAIT. -/
def State.spmLoad (s : State) (e : Env) (a : SpmAt) (off n : Nat) : List Byte :=
  s.spmSeen s.freeCtr (if a = .block e.g.block then e.g.unfenced.filter mstEntry else []) [mstKey] a off n

def State.spmWriteRaw (s : State) (a : SpmAt) (off : Nat) (l : List Byte) : State :=
  match a with
  | .block id => s.modBlock id fun b => { b with spm := l.zipIdx.foldl (fun m e => kset m (off + e.2) e.1) b.spm }
  | .segment c => s.modCore c fun k => { k with pinned := k.pinned.map fun p => { p with spm := setBytes p.spm off l } }

/-- An ordinary write to a scratchpad (R260). -/
def State.spmWrite (s : State) (uid : Nat) (a : SpmAt) (off : Nat) (l : List Byte) : State :=
  let old := sectorBits (s.spmRead a (off / 32 * 32) 32)
  let s := match a with
    | .block id => s.noteOld (fun g => g.block = id && g.uid ≠ uid) (· = id) (spmKey off) old
    | .segment c => s.noteOld (fun g => g.core = c && g.uid ≠ uid) (s.blockOn c) (spmKey off) old
  let mine (g : Group) : Bool := g.uid = uid && match a with | .block id => g.block = id | .segment c => g.core = c
  (s.noteOld mine (fun _ => false) (ownKey off) old).spmWriteRaw a off l

/-- R430, R143: the group's own scratchpad and its size. -/
def Env.ownSpm (e : Env) : SpmAt × Nat := if e.travel then (.segment e.g.core, e.l.recd.spm) else (.block e.g.block, e.b.spmSize)

/-- R191, R431: the scratchpad and offset that a team-remote address names; none beyond the team or with another bit set. -/
def State.teamSpm (s : State) (e : Env) (a : Word) : Option (SpmAt × Nat × Nat) :=
  let rank := (a.extractLsb' 20 2).toNat
  let off := (a.extractLsb' 0 18).toNat
  if a.extractLsb' 22 10 ≠ 0 || a.extractLsb' 18 2 ≠ 0 then none
  else if e.travel then (if rank = 0 then some (.segment e.g.core, e.l.recd.spm, off) else none)
  else (s.blocks.find? fun x => x.2.launch = e.b.launch && x.2.team = e.b.team && x.2.rank = rank).map fun x =>
    (.block x.1, x.2.spmSize, off)

/-- One thread's local access: where, or its cause. -/
structure LocalAcc where
  t : Nat
  addr : Word
  at_ : Option (SpmAt × Nat)
  cause : Nat := 0
  deriving Repr

/-- R430, R431: alignment first, then the bounds. -/
def localAcc (w t : Nat) (addr : Word) (r : Option (SpmAt × Nat × Nat)) : LocalAcc :=
  if addr.toNat % w ≠ 0 then { t := t, addr := addr, at_ := none, cause := causeMisaligned }
  else match r with
    | none => { t := t, addr := addr, at_ := none, cause := causeAccess }
    | some (a, size, off) =>
      if off + w > size then { t := t, addr := addr, at_ := none, cause := causeAccess } else { t := t, addr := addr, at_ := some (a, off) }

def localThreads (l : List LocalAcc) : List ThreadAcc :=
  l.filterMap fun a => if a.at_.isNone then some { t := a.t, addr := a.addr.setWidth 64, acc := .stop a.cause none } else none

/-- How every predicated thread of a local access goes. -/
def State.localAll (s : State) (e : Env) (f : F3) (team : Bool) (off : Bool) : List LocalAcc :=
  (bitsOf (e.g.pred f.pm.toNat)).map fun t =>
    let a := e.g.laddr f off t
    localAcc (widthBytes f.ty) t a (if team then s.teamSpm e a else some (e.ownSpm.1, e.ownSpm.2, a.toNat))

/-- The registers a local load writes. -/
def State.localLoad (s : State) (e : Env) (f : F3) (l : List (Nat × List Byte)) : State :=
  let n := min 4 (widthBytes f.ty)
  let ws := l.flatMap fun x => (List.range (memRegs f.ty)).map fun k =>
    (128 * (regOf f.d + k) + x.1, extendLoad (widthSigned f.ty) ((x.2.drop (4 * k)).take n))
  s.modGroup e.gid fun g => { g with regs := { g.regs with v := ssets g.regs.v ws } }

def ldLocal (team : Bool) (f : F3) (s : State) : Outcome :=
  withF3 (ldLocalSheet f) f s fun e s =>
    if team && e.travel then s.illegalOperand e
    else
      let s := if ordOf f = 1 then s.acquireBy e.gid e.g.core (scopeOf f) else s
      let acc := s.localAll e f team true
      let vals := acc.filterMap fun a => a.at_.map fun (p, o) => (a.t, s.spmLoad e p o (widthBytes f.ty))
      ((((s.skip 1).localLoad e f vals)).countFree e.gid 10).settle e (localThreads acc) none

/-- R191: a thread beyond the bounds of a scratchpad, which keeps every thread of the instruction from changing it (log 23). -/
def localBad (l : List LocalAcc) : Bool := l.any fun a => a.at_.isNone && a.cause = causeAccess
/-- R191: the threads that trap are then those with a cause. -/
def LocalAcc.acts (a : LocalAcc) (l : List LocalAcc) : Option (SpmAt × Nat) := if localBad l then none else a.at_

/-- R426, R430, R191. -/
def stLocal (team : Bool) (f : F3) (s : State) : Outcome :=
  withF3 (stLocalSheet f) f s fun e s =>
    if team && e.travel then s.illegalOperand e
    else if ordOf f = 2 && scopeOf f ≥ 2 && s.writesPending e.g.uid then s.waitAt e.gid .writes
    else
      let acc := s.localAll e f team true
      let tgt (p : SpmAt) : Nat := match p with | .block id => id | .segment c => c
      let ws := acc.filterMap fun a => (a.acts acc).map fun (p, o) => (2 ^ 20 * tgt p + o, p, e.g.storeData f a.t)
      let ws := winners s.freeCtr (ws.map fun x => (x.1, x.2))
      let s := ws.foldl (fun s x => s.spmWrite e.g.uid x.2.1 (x.1 % 2 ^ 20) x.2.2) (s.skip 128)
      (s.countFree e.gid 10).settle e (localThreads acc) none

/-- LDS (R430). -/
def execLds (f : F3) (s : State) : Outcome := ldLocal false f s
/-- STS (R430). -/
def execSts (f : F3) (s : State) : Outcome := stLocal false f s
/-- LDT (R431). -/
def execLdt (f : F3) (s : State) : Outcome := ldLocal true f s
/-- STT (R431). -/
def execStt (f : F3) (s : State) : Outcome := stLocal true f s

/-- R432: the B-store's flat address is 131,072 times the slice plus the offset, which is the address itself. -/
def bstoreAcc (w t : Nat) (addr : Word) : LocalAcc :=
  localAcc w t addr (if addr.extractLsb' 22 10 = 0 then some (.block 0, 2 ^ 22, addr.toNat) else none)

def State.bstoreAll (e : Env) (f : F3) : List LocalAcc :=
  (bitsOf (e.g.pred f.pm.toNat)).map fun t => bstoreAcc (widthBytes f.ty) t (e.g.laddr f true t)

/-- R194: whether the group's block owns the matrix array. -/
def Env.ownsMatrix (e : Env) : Bool := e.b.matrix

/-- LDB (R432). -/
def execLdb (f : F3) (s : State) : Outcome :=
  withF3 (ldLocalSheet f) f s fun e s =>
    if !e.ownsMatrix then s.trapWord e causeMatrixOwner
    else
      let s := if ordOf f = 1 then s.acquireBy e.gid e.g.core (scopeOf f) else s
      let acc := State.bstoreAll e f
      let vals := acc.filterMap fun a => a.at_.map fun (_, o) => (a.t, bytesAt (s.core e.g.core).bstore o (widthBytes f.ty))
      (s.localLoad e f vals).settle e (localThreads acc) none
/-- STB (R432): an ordinary write. -/
def execStb (f : F3) (s : State) : Outcome :=
  withF3 (stLocalSheet f) f s fun e s =>
    if !e.ownsMatrix then s.trapWord e causeMatrixOwner
    else if ordOf f = 2 && scopeOf f ≥ 2 && s.writesPending e.g.uid then s.waitAt e.gid .writes
    else
      let acc := State.bstoreAll e f
      let ws := winners s.freeCtr (acc.filterMap fun a => a.at_.map fun (_, o) => (o, e.g.storeData f a.t))
      let put (s : State) (o : Nat) (l : List Byte) : State :=
        let s := s.noteOld (fun g => g.block = e.g.block) (· = e.g.block) (bstoreKey o) (sectorBits (bytesAt (s.core e.g.core).bstore (o / 32 * 32) 32))
        s.modCore e.g.core fun c => { c with bstore := setBytes c.bstore o l }
      (ws.foldl (fun s x => put s x.1 x.2) (s.skip 128)).settle e (localThreads acc) none

/-! ### Atomics (R437-R439) -/

/-- R257: the waits and discards that an atomic's order asks for; true while it must wait. -/
def State.atomWaits (s : State) (e : Env) (f : F3) : Bool :=
  (ordOf f = 2 || ordOf f = 3) && scopeOf f ≥ 2 && s.writesPending e.g.uid
def State.atomAcquire (s : State) (e : Env) (f : F3) : State := if acqOrder f then s.acquireBy e.gid e.g.core (scopeOf f) else s

/-- R319: constants are f32 for the float atomics (log 24). -/
def atomTy (op : AtomOp) : Nat := match op with | .fadd | .fmin | .fmax => 8 | _ => 0

/-- The data and compare operands of a thread. -/
def Group.atomData (g : Group) (op : AtomOp) (f : F3) (t : Nat) : DWord :=
  if f.ty = 5 then g.src64 f.b t else (g.src (atomTy op) f.b t).setWidth 64
def Group.atomCompare (g : Group) (f : F3) (t : Nat) : DWord :=
  if f.ty = 5 then pair64 (g.regs.vget (regOf f.d) t) (g.regs.vget (regOf f.d + 1) t) else (g.regs.vget (regOf f.d) t).setWidth 64

/-- R438: the operations that a PCIe completer performs. -/
def hostAtomic (op : AtomOp) : Bool := op = .add || op = .xchg || op = .cas

/-- R437, R438: a global atomic. A host page takes FetchAdd, Swap and CAS, each of which may fail to complete (log 15), and refuses the rest. -/
def atomg (tys : List Nat) (op : AtomOp) (f : F3) (s : State) : Outcome :=
  withF3 (atomgSheet tys f) f s fun e s =>
    if s.atomWaits e f then s.waitAt e.gid .writes
    else
      let acc := s.classify e.ck .atomic (widthBytes f.ty) (e.g.gthreads f false)
      let s := s.afterThreads e.ck acc
      let acc := acc.map fun a => match a.acc with
        | .host _ => if hostAtomic op && Config.freeBool (2 ^ 70 + 128 * s.freeCtr + a.t) then a else { a with acc := .stop causeAccess none }
        | _ => a
      match s.touchAll e f.md.toNat true acc with
      | (s, fills) =>
        let wide := f.ty = 5
        let hosts := acc.filterMap fun a => match a.acc with | .host k => some (a.t, k) | _ => none
        let s := hosts.foldl (fun s x =>
          match atomBytes op wide (e.g.atomData op f x.1) (e.g.atomCompare f x.1) (bytesAt s.hostMem x.2 (widthBytes f.ty)) with
          | (new, old) => (s.writeHost x.2 new).modGroup e.gid fun g =>
              { g with regs := setOld g.regs (128 * regOf f.d + x.1) wide old }) s
        let items := acc.filterMap fun a => match a.acc with
          | .dev pa _ => some (RespItem.atom (128 * regOf f.d + a.t) pa op wide (e.g.atomData op f a.t) (e.g.atomCompare f a.t))
          | _ => none
        ((s.countFree e.gid 12).issueItems e.gid false { items := items, fills := fills, acq := acquires f, ord := acqOrder f }).settle e acc none

/-- R439: a scratchpad atomic; its address is in team-remote form. -/
def atoms (op : AtomOp) (f : F3) (s : State) : Outcome :=
  withF3 (atomsSheet f) f s fun e s =>
    if e.travel && (bitsOf (e.g.pred f.pm.toNat)).any fun t => ((e.g.laddr f false t).extractLsb' 20 2) ≠ 0 then
      s.takeTrap e.gid
        { cause := causeIllegalOperand, pc := e.g.pc, addr := e.word
          mask := maskOf ((bitsOf (e.g.pred f.pm.toNat)).filter fun t => ((e.g.laddr f false t).extractLsb' 20 2) ≠ 0) }
    else if s.atomWaits e f then s.waitAt e.gid .writes
    else
      let s := s.atomAcquire e f
      let acc := s.localAll e f true false
      let s := acc.foldl (fun s a => match a.acts acc with
        | none => s
        | some (p, o) =>
          match atomBytes op false (e.g.atomData op f a.t) (e.g.atomCompare f a.t) (s.spmRead p o 4) with
          | (new, old) => (s.spmWrite e.g.uid p o new).modGroup e.gid fun g => { g with regs := setOld g.regs (128 * regOf f.d + a.t) false old }) s
      (s.countFree e.gid 10).settle e (localThreads acc) none

/-- AADD_G (R437, R438). -/
def execAaddG (f : F3) (s : State) : Outcome := atomg [4, 5] .add f s
/-- AMIN_G (R437, R438). -/
def execAminG (f : F3) (s : State) : Outcome := atomg [4, 5] .min f s
/-- AMAX_G (R437, R438). -/
def execAmaxG (f : F3) (s : State) : Outcome := atomg [4, 5] .max f s
/-- AMINU_G (R437, R438). -/
def execAminuG (f : F3) (s : State) : Outcome := atomg [4, 5] .minu f s
/-- AMAXU_G (R437, R438). -/
def execAmaxuG (f : F3) (s : State) : Outcome := atomg [4, 5] .maxu f s
/-- AAND_G (R437, R438). -/
def execAandG (f : F3) (s : State) : Outcome := atomg [4, 5] .and f s
/-- AOR_G (R437, R438). -/
def execAorG (f : F3) (s : State) : Outcome := atomg [4, 5] .or f s
/-- AXOR_G (R437, R438). -/
def execAxorG (f : F3) (s : State) : Outcome := atomg [4, 5] .xor f s
/-- AXCHG_G (R437, R438). -/
def execAxchgG (f : F3) (s : State) : Outcome := atomg [4, 5] .xchg f s
/-- ACAS_G (R437, R438). -/
def execAcasG (f : F3) (s : State) : Outcome := atomg [4, 5] .cas f s
/-- AFADD_G (R437, R438). -/
def execAfaddG (f : F3) (s : State) : Outcome := atomg [4] .fadd f s
/-- AFMIN_G (R437, R438). -/
def execAfminG (f : F3) (s : State) : Outcome := atomg [4] .fmin f s
/-- AFMAX_G (R437, R438). -/
def execAfmaxG (f : F3) (s : State) : Outcome := atomg [4] .fmax f s
/-- AADD_S (R437, R439). -/
def execAaddS (f : F3) (s : State) : Outcome := atoms .add f s
/-- AMIN_S (R437, R439). -/
def execAminS (f : F3) (s : State) : Outcome := atoms .min f s
/-- AMAX_S (R437, R439). -/
def execAmaxS (f : F3) (s : State) : Outcome := atoms .max f s
/-- AMINU_S (R437, R439). -/
def execAminuS (f : F3) (s : State) : Outcome := atoms .minu f s
/-- AMAXU_S (R437, R439). -/
def execAmaxuS (f : F3) (s : State) : Outcome := atoms .maxu f s
/-- AAND_S (R437, R439). -/
def execAandS (f : F3) (s : State) : Outcome := atoms .and f s
/-- AOR_S (R437, R439). -/
def execAorS (f : F3) (s : State) : Outcome := atoms .or f s
/-- AXOR_S (R437, R439). -/
def execAxorS (f : F3) (s : State) : Outcome := atoms .xor f s
/-- AXCHG_S (R437, R439). -/
def execAxchgS (f : F3) (s : State) : Outcome := atoms .xchg f s
/-- ACAS_S (R437, R439). -/
def execAcasS (f : F3) (s : State) : Outcome := atoms .cas f s
/-- AFADD_S (R437, R439). -/
def execAfaddS (f : F3) (s : State) : Outcome := atoms .fadd f s
/-- AFMIN_S (R437, R439). -/
def execAfminS (f : F3) (s : State) : Outcome := atoms .fmin f s
/-- AFMAX_S (R437, R439). -/
def execAfmaxS (f : F3) (s : State) : Outcome := atoms .fmax f s

/-! ### Fences (R440, R441) -/

/-- FENCE (R440, R257). -/
def execFence (f : F3) (s : State) : Outcome :=
  withF3 (fenceSheet f) f s fun e s =>
    if s.atomWaits e f then s.waitAt e.gid .writes else (s.atomAcquire e f).advance e.gid
/-- AFENCE (R441, R260): what a copy or an MST wrote is not covered (R463). -/
def execAfence (f : F3) (s : State) : Outcome :=
  withF3 (afenceSheet f) f s fun e s => s.modGroup e.gid fun g => { g with unfenced := g.unfenced.filter fun x => !afenced x }.advance

/-! ### Messages (R442, R252, R253) -/

/-- R442: the messages of the predicated threads with canonical addresses, after a device-scope release. -/
def State.sendMessages (s : State) (e : Env) (f : F3) (reply : Nat → ReplyTo) : State × List (Nat × DWord) :=
  let l := e.g.gthreads f false
  let ok := l.filter fun x => canonical x.2
  let msgs : List AwlMsg := ok.map fun x => { ctx := e.ck, va := x.2, payload := e.g.src 0 f.b x.1, fwd := 0, reply := reply x.1, die := s.dieOf e.g.core }
  ({ s with awlMsgs := s.awlMsgs ++ msgs }, l.filter fun x => !canonical x.2)

def badThreads (l : List (Nat × DWord)) : List ThreadAcc := l.map fun x => { t := x.1, addr := x.2, acc := .stop causeAccess none }

/-- AMSG (R442). -/
def execAmsg (f : F3) (s : State) : Outcome :=
  withF3 (amsgSheet f) f s fun e s =>
    if s.writesPending e.g.uid then s.waitAt e.gid .writes
    else match s.sendMessages e f fun _ => .discard with
      | (s, bad) => s.settle e (badThreads bad) none

/-- AMSGW (R442): waits for the replies of the threads it sent, and only then traps for the others. -/
def execAmsgw (f : F3) (s : State) : Outcome :=
  withF3 (amsgwSheet f) f s fun e s =>
    if s.writesPending e.g.uid then s.waitAt e.gid .writes
    else match s.sendMessages e f (ReplyTo.thread e.g.uid) with
      | (s, bad) =>
        let sent := maskOf (((e.g.gthreads f false).filter fun x => canonical x.2).map (·.1))
        if sent = 0 then s.settle e (badThreads bad) none
        else
          let later := match bad with | [] => none | x :: _ => some (maskOf (bad.map (·.1)), x.2)
          (s.waitAt e.gid .replies).modGroup e.gid fun g =>
            { g with awl := some { dst := regOf f.d, sent := sent, owed := sent, later := later } }

/-- R442: once every reply has arrived they are written, and the threads that could not send trap. -/
def State.finishReplies (s : State) (gid : Nat) : State :=
  match kget s.groups gid with
  | none => s
  | some g => match g.awl with
    | none => s
    | some w =>
      if w.owed ≠ 0 then s
      else
        let vs := w.got.flatMap fun x => [(128 * w.dst + x.1, x.2.1), (128 * (w.dst + 1) + x.1, x.2.2)]
        let s := s.modGroup gid fun g => { g with awl := none, regs := { g.regs with v := ssets g.regs.v vs } }
        let s := s.acquireBy gid g.core 4
        match w.later with
        | some (m, a) => s.takeTrap gid { cause := causeAccess, pc := g.pc, mask := m, addr := a, resume := true }
        | none => s.advance gid

/-- MEMORY_RESPONSE (R406). -/
def execMemoryResponse (gid : Nat) (s : State) : Outcome := .next (s.respond gid)

end Sys2Proof.Machine
end

