-- ==== Sys2Proof/Machine/Awl.lean ====
section
/-! DEFINITION. The awls: RV32IMAC with Zicsr, the cache-side instructions, invocations, messages and replies (R239-R254). The base
instructions mean what the RISC-V unprivileged specification says, which the manual names and does not repeat (log 12). -/
namespace Sys2Proof.Machine

/-! ### The running invocation -/

/-- The awl that executes, and its invocation; `before` is the state in which its instruction began. -/
structure AwlEnv where
  slice : Nat
  a : Awl
  r : AwlRun
  before : State

/-- The requester number of an awl's own writes (R218). -/
def awlUid (slice : Nat) : Nat := 2 ^ 50 + slice

/-- R252: one reply to a message, from a die; nobody waits for that of an AMSG. -/
def State.sendReply (s : State) (die : Nat) (dest : ReplyTo) (value status : Word) : State :=
  match dest with
  | .discard => s
  | .thread uid t => { s with awlReplies := s.awlReplies ++ [{ uid := uid, t := t, value := value, status := status, die := die }] }

/-- An invocation holds a group no longer. -/
def Group.release (g : Group) (id : Nat) : Group :=
  { g with
    resps := g.resps.map fun r => { r with fills := r.fills.filter (· ≠ id) }
    waitFor := (match g.waitFor with
      | .fills l => .fills (l.filter (· ≠ id))
      | .fetch l => .fetch (l.filter (· ≠ id))
      | o => o) }

def Copy.release (c : Copy) (id : Nat) : Copy := { c with fills := c.fills.filter (· ≠ id) }

/-- A fixed-function access that an invocation holds goes on (R509). -/
def GfxSt.release (g : GfxSt) (id : Nat) : GfxSt :=
  { g with waits := (g.waits.map fun w => match w.why with | .fills l => { w with why := .fills (l.filter (· ≠ id)) } | _ => w).filter fun w => w.why ≠ .fills [] }
def Launch.release (l : Launch) (id : Nat) : Launch := match l.kind with | .gfx g => { l with kind := .gfx (g.release id) } | _ => l

/-- R244, R254: an invocation is over: what it held goes on. -/
def State.endInvocation (s : State) (slice id : Nat) : State :=
  let s := s.modAwl slice fun a => { a with run := none, resv := none }
  { s with heldLines := s.heldLines.filter fun e => e.2 ≠ slice
           groups := kmapAll s.groups fun _ g => g.release id
           launches := kmapAll s.launches fun _ l => l.release id
           cores := kmapAll s.cores fun _ c => { c with copyq := c.copyq.map fun o => o.release id } }

/-- The reply that an invocation still owes, if any. -/
def AwlRun.replyTo (r : AwlRun) : Option ReplyTo := if r.owed then r.ev.reply else none

def abortBudget : Nat := 1
def abortException : Nat := 2
def abortSandbox : Nat := 3
def abortPoison : Nat := 4

/-- R251: the abort block after an abort. -/
def abortBlock (cause : Nat) (r : AwlRun) (pc : Nat) (l : List Byte) : List Byte :=
  patch (patch (patch (patch (bumpWord l 0) 8 [BitVec.ofNat 8 cause]) 9 [BitVec.ofNat 8 r.ev.code]) 12 (leBytes 4 pc)) 16 (leBytes 8 r.ev.va.toNat)

/-- R250: an abort: the default action of the event, then the abort block. -/
def State.abortAwl (s : State) (e : AwlEnv) (cause : Nat) : State :=
  let s := match e.r.replyTo with | some dest => s.sendReply (e.slice / 24) dest 0 1 | none => s
  let s := s.endInvocation e.slice e.r.ev.id
  match kget (s.ctx e.r.ev.ctx).windows e.r.ev.window with
  | some w => s.updateAbortBlock e.r.ev.ctx w.logaddr (abortBlock cause e.r e.a.pc)
  | none => s

/-- The meaning of an instruction of an awl. -/
def asAwl (s : State) (body : AwlEnv → State → State) : Outcome :=
  match s.cur with
  | .awl n => match (s.awl n).run with
    | some r => .next (body { slice := n, a := s.awl n, r := r, before := s } s)
    | none => .fault .noIssuer
  | _ => .fault .noIssuer

def Awl.reg (a : Awl) (n : BitVec 5) : Word := sget a.x n.toNat
def Awl.setReg (a : Awl) (n : BitVec 5) (v : Word) : Awl := if n = 0 then a else { a with x := sset a.x n.toNat v }

/-- R249: an instruction retires: its result, and where it goes on; without budget the invocation aborts and the instruction has done nothing. -/
def State.retire (s : State) (e : AwlEnv) (rd : BitVec 5) (v : Word) (pc : Nat) : State :=
  if e.a.budget = 0 then e.before.abortAwl e abortBudget
  else s.modAwl e.slice fun a => { a.setReg rd v with pc := pc, budget := a.budget - 1 }

/-! ### RV32IMAC with Zicsr (R239, R240) -/

def rvAlu (o : RvAlu) (a b : Word) : Word :=
  match o with
  | .add => a + b | .sub => a - b | .and => a &&& b | .or => a ||| b | .xor => a ^^^ b
  | .slt => if a.toInt < b.toInt then 1 else 0
  | .sltu => if a.toNat < b.toNat then 1 else 0
  | .sll => a <<< (b.toNat % 32) | .srl => a >>> (b.toNat % 32) | .sra => a.sshiftRight (b.toNat % 32)
  | .mul => a * b
  | .mulh => BitVec.ofInt 32 (a.toInt * b.toInt / 2 ^ 32)
  | .mulhsu => BitVec.ofInt 32 (a.toInt * b.toNat / 2 ^ 32)
  | .mulhu => BitVec.ofNat 32 (a.toNat * b.toNat / 2 ^ 32)
  | .div => if b = 0 then 0xFFFFFFFF#32 else BitVec.ofInt 32 (a.toInt.tdiv b.toInt)
  | .divu => if b = 0 then 0xFFFFFFFF#32 else a / b
  | .rem => if b = 0 then a else BitVec.ofInt 32 (a.toInt.tmod b.toInt)
  | .remu => if b = 0 then a else a % b

def rvHolds (c : RvCond) (a b : Word) : Bool :=
  match c with
  | .eq => a = b | .ne => a ≠ b | .lt => a.toInt < b.toInt | .ge => b.toInt ≤ a.toInt | .ltu => a.toNat < b.toNat | .geu => b.toNat ≤ a.toNat

def rvAmo (o : RvAmo) (a b : Word) : Word :=
  match o with
  | .swap => b | .add => a + b | .xor => a ^^^ b | .and => a &&& b | .or => a ||| b
  | .min => if a.toInt ≤ b.toInt then a else b | .max => if a.toInt ≤ b.toInt then b else a
  | .minu => if a.toNat ≤ b.toNat then a else b | .maxu => if a.toNat ≤ b.toNat then b else a

def rvBytes (k : RvWidth) : Nat := match k with | .b | .bu => 1 | .h | .hu => 2 | .w => 4
def rvSigned (k : RvWidth) : Bool := match k with | .b | .h => true | _ => false

/-- R240: the offset in the data SRAM of an access, when every byte lies there. -/
def sramOff (a : Word) (n : Nat) : Option Nat := if 0x10000 ≤ a.toNat && a.toNat + n ≤ 0x14000 then some (a.toNat - 0x10000) else none

/-- R240: a CSR's value; none for one that does not exist. -/
def Awl.csr (a : Awl) (n : BitVec 12) : Option Word :=
  if n = 0x800#12 then some (a.ahi.setWidth 32) else if n = 0xCC0#12 then some (BitVec.ofNat 32 a.budget) else none

/-- R240: a CSR instruction whose source is `v`; `wr` says whether it writes. A write of the read-only one is an exception. -/
def State.rvCsr (s : State) (e : AwlEnv) (o : RvCsr) (rd : BitVec 5) (n : BitVec 12) (v : Word) (wr : Bool) (next : Nat) : State :=
  match e.a.csr n with
  | none => s.abortAwl e abortException
  | some old =>
    if wr && n ≠ 0x800#12 then s.abortAwl e abortException
    else
      let new := match o with | .rw => v | .rs => old ||| v | .rc => old &&& ~~~v
      (if wr then s.modAwl e.slice fun a => { a with ahi := new.setWidth 16 } else s).retire e rd old next

/-- An access of the data SRAM: `align` for the accesses that must be aligned. -/
def State.rvMem (s : State) (e : AwlEnv) (a : Word) (n : Nat) (align : Bool) (k : Nat → State) : State :=
  match sramOff a n with
  | none => s.abortAwl e abortException
  | some o => if align && a.toNat % n ≠ 0 then s.abortAwl e abortException else k o

def State.setSram (s : State) (e : AwlEnv) (o : Nat) (l : List Byte) : State := s.modAwl e.slice fun a => { a with sram := setBytes a.sram o l }

/-- A base instruction of `len` bytes. -/
def State.rv (s : State) (e : AwlEnv) (i : Rv) (len : Nat) : State :=
  let a := e.a
  let next := (BitVec.ofNat 32 (a.pc + len)).toNat
  let dest (off : Word) : Nat := (BitVec.ofNat 32 a.pc + off).toNat
  match i with
  | .lui rd v => s.retire e rd v next
  | .auipc rd v => s.retire e rd (BitVec.ofNat 32 a.pc + v) next
  | .jal rd off => s.retire e rd (BitVec.ofNat 32 next) (dest off)
  | .jalr rd r1 off => s.retire e rd (BitVec.ofNat 32 next) ((a.reg r1 + off) &&& ~~~1#32).toNat
  | .branch c r1 r2 off => s.retire e 0 0 (if rvHolds c (a.reg r1) (a.reg r2) then dest off else next)
  | .load k rd r1 off => s.rvMem e (a.reg r1 + off) (rvBytes k) false fun o =>
      s.retire e rd (extendLoad (rvSigned k) (bytesAt a.sram o (rvBytes k))) next
  | .store k r2 r1 off => s.rvMem e (a.reg r1 + off) (rvBytes k) false fun o =>
      (s.setSram e o (leBytes (rvBytes k) (a.reg r2).toNat)).retire e 0 0 next
  | .opImm o rd r1 v => s.retire e rd (rvAlu o (a.reg r1) v) next
  | .op o rd r1 r2 => s.retire e rd (rvAlu o (a.reg r1) (a.reg r2)) next
  | .fence => s.retire e 0 0 next
  | .lr rd r1 => s.rvMem e (a.reg r1) 4 true fun o =>
      (s.modAwl e.slice fun a => { a with resv := some o }).retire e rd (word32 (bytesAt a.sram o 4)) next
  | .sc rd r1 r2 => s.rvMem e (a.reg r1) 4 true fun o =>
      let s := s.modAwl e.slice fun a => { a with resv := none }
      if a.resv = some o then (s.setSram e o (leBytes 4 (a.reg r2).toNat)).retire e rd 0 next else s.retire e rd 1 next
  | .amo o rd r1 r2 => s.rvMem e (a.reg r1) 4 true fun p =>
      let old := word32 (bytesAt a.sram p 4)
      (s.setSram e p (leBytes 4 (rvAmo o old (a.reg r2)).toNat)).retire e rd old next
  | .csr o rd n r1 => s.rvCsr e o rd n (a.reg r1) (o = .rw || r1 ≠ 0) next
  | .csri o rd n v => s.rvCsr e o rd n (v.setWidth 32) (o = .rw || v ≠ 0) next
  | .ecall | .ebreak | .wfi | .illegal => s.abortAwl e abortException

/-- AWL_BASE_INSTRUCTION (R239, R240, R249). -/
def execAwlBaseInstruction (i : Rv) (len : Nat) (s : State) : Outcome := asAwl s fun e s => s.rv e i len

/-! ### Cache-side instructions (R246-R248) -/

/-- R246: an address operand. -/
def AwlEnv.va (e : AwlEnv) (r : BitVec 5) : DWord := ((e.a.ahi ++ e.a.reg r) : BitVec 48).signExtend 64

/-- How a cache-side access goes (R247, R248). -/
inductive SideAcc
  | ok (pa : Nat) (unc : Bool)
  | fault
  | abort (cause : Nat)
  deriving DecidableEq, Repr

/-- R247, R248: the translation, rights and frame check of a cache-side access. A failed walk is logged (R206); the frames of the frame ownership
table are the Bridle's alone (R213). -/
def State.sideAccess (s : State) (ck : Nat) (va : DWord) (write : Bool) : State × SideAcc :=
  let part := partOfCtx ck
  match s.translate s.freeCtr part ck (va.toNat % 2 ^ 48) with
  | (r, l) =>
    let s := (s.keepTlb l).skip seedsPerAccess
    match r with
    | .error (.park _) => (s, .fault)
    | .error (.fail pg st2) => (s.logFault ck va (if pg then causePage else causeAccess) st2, .fault)
    | .ok f =>
      if f.host || !f.allows (if write then .write else .read) then (s, .fault)
      else if !(if write then s.mayWrite part f.pa else fotOwner (s.fotEntry (f.pa / 65536)) = part && !s.inFot f.pa) then (s, .abort abortSandbox)
      else if s.isPoisoned f.pa then (s, .abort abortPoison)
      else (s, .ok f.pa f.unc)

/-- A cache-side instruction on the line of {AHI, rs1}: a status goes to rd. What lies on the other die waits while the link retrains (R29). -/
def sideInstr (r : AwlR) (write : Bool) (s : State) (body : AwlEnv → State → Nat → Bool → State) : Outcome :=
  asAwl s fun e s =>
    match s.sideAccess e.r.ev.ctx (e.va r.rs1) write with
    | (s, .fault) => s.retire e r.rd 1 (e.a.pc + 4)
    | (s, .abort c) => s.abortAwl e c
    | (s, .ok pa unc) => if s.far (e.slice / 24) pa then e.before else body e s pa unc

def AwlEnv.requester (e : AwlEnv) (va : DWord) : Requester := { core := none, ck := e.r.ev.ctx, va := va.toNat, ev := false }
/-- R247: whether a line is held by another invocation. -/
def State.heldByOther (s : State) (slice pa : Nat) : Bool := match kget s.heldLines (lineOf pa) with | some n => n ≠ slice | none => false

/-- The data SRAM line that rs2 names. -/
def lineSram (v : Word) : Option Nat := if v.toNat % 128 = 0 then sramOff v 128 else none

/-- ALRD (R246). An rs2 that is not aligned or whose line lies outside the data SRAM aborts before anything is read. -/
def execAlrd (r : AwlR) (s : State) : Outcome :=
  asAwl s fun e s => match lineSram (e.a.reg r.rs2) with
    | none => s.abortAwl e abortException
    | some o => match sideInstr r false s fun e s pa unc =>
        if s.heldByOther e.slice pa then s.retire e r.rd 5 (e.a.pc + 4)
        else
          let s := (s.touch (e.requester (e.va r.rs1)) pa unc false).1
          (s.setSram e o (s.readMem (pa / 128 * 128) 128)).retire e r.rd 0 (e.a.pc + 4) with
      | .next t => t
      | _ => s

/-- R218: an awl's writes. -/
def AwlEnv.writer (e : AwlEnv) : Writer := { uid := awlUid e.slice, core := none, own := false, lid := 0, ck := e.r.ev.ctx }

/-- R246, R218: the sectors of a line written from the data SRAM. -/
def State.writeSectors (s : State) (w : Writer) (pa : Nat) (sel : BitVec 4) (l : List Byte) : State :=
  (List.range 4).foldl (fun s i => if sel.getLsbD i then s.storeDev w (pa / 128 * 128 + 32 * i) ((l.drop (32 * i)).take 32) else s) s

/-- ALWR (R246). -/
def execAlwr (r : AwlR) (s : State) : Outcome :=
  asAwl s fun e s => match lineSram ((e.a.reg r.rs2) &&& 0xFFFFFF80#32) with
    | none => s.abortAwl e abortException
    | some o => match sideInstr r true s fun e s pa unc =>
        if s.heldByOther e.slice pa then s.retire e r.rd 5 (e.a.pc + 4)
        else
          let s := (s.touch (e.requester (e.va r.rs1)) pa unc true).1
          (s.writeSectors e.writer pa ((e.a.reg r.rs2).extractLsb' 0 4) (bytesAt e.a.sram o 128)).retire e r.rd 0 (e.a.pc + 4) with
      | .next t => t
      | _ => s

/-- ALOCK (R246, R254): a line that is held already stays so. It waits for the writes to the line that have not completed (R218). -/
def execAlock (r : AwlR) (s : State) : Outcome :=
  sideInstr r false s fun e s pa unc =>
    let st (s : State) (n : Nat) : State := s.retire e r.rd (BitVec.ofNat 32 n) (e.a.pc + 4)
    if sliceOf pa ≠ e.slice then st s 6
    else if kget s.heldLines (lineOf pa) = some e.slice then st s 0
    else if (s.heldLines.filter fun h => h.2 = e.slice).length ≥ 4 then st s 5
    else if s.pendingWrites.any fun w => w.line = lineOf pa then e.before
    else
      let s := (s.touch (e.requester (e.va r.rs1)) pa unc false).1
      st { s with heldLines := kset s.heldLines (lineOf pa) e.slice } 0

/-- R246, R247: a pin or release of a line that another invocation holds waits, unless the awl holds a line itself, so that no two awls wait on each
other (log 82). -/
def State.pinWaits (s : State) (slice pa : Nat) : Bool := s.heldByOther slice pa && !s.heldLines.any fun h => h.2 = slice

/-- APIN (R246, R254). -/
def execApin (r : AwlR) (s : State) : Outcome :=
  sideInstr r false s fun e s pa unc =>
    if s.pinWaits e.slice pa then e.before
    else if unc then s.retire e r.rd 2 (e.a.pc + 4)
    else match (s.touch (e.requester (e.va r.rs1)) pa unc false).1.pinLine e.r.ev.ctx pa with
      | (s, n) => s.retire e r.rd (if n = 0 then 0 else 2) (e.a.pc + 4)

/-- AUNPIN (R246): the status when the context held no pin is one of the two that R247 leaves (log 33). -/
def execAunpin (r : AwlR) (s : State) : Outcome :=
  sideInstr r false s fun e s pa unc =>
    if s.pinWaits e.slice pa then e.before
    else if unc then s.retire e r.rd 2 (e.a.pc + 4)
    else match s.unpinLine e.r.ev.ctx pa with
    | (s, n) => (s.skip 1).retire e r.rd (if n = 0 then 0 else oneOf s.freeCtr 0 [0, 2]) (e.a.pc + 4)

/-- AFILL (R246). -/
def execAfill (r : AwlR) (s : State) : Outcome :=
  sideInstr r false s fun e s pa unc => ((s.touch (e.requester (e.va r.rs1)) pa unc false).1).retire e r.rd 0 (e.a.pc + 4)

/-- The message's reply is no longer owed by this invocation. -/
def State.passReply (s : State) (e : AwlEnv) : State := s.modAwl e.slice fun a => { a with run := a.run.map fun r => { r with owed := false } }

/-- AFWD (R246, R247, R252): the forward count is a5 + 1, and a5 is as the handler has it. -/
def execAfwd (r : AwlR) (s : State) : Outcome :=
  asAwl s fun e s =>
    let st (s : State) (n : Nat) : State := s.retire e r.rd (BitVec.ofNat 32 n) (e.a.pc + 4)
    match e.r.replyTo with
    | none => st s 3
    | some dest =>
      if e.a.reg 15 = 63 then st s 4
      else
        let va := e.va r.rs1
        match s.sideAccess e.r.ev.ctx va false with
        | (s, .fault) => st s 1
        | (s, .abort c) => s.abortAwl e c
        | (s, .ok _ _) =>
          let m : AwlMsg := { ctx := e.r.ev.ctx, va := va, payload := e.a.reg r.rs2, fwd := (e.a.reg 15 + 1).toNat, reply := dest, die := e.slice / 24 }
          st (({ s with awlMsgs := s.awlMsgs ++ [m] }).passReply e) 0

/-- AREPLY (R246, R252). -/
def execAreply (r : AwlR) (s : State) : Outcome :=
  asAwl s fun e s =>
    match e.r.replyTo with
    | none => s.retire e r.rd 3 (e.a.pc + 4)
    | some dest => ((s.sendReply (e.slice / 24) dest (e.a.reg r.rs1) 0).passReply e).retire e r.rd 0 (e.a.pc + 4)

/-- AEND (R246, R252). -/
def execAend (_r : AwlR) (s : State) : Outcome :=
  asAwl s fun e s =>
    let s := match e.r.replyTo with | some dest => s.sendReply (e.slice / 24) dest 0 3 | none => s
    (s.retire e 0 0 (e.a.pc + 4)).endInvocation e.slice e.r.ev.id

/-! ### Invocations (R241, R245) -/

/-- R241: the registers at the start of an invocation. -/
def startRegs (ev : AwlEvent) : Sparse 32 :=
  ssets [] [(10, BitVec.ofNat 32 ev.code), (11, lo32 ev.va), (12, (ev.va.extractLsb' 32 16).setWidth 32), (13, ev.payload),
    (14, BitVec.ofNat 32 ev.window), (15, BitVec.ofNat 32 ev.fwd)]

/-- R244: an event that no window handles any more takes its default action. -/
def State.defaultAction (s : State) (slice : Nat) (ev : AwlEvent) : State :=
  let s := s.endInvocation slice ev.id
  match ev.reply with | some dest => s.sendReply (slice / 24) dest 0 1 | none => s

/-- AWL_INVOCATION (R241, R245): an idle awl starts the first event of its queue; those of a paused partition stay (R88). -/
def execAwlInvocation (slice : Nat) (s : State) : Outcome :=
  let a := s.awl slice
  if a.run.isSome then .next s
  else match a.queue.find? fun ev => !(s.part (partOfCtx ev.ctx)).paused with
    | none => .next s
    | some ev =>
      let s := s.modAwl slice fun a => { a with queue := a.queue.eraseP fun o => o.id = ev.id }
      match kget (s.ctx ev.ctx).windows ev.window with
      | none => .next (s.defaultAction slice ev)
      | some w => .next (s.modAwl slice fun a =>
          { a with x := startRegs ev, pc := 0, ahi := ev.va.extractLsb' 32 16, budget := w.budget, resv := none
                   sram := if a.sramCtx = some ev.ctx then a.sram else [], sramCtx := some ev.ctx
                   run := some { ev := ev, image := w.image, owed := ev.reply.isSome } })

/-! ### Messages (R442, R252) -/

/-- AWL_MESSAGE_ARRIVAL (R252): a message reaches its home slice, once the link lets it pass (R29), or is answered at once. -/
def execAwlMessageArrival (idx : Nat) (s0 : State) : Outcome :=
  match s0.awlMsgs[idx]? with
  | none => .next s0
  | some m =>
    let s := { s0 with awlMsgs := s0.awlMsgs.eraseIdx idx }
    match (s.ctx m.ctx).windowAt 3 m.va.toNat with
    | none => .next (s.sendReply m.die m.reply 0 2)
    | some (n, _) =>
      let r := s.access s.freeCtr m.ctx m.va .read
      let s := s.afterAccess m.ctx m.va r
      match r.1 with
      | .dev pa _ =>
        if s.far m.die pa then .next s0
        else match s.queueAwl (sliceOf pa)
            { id := 0, code := 3, ctx := m.ctx, window := n, va := m.va, payload := m.payload, fwd := m.fwd, reply := some m.reply } with
        | (s, some _) => .next s
        | (s, none) => .next (s.sendReply (homeDie pa) m.reply 0 4)
      | _ => .next (s.sendReply m.die m.reply 0 5)

/-- R252, R442: a thread of a group has its reply. -/
def Group.reply (g : Group) (r : AwlReply) : Group :=
  match g.awl with
  | none => g
  | some w => { g with awl := some { w with owed := w.owed &&& ~~~((1#128) <<< r.t), got := kset w.got r.t (r.value, r.status) } }

/-- AMSG_REPLY_ARRIVAL (R252, R442): a reply reaches its group, once the link lets it pass (R29), or the record of one that is switched out. -/
def execAmsgReplyArrival (idx : Nat) (s : State) : Outcome :=
  match s.awlReplies[idx]? with
  | none => .next s
  | some r =>
    let s0 := s
    let s := { s with awlReplies := s.awlReplies.eraseIdx idx }
    match s.groups.find? fun e => e.2.uid = r.uid with
    | some (gid, g) => if s.link.retraining && s.dieOf g.core ≠ r.die then .next s0 else .next ((s.modGroup gid fun g => g.reply r).finishReplies gid)
    | none => .next { s with ctxs := kmapAll s.ctxs fun _ c =>
        { c with saved := c.saved.map fun v => { v with groups := v.groups.map fun g => if g.uid = r.uid then g.reply r else g } } }

/-! ### Fetch (R240, R241) -/

/-- R240: the instruction at a running awl's PC; a fetch outside the image is an exception. -/
def Awl.fetch (a : Awl) (r : AwlRun) : Instr :=
  let w := word32 ((r.image.drop a.pc).take 4 ++ List.replicate 4 0)
  let len := if w.extractLsb' 0 2 ≠ 3#2 then 2 else 4
  if a.pc + len > r.image.length then .awlBaseInstruction .illegal 2 else decodeAwl w

/-- The meaning of an instruction of an awl. -/
def runAwl (i : Instr) (s : State) : Outcome :=
  match i with
  | .awlBaseInstruction i len => execAwlBaseInstruction i len s
  | .alrd r => execAlrd r s | .alwr r => execAlwr r s | .alock r => execAlock r s | .apin r => execApin r s | .aunpin r => execAunpin r s
  | .afill r => execAfill r s | .afwd r => execAfwd r s | .areply r => execAreply r s | .aend r => execAend r s
  | _ => .next s

/-- R249: whether an instruction of an awl would retire, if it had the budget. -/
def State.wouldRetire (s : State) (slice : Nat) (i : Instr) : Bool :=
  match runAwl i ({ s with cur := .awl slice }.modAwl slice fun a => { a with budget := 1 }) with
  | .next t => (t.awl slice).budget = 0
  | _ => false

/-- Whether a running awl's next instruction would retire and it has no budget left. -/
def State.budgetSpent (s : State) (slice : Nat) (r : AwlRun) : Bool := (s.awl slice).budget = 0 && s.wouldRetire slice ((s.awl slice).fetch r)

/-- AWL_BUDGET_EXHAUSTED (R249). -/
def execAwlBudgetExhausted (slice : Nat) (s : State) : Outcome :=
  match (s.awl slice).run with
  | some r => if s.budgetSpent slice r then .next (s.abortAwl { slice := slice, a := s.awl slice, r := r, before := s } abortBudget) else .next s
  | none => .next s

/-- The instruction that a running awl executes next. One waits while the awl's writes are not acknowledged (R218). -/
def State.awlNext (s : State) (slice : Nat) : Option Instr :=
  match (s.awl slice).run with
  | none => none
  | some r =>
    if s.writesPending (awlUid slice) then none
    else if s.budgetSpent slice r then some (.awlBudgetExhausted slice)
    else some ((s.awl slice).fetch r)

end Sys2Proof.Machine
end

