-- ==== Sys2Proof/Machine/Surface.lean ====
section
/-! DEFINITION. Reading structures through a context's translation, surface descriptors and pixel formats (R464-R466). -/
namespace Sys2Proof.Machine

/-! ### Reading a structure of a context -/

/-- How a read of several bytes goes. -/
inductive Got
  | bytes (l : List Byte)
  | bad (cause : Nat) (addr : DWord)
  | park (addr : DWord) (ipa : Option Nat)
  deriving DecidableEq, Repr

/-- The parts of a range that lie in one aligned piece of `size` bytes each. -/
def alignedPieces (size : Nat) (va : DWord) (n : Nat) : List (DWord × Nat) :=
  (List.range (n / size + 2)).filterMap fun i =>
    let start := if i = 0 then va.toNat else (va.toNat / size + i) * size
    let stop := min (va.toNat + n) ((va.toNat / size + i + 1) * size)
    if start < stop then some (BitVec.ofNat 64 start, stop - start) else none

/-- The parts of a range that lie in one 4 KiB page each, and in one line each. -/
def pagePieces (va : DWord) (n : Nat) : List (DWord × Nat) := alignedPieces 4096 va n
def linePieces (va : DWord) (n : Nat) : List (DWord × Nat) := alignedPieces 128 va n

/-- The bytes an access reaches. -/
def State.bytesOf (s : State) (a : Acc) (n : Nat) : Option (List Byte) :=
  match a with
  | .dev pa _ => some (s.readMem pa n)
  | .host key => some (bytesAt s.hostMem key n)
  | _ => none

def Got.ofAcc (s : State) (va : DWord) (a : Acc) (n : Nat) : Got :=
  match a with
  | .dev pa _ => .bytes (s.readMem pa n)
  | .host key => .bytes (bytesAt s.hostMem key n)
  | .park ipa pri => .park va (if pri then none else some ipa)
  | .stop c _ => .bad c va

def Got.append : Got → Got → Got
  | .bytes a, .bytes b => .bytes (a ++ b)
  | .bytes _, r => r
  | r, _ => r

/-- Reads a range of a context's memory; a failed walk is recorded in the event logs (R206), once, with the tag given (R47), if one is. -/
def State.readVirt (s : State) (ck : Nat) (tag : Option DWord) (va : DWord) (n : Nat) : State × Got :=
  (pagePieces va n).foldl (fun r p =>
    match r.2 with
    | .bytes _ => match r.1.accessOf r.1.freeCtr ck p.1 p.2 .read with
      | (va, a) =>
        let s := match a.1 with | .dev pa _ => r.1.meet pa p.2 | _ => r.1
        (match tag with | some t => s.afterTagged ck t va a | none => (s.keepTlb a.2).skip seedsPerAccess, r.2.append (Got.ofAcc r.1 va a.1 p.2))
    | _ => r) (s, .bytes [])

/-- Whether an access of a range of a context's memory must wait (R246, R29). -/
def State.virtHeld (s : State) (ck : Nat) (va : DWord) (n : Nat) : Bool :=
  (pagePieces va n).any fun p => match (s.access s.freeCtr ck p.1 .read).1 with | .dev pa _ => s.cut pa p.2 | _ => false

/-- Writes bytes of a context's memory where its translation allows. -/
def State.putVirt (s : State) (ck : Nat) (va : DWord) (l : List Byte) : State :=
  ((pagePieces va l.length).foldl (fun (r : State × List Byte) p =>
    let a := r.1.access r.1.freeCtr ck p.1 .write
    let s := (r.1.keepTlb a.2).skip seedsPerAccess
    (match a.1 with | .dev pa _ => s.storeDone pa (r.2.take p.2) | .host k => s.writeHost k (r.2.take p.2) | _ => s, r.2.drop p.2)) (s, l)).1

/-! ### Surfaces (R464) -/

/-- R465: bytes of a pixel. -/
def formatBytes (f : Nat) : Nat := match f with | 2 => 8 | 3 => 16 | 5 => 1 | _ => 4

def Surf.parse (l : List Byte) : Surf :=
  { base := BitVec.ofNat 64 (field l 0 8), width := field l 8 2, height := field l 10 2, pitch := field l 12 4, format := field l 16 1
    levels := (field l 17 1) % 2 = 1, capture := (field l 17 1) / 2 % 2 = 1, filter := (field l 18 1) % 4, address := (field l 18 1) / 4 % 4
    out := field l 19 1, brand := BitVec.ofNat 16 (field l 20 2), leveldesc := BitVec.ofNat 64 (field l 24 8)
    brandplane := BitVec.ofNat 64 (field l 32 8), vx0 := field l 40 2, vy0 := field l 42 2 }

/-- R464: whether a descriptor keeps to the table. -/
def State.surfOk (s : State) (l : List Byte) : Bool :=
  let f := Surf.parse l
  let cfg := (s.out f.out).cfg
  (f.levels || f.base.toNat % 256 = 0) && 1 ≤ f.width && f.width ≤ 16384 && 1 ≤ f.height && f.height ≤ 16384 && f.pitch % 256 = 0
    && f.pitch ≥ f.width * formatBytes f.format && f.format ≤ 5 && field l 17 1 < 4 && f.filter ≠ 3 && f.address ≠ 3 && field l 18 1 < 16
    && zeroAt l 22 2 && zeroAt l 44 20 && (f.levels || f.leveldesc = 0) && !(f.levels && f.capture)
    && (if f.capture then f.out ≤ 3 && [0, 1, 4].contains f.format && f.vx0 + f.width ≤ cfg.hactive && f.vy0 + f.height ≤ cfg.vactive
        else f.out = 0 && f.brandplane = 0 && f.vx0 = 0 && f.vy0 = 0)

/-- R466: the size and pitch of a level. -/
def Surf.levelW (f : Surf) (lv : Nat) : Nat := max (f.width / 2 ^ lv) 1
def Surf.levelH (f : Surf) (lv : Nat) : Nat := max (f.height / 2 ^ lv) 1
def Surf.levelPitch (f : Surf) (lv : Nat) : Nat :=
  if lv = 0 then f.pitch else 256 * ((f.levelW lv * formatBytes f.format + 255) / 256)
/-- R466: the offset of a texel from its level's base. -/
def Surf.texelOff (f : Surf) (lv x y : Nat) : Nat := y * f.levelPitch lv + x * formatBytes f.format

/-! ### Pixel formats (R465) -/

def unormRead (bits c : Nat) : Word := toF32 .rne (divVal (Val.ofInt c) (Val.ofInt (2 ^ bits - 1)))
def unormWrite (bits : Nat) (v : Word) : Nat :=
  match f32 v with
  | .nan => 0
  | x =>
    let c := if f32Lt v 0 then Val.ofInt 0 else if f32Lt 0x3F800000#32 v then Val.ofInt 1 else x
    ((c.mul (Val.ofInt (2 ^ bits - 1))).toInt .rne).toNat

/-- The four components of a pixel's bytes. -/
def pixelRead (format : Nat) (l : List Byte) : List Word :=
  let n := leNat l
  let one : Word := 0x3F800000#32
  let h (i : Nat) : Word := toF32 .rne (fmtF16.decode (n / 2 ^ (16 * i) % 2 ^ 16))
  match format with
  | 0 => (List.range 4).map fun i => unormRead 8 (n / 2 ^ (8 * i) % 256)
  | 1 => ((List.range 3).map fun i => unormRead 10 (n / 2 ^ (10 * i) % 1024)) ++ [unormRead 2 (n / 2 ^ 30 % 4)]
  | 2 => (List.range 4).map h
  | 3 => (List.range 4).map fun i => BitVec.ofNat 32 (n / 2 ^ (32 * i))
  | 4 => [BitVec.ofNat 32 n, 0, 0, one]
  | _ => [unormRead 8 (n % 256), 0, 0, one]

/-- A pixel's bytes from four components. -/
def pixelWrite (format : Nat) (comps : List Word) : List Byte :=
  let g (i : Nat) : Word := (comps[i]?).getD 0
  match format with
  | 0 => (List.range 4).map fun i => BitVec.ofNat 8 (unormWrite 8 (g i))
  | 1 => leBytes 4 (unormWrite 10 (g 0) + 2 ^ 10 * unormWrite 10 (g 1) + 2 ^ 20 * unormWrite 10 (g 2) + 2 ^ 30 * unormWrite 2 (g 3))
  | 2 => (List.range 4).flatMap fun i => leBytes 2 (fmtF16.encode .rne false (f32 (g i)))
  | 3 => (List.range 4).flatMap fun i => leBytes 4 (g i).toNat
  | 4 => leBytes 4 (g 0).toNat
  | _ => [BitVec.ofNat 8 (unormWrite 8 (g 0))]

end Sys2Proof.Machine
end

