-- ==== Sys2Proof/Machine/Level.lean ====
section
/-! DEFINITION. Reads by the sampler, the copy engine and the IXU, and resources with levels: descriptors, the residency map, the fallback
rule, feedback, LDLOD and LODQ (R223-R238, R435, R436). -/
namespace Sys2Proof.Machine

/-! ### Reads through the async proxy (R260) -/

/-- What a composite read comes to: a value, or the access that did not succeed. -/
inductive Res (α : Type)
  | ok (a : α)
  | acc (addr : DWord) (a : Acc)
  deriving Repr

/-- Who reads, with the unfenced writes whose old values may still be read, oldest first, and what has been read so far. `seed` numbers the
operation's choices, one for each sector (R258, R260); `seen` are the lines read; `bits` are the 64 KiB pages whose residency bit was
observed set, each with how many of the unfenced writes come before that bit's (R227). -/
structure Rd where
  s : State
  core : Nat
  ck : Nat
  unf : List (Nat × BitVec 256)
  seed : Nat
  seen : List (Nat × Bool × DWord) := []
  bits : List (Nat × Nat) := []

def Rd.new (s : State) (core ck : Nat) (unf : List (Nat × BitVec 256)) : Rd :=
  { s := s.skip 1, core := core, ck := ck, unf := unf, seed := s.freeCtr }

/-- Bytes of a memory as the async proxy reads them; `key` gives the key of an address's sector. -/
def asyncBytes (seed : Nat) (unf : List (Nat × BitVec 256)) (key : Nat → Nat) (m : Sparse 8) (a n : Nat) : List Byte :=
  if !unf.any fun e => key a ≤ e.1 && e.1 ≤ key (a + n - 1) then bytesAt m a n
  else (List.range n).map fun i =>
    (asyncSector seed unf [key (a + i)] (sectorBits (bytesAt m ((a + i) / 32 * 32) 32))).extractLsb' (8 * ((a + i) % 32)) 8

/-- R227: the unfenced writes whose old values a read may still return: those that a residency bit of its page has not made visible. -/
def Rd.unfAt (x : Rd) (va : DWord) : List (Nat × BitVec 256) :=
  x.unf.drop ((x.bits.filter fun b => b.1 = va.toNat / 65536).foldl (fun n b => max n b.2) 0)

/-- R244: the lines that an access of some bytes of a page reaches, each with an address in it. -/
def lineParts (pa : Nat) (unc : Bool) (va : DWord) (n : Nat) : List (Nat × Bool × DWord) :=
  (List.range (n / 128 + 2)).filterMap fun i =>
    let a := if i = 0 then pa else (pa / 128 + i) * 128
    if a < pa + n then some (a, unc, va + BitVec.ofNat 64 (a - pa)) else none

/-- Reads bytes of the context's memory; a read across the link waits while it retrains (R29). -/
def Rd.read (x : Rd) (va : DWord) (n : Nat) : Rd × Res (List Byte) :=
  (pagePieces va n).foldl (fun r p =>
    match r.2 with
    | .acc .. => r
    | .ok l =>
      let x := r.1
      let a := x.s.accessOf x.s.freeCtr x.ck p.1 p.2 .read
      let y := { x with s := ((x.s.keepTlb a.2.2).skip seedsPerAccess) }
      match a.2.1 with
      | .dev pa unc => ({ y with s := y.s.cross (y.s.dieOf y.core) pa, seen := y.seen ++ lineParts pa unc p.1 p.2 }, .ok (l ++ asyncBytes x.seed (x.unfAt p.1) (· / 32) (x.s.memOf x.core) pa p.2))
      | .host key => (y, .ok (l ++ asyncBytes x.seed (x.unfAt p.1) hostSector x.s.hostMem key p.2))
      | acc => (y, .acc a.1 acc)) (x, .ok [])

/-- Goes on with the value of a read. -/
def andThen {α β : Type} (r : Rd × Res α) (f : Rd → α → Rd × Res β) : Rd × Res β :=
  match r with
  | (x, .ok a) => f x a
  | (x, .acc d a) => (x, .acc d a)

/-- The lines read reach their home slices, each once (R216, R244). -/
def State.touchSeen (s : State) (r : Requester) (write : Bool) (l : List (Nat × Bool × DWord)) : State × List Nat :=
  let firsts := l.zipIdx.filter fun (d, i) => !(l.take i).any fun o => lineOf o.1 = lineOf d.1
  firsts.foldl (fun a x => match a.1.touch { r with va := x.1.2.2.toNat } x.1.1 x.1.2.1 write with
    | (s, fl) => (s, a.2 ++ fl)) (s, [])

/-- R216: a core's L1 gives up what it holds of lines that were accessed beyond it. -/
def State.dropLines (s : State) (core : Nat) (l : List (Nat × Bool × DWord)) : State :=
  if l = [] then s else s.modCore core fun c => { c with l1 := c.l1.filter fun e => !l.any fun x => lineOf x.1 = e.1 / 4 }

/-- The lines that are read and those that are written reach their home slices. -/
def State.touchBoth (s : State) (r : Requester) (seen wrote : List (Nat × Bool × DWord)) : State × List Nat :=
  match s.touchSeen r false seen with
  | (s, f) => match (s.dropLines (r.core.getD 0) wrote).touchSeen r true wrote with | (s, g) => (s, f ++ g)

/-- R244: an instruction whose accesses are held by FILL invocations waits for them and then runs; otherwise it goes on with its result. `wrote` are
the lines that it writes, and `md` is its policy (R216). -/
def Env.heldOr (e : Env) (s : State) (md : Nat) (x : Rd) (wrote : List (Nat × Bool × DWord)) (f : State → State) : State :=
  match s.touchBoth (e.requester 0 md) x.seen wrote with
  | (s1, fills) => if fills ≠ [] then s1.waitAt e.gid (.fills fills) else f ((x.s.touchBoth (e.requester 0 md) x.seen wrote).1.countFree e.gid 12)

/-! ### The level descriptor (R224-R226) -/

structure LodDesc where
  resid : Nat
  nlev : Nat
  precision : Bool
  resmap : DWord
  ring : DWord
  codebook : DWord
  base : List DWord
  npages : List Nat
  deriving DecidableEq, Repr

def LodDesc.parse (l : List Byte) : LodDesc :=
  { resid := field l 0 4, nlev := field l 4 1, precision := field l 5 1 = 1, resmap := BitVec.ofNat 64 (field l 8 8)
    ring := BitVec.ofNat 64 (field l 16 8), codebook := BitVec.ofNat 64 (field l 24 8)
    base := (List.range 16).map fun i => BitVec.ofNat 64 (field l (64 + 16 * i) 8)
    npages := (List.range 16).map fun i => field l (72 + 16 * i) 4 }

/-- R224. -/
def lodOk (l : List Byte) : Bool :=
  let n := field l 4 1
  let k := field l 5 1
  k ≤ 1 && (if k = 1 then n = 2 else 1 ≤ n && n ≤ 16) && zeroAt l 6 2 && field l 8 8 % 8 = 0 && field l 16 8 % 64 = 0
    && (if k = 1 then field l 24 8 % 16 = 0 else field l 24 8 = 0) && zeroAt l 32 32
    && (List.range 16).all fun i =>
      if i < n then field l (64 + 16 * i) 8 % 65536 = 0 && 1 ≤ field l (72 + 16 * i) 4 && field l (72 + 16 * i) 4 ≤ 2 ^ 24 && zeroAt l (76 + 16 * i) 4
      else zeroAt l (64 + 16 * i) 16

def LodDesc.pages (d : LodDesc) (lv : Nat) : Nat := (d.npages[lv]?).getD 0
def LodDesc.baseOf (d : LodDesc) (lv : Nat) : DWord := (d.base[lv]?).getD 0

/-- A doubleword that the core may still hold from an earlier read (R225, R227). -/
def Rd.cached (x : Rd) (va now : DWord) : Rd × DWord :=
  let key := hostKey x.ck va.toNat
  let v := match kget (x.s.core x.core).mapCache key with
    | some old => oneOf x.s.freeCtr now [now, old]
    | none => now
  ({ x with s := (x.s.skip 1).modCore x.core fun c => { c with mapCache := kset c.mapCache key v } }, v)

/-- R225: bytes of a descriptor, each doubleword as memory has it or as the core still holds it. -/
def Rd.descBytes (x : Rd) (va : DWord) (now : List Byte) : Rd × List Byte :=
  (List.range (now.length / 8)).foldl (fun (r : Rd × List Byte) i =>
    match r.1.cached (va + BitVec.ofNat 64 (8 * i)) (word64 ((now.drop (8 * i)).take 8)) with
    | (x, v) => (x, r.2 ++ leBytes 8 v.toNat)) (x, [])

/-- R225: the level descriptor at an address; none when it breaks R224. -/
def Rd.desc (x : Rd) (va : DWord) : Rd × Res (Option LodDesc) :=
  if va.toNat % 64 ≠ 0 then (x, .ok none)
  else andThen (x.read va 320) fun x l => match x.descBytes va l with
    | (x, l) => (x, .ok (if lodOk l then some (LodDesc.parse l) else none))

/-- R226: the index of the map word of a page of a level. -/
def LodDesc.mapIndex (d : LodDesc) (lv page : Nat) : Nat :=
  ((List.range lv).map fun j => (d.pages j + 63) / 64).sum + page / 64

/-- R227: how many of the unfenced writes come before the one that set a residency bit, as far as they tell. -/
def Rd.before (x : Rd) (map : Option Nat) (bit : Nat) : Nat :=
  match map with
  | none => 0
  | some key => x.unf.length - (x.unf.reverse.findIdx? fun e => e.1 = key && !e.2.getLsbD bit).getD x.unf.length

/-- R226, R227, R232: whether a page is resident; a set bit is an acquire at device scope of the page's bytes. -/
def Rd.resident (x : Rd) (d : LodDesc) (lv page : Nat) : Rd × Res Bool :=
  let va := d.resmap + BitVec.ofNat 64 (8 * d.mapIndex lv page)
  andThen (x.read va 8) fun x l =>
    match x.cached va (word64 l) with
    | (x, v) =>
      if v.getLsbD (page % 64) then
        let map := match (x.s.access x.s.freeCtr x.ck va .read).1 with | .dev pa _ => some (pa / 32, pa) | .host a => some (hostSector a, a) | _ => none
        let n := x.before (map.map (·.1)) (8 * ((map.map (·.2)).getD 0 % 32) + page % 64)
        ({ x with s := x.s.acquire x.core 4, bits := x.bits ++ [((d.baseOf lv).toNat / 65536 + page, n)] }, .ok true)
      else (x, .ok false)

/-- The pages of a list that are absent. -/
def Rd.absent (x : Rd) (d : LodDesc) : List (Nat × Nat) → Rd × Res (List (Nat × Nat))
  | [] => (x, .ok [])
  | (lv, p) :: rest => andThen (x.resident d lv p) fun x b =>
      andThen (x.absent d rest) fun x l => (x, .ok (if b then l else (lv, p) :: l))

/-- R228: the least level from those given whose footprint is resident, and the absent pages of the levels before it. -/
def Rd.chooseFrom (x : Rd) (d : LodDesc) (foot : Nat → List (Nat × Nat)) : List Nat → Rd × Res (Option Nat × List (List (Nat × Nat)))
  | [] => (x, .ok (none, []))
  | lv :: rest => andThen (x.absent d (foot lv)) fun x a =>
      if a = [] then (x, .ok (some lv, [])) else andThen (x.chooseFrom d foot rest) fun x r => (x, .ok (r.1, a :: r.2))

/-- R228, R229, R234: the level a read uses, its status word, and the pages it asks for with their kinds. -/
structure Choice where
  level : Option Nat
  status : Word
  wants : List (Nat × Nat × Nat) := []
  deriving DecidableEq, Repr

/-- R229. -/
def statusWord (used wanted : Nat) (fallback nodata consent : Bool) : Word :=
  BitVec.ofNat 32 (used + 16 * wanted + (if fallback then 512 else 0) + (if nodata then 1024 else 0) + if consent then 2048 else 0)

/-- R228, R234: `foot` gives the pages of the footprint at each level, for the wanted level both that trilinear reads. -/
def Rd.choose (x : Rd) (d : LodDesc) (w : Nat) (foot : Nat → List (Nat × Nat)) : Rd × Res Choice :=
  andThen (x.chooseFrom d foot ((List.range d.nlev).drop w)) fun x r =>
    let fb := match r.1 with | some lv => lv > w | none => w < d.nlev - 1
    let a := if fb then r.2.headD [] else []
    let b := if r.1.isNone then (r.2.getLast?.getD []).filter fun p => p.1 = d.nlev - 1 else []
    (x, .ok { level := r.1, status := statusWord (r.1.getD (d.nlev - 1)) w fb r.1.isNone false
              wants := (a.map fun p => (p.1, p.2, 0)) ++ b.map fun p => (p.1, p.2, 1) })

/-! ### Feedback (R233-R235) -/

/-- Event 0x05 for an append that could not be made: a PEND entry counts as PAGE. -/
def State.logAppend (s : State) (ck : Nat) (va : DWord) (a : Acc) : State :=
  match a with
  | .stop c st2 => s.logFault ck va c (st2.getD false)
  | .park .. => s.logFault ck va causePage false
  | _ => s

def bumpDrops (l : List Byte) : List Byte := patch (bumpWord l 20) 9 [(((l[9]?).getD 0) ||| 1#8)]

/-- R234: one append at a feedback control block; answers whether an entry was written. -/
def State.appendEntry (s : State) (ck : Nat) (ring : DWord) (entry : List Byte) : State × Bool :=
  let a := s.access s.freeCtr ck ring .atomic
  let s := (s.keepTlb a.2).skip seedsPerAccess
  match a.1 with
  | .dev pa _ =>
    let s := s.settleLine (lineOf pa)
    let cb := s.readMem pa 64
    let w := field cb 12 4
    if (BitVec.ofNat 32 w - word32 ((cb.drop 16).take 4)).toNat ≥ 2 ^ field cb 8 1 then (s.storeDone pa (bumpDrops cb), false)
    else
      let va := BitVec.ofNat 64 (field cb 0 8 + 16 * (w % 2 ^ field cb 8 1))
      let b := s.access s.freeCtr ck va .write
      let s := (s.keepTlb b.2).skip seedsPerAccess
      match b.1 with
      | .dev ea _ => ((s.storeDone ea entry).storeDone pa (patch cb 12 (leBytes 4 ((w + 1) % 2 ^ 32))), true)
      | .host key => ((s.writeHost key entry).storeDone pa (patch cb 12 (leBytes 4 ((w + 1) % 2 ^ 32))), true)
      | bad => ((s.storeDone pa (bumpDrops cb)).logAppend ck va bad, false)
  | .host _ => (s.logFault ck ring causeAccess false, false)
  | bad => (s.logAppend ck ring bad, false)

/-- R235: the pairs a core's filter holds for a resource, the most recent last. -/
def Core.filterOf (c : Core) (resid : Nat) : List (Nat × Nat) := (kget c.filter resid).getD []

/-- The pages asked for that a core's filter does not hold, each once. -/
def State.freshWants (s : State) (core : Nat) (d : LodDesc) (wants : List (Nat × Nat × Nat)) : List (Nat × Nat) :=
  ((wants.map fun w => (w.1, w.2.1)).eraseDups).filter fun p => !((s.core core).filterOf d.resid).contains p

/-- R234, R244: the lines that the appends of an instruction or copy reach: the control block's, and those of the entries that there is room for. -/
def State.appendLines (s : State) (core ck : Nat) (d : LodDesc) (wants : List (Nat × Nat × Nat)) : List (Nat × Bool × DWord) :=
  let n := (s.freshWants core d wants).length
  if d.ring = 0 || n = 0 then []
  else match (s.access s.freeCtr ck d.ring .atomic).1 with
    | .dev pa unc =>
      let cb := bytesAt (s.memBehind (lineOf pa)) pa 64
      let size := 2 ^ field cb 8 1
      (pa, unc, d.ring) :: (List.range n).filterMap fun i =>
        let w := (field cb 12 4 + i) % 2 ^ 32
        let va := BitVec.ofNat 64 (field cb 0 8 + 16 * (w % size))
        if (BitVec.ofNat 32 w - word32 ((cb.drop 16).take 4)).toNat < size then
          match (s.access s.freeCtr ck va .write).1 with | .dev ea unc => some (ea, unc, va) | _ => none
        else none
    | _ => []

/-- A list in some order (log 57). -/
def freeOrder {α : Type} (seed : Nat) : Nat → List α → List α
  | 0, _ => []
  | n + 1, l =>
    let i := Config.freeNat (seed + n) % l.length
    match l[i]? with | none => [] | some x => x :: freeOrder seed n (l.eraseIdx i)

/-- R234, R235: appends what an instruction or copy asks for, each level and page once; a page wanted with both kinds gets one of them. -/
def State.feedback (s : State) (core ck : Nat) (d : LodDesc) (wants : List (Nat × Nat × Nat)) : State :=
  if d.ring = 0 then s
  else
    let pages := (wants.map fun w => (w.1, w.2.1)).eraseDups
    (freeOrder s.freeCtr pages.length pages).foldl (fun s p =>
      if ((s.core core).filterOf d.resid).contains p then s
      else
        let kind := oneOf s.freeCtr 0 ((wants.filter fun w => (w.1, w.2.1) = p).map (·.2.2))
        let entry := leBytes 4 d.resid ++ leBytes 4 p.2 ++ [BitVec.ofNat 8 p.1, BitVec.ofNat 8 kind] ++ List.replicate 6 0
        match (s.skip 1).appendEntry ck d.ring entry with
        | (s, false) => s
        | (s, true) => s.modCore core fun c =>
          let l := c.filterOf d.resid ++ [p]
          { c with filter := kset c.filter d.resid (l.drop (l.length - 32)) }) (s.skip pages.length)

/-! ### Precision elements (R226, R231) -/

/-- R231: a codebook value or f8a element in a format; toward f8a a finite value saturates and an infinity becomes the NaN. -/
def convertLevel (f : Fmt) (v : Val) : Nat :=
  match v with
  | .inf _ => if f.inf then f.encode .rne false v else f.qnan
  | _ => f.encode .rne (!f.inf) v

/-- R226: the page that holds the element at a level-0 byte offset, at each level. -/
def precisionFoot (o lv : Nat) : List (Nat × Nat) := [(lv, if lv = 0 then o / 65536 else o / 131072)]

/-- R226: a level-1 index. -/
def nibbleAt (o : Nat) (b : Byte) : Nat := if o % 2 = 0 then b.toNat % 16 else b.toNat / 16

/-- The element at an offset at the level chosen: a level-0 value, or a level-1 index. -/
inductive Elem | value (v : Val) | index (i : Nat)
  deriving DecidableEq, Repr

def Rd.element (x : Rd) (d : LodDesc) (o lv : Nat) : Rd × Res Elem :=
  if lv = 0 then andThen (x.read (d.baseOf 0 + BitVec.ofNat 64 o) 1) fun x l => (x, .ok (.value (fmtF8a.decode (leNat l))))
  else andThen (x.read (d.baseOf 1 + BitVec.ofNat 64 (o / 2)) 1) fun x l => (x, .ok (.index (nibbleAt o ((l[0]?).getD 0))))

/-- R224: the value of an entry of CODEBOOK. -/
def Rd.codeValue (x : Rd) (d : LodDesc) (i : Nat) : Rd × Res Val :=
  andThen (x.read (d.codebook + BitVec.ofNat 64 (16 * i)) 2) fun x l => (x, .ok (fmtF16.decode (leNat l)))

/-- R228, R231: an element of a precision resource in a format, its choice of level with it; zero without data. -/
def Rd.precision (x : Rd) (d : LodDesc) (o : Nat) (f : Fmt) : Rd × Res (Nat × Choice) :=
  andThen (x.choose d 0 (precisionFoot o)) fun x ch =>
    match ch.level with
    | none => (x, .ok (0, ch))
    | some lv => andThen (x.element d o lv) fun x el =>
      match el with
      | .value v => (x, .ok (convertLevel f v, ch))
      | .index i => andThen (x.codeValue d i) fun x v => (x, .ok (convertLevel f v, ch))

/-! ### LDLOD and LODQ (R435, R436) -/

/-- The reads of a group's instruction through the async proxy (R260), those of its sampler, which sees its own IMGSTs (R472), and those of LDLOD and
LODQ, which are no reads of the async proxy. -/
def Env.rd (e : Env) (s : State) : Rd := Rd.new s e.g.core e.ck e.g.unfenced
def Env.texRd (e : Env) (s : State) : Rd := Rd.new s e.g.core e.ck (e.g.unfenced.filter fun x => !texEntry x)
def Env.plainRd (e : Env) (s : State) : Rd := Rd.new s e.g.core e.ck []

/-- One thread's outcome: register words, the status word it reports, the pages it asks for, or how its access went. -/
structure ThreadOut where
  words : List (Nat × Word) := []
  status : Word := 0
  wants : List (Nat × Nat × Nat) := []
  bad : Option ThreadAcc := none

/-- R225: a descriptor that breaks its table traps the threads that named it. -/
def State.badDesc (s : State) (e : Env) (mask : Mask) (va : DWord) : State :=
  s.takeTrap e.gid { cause := causeIllegalOperand, pc := e.g.pc, mask := mask, addr := va }

/-- Each thread in turn. -/
def eachThread (x : Rd) (f : Rd → Nat → Rd × ThreadOut) (ts : List Nat) : Rd × List ThreadOut :=
  ts.foldl (fun r t => match f r.1 t with | (x, o) => (x, r.2 ++ [o])) (x, [])

/-- R406, R424, R197: the words, feedback and faults of an instruction whose data come later. -/
def State.finishReads (s : State) (e : Env) (d : Option LodDesc) (outs : List ThreadOut) : State :=
  let bad := outs.filterMap (·.bad)
  let s := s.afterThreads e.ck bad
  let s := match d with | some d => s.feedback e.g.core e.ck d (outs.flatMap fun (o : ThreadOut) => o.wants) | none => s
  let n (bit : Nat) : Nat := (outs.filter fun (o : ThreadOut) => o.status.getLsbD bit).length
  (((s.count e.gid 15 (n 9)).count e.gid 16 (n 11)).issueItems e.gid true
    { items := outs.flatMap fun (o : ThreadOut) => o.words.map fun w => RespItem.val false w.1 w.2 }).settle e bad none

/-- The lines that the feedback of an instruction's threads reaches. -/
def State.outLines (s : State) (e : Env) (d : Option LodDesc) (outs : List ThreadOut) : List (Nat × Bool × DWord) :=
  match d with
  | some d => s.appendLines e.g.core e.ck d (outs.flatMap fun (o : ThreadOut) => o.wants)
  | none => []

/-- R435, R436: an instruction over a precision resource: ordinary reads, beyond the L1. -/
def lodInstr (sh : Sheet) (f : F3) (s : State) (per : LodDesc → Nat → Nat → Rd → Rd × ThreadOut) : Outcome :=
  withF3 sh f s fun e s =>
    let ts := bitsOf (e.g.pred f.pm.toNat)
    let va := e.g.regs.sget64 (regOf f.a)
    if ts = [] then s.advance e.gid
    else match (e.plainRd s).desc va with
      | (x, .acc a acc) => (x.s.countFree e.gid 12).finishReads e none (ts.map fun t => { bad := some { t := t, addr := a, acc := acc } })
      | (x, .ok none) => x.s.badDesc e (maskOf ts) va
      | (x, .ok (some d)) =>
        if !d.precision then x.s.badDesc e (maskOf ts) va
        else match eachThread x (fun x t =>
            let o := (e.g.src 0 f.b t).toNat
            if o ≥ 65536 * d.pages 0 then (x, { bad := some { t := t, addr := BitVec.ofNat 64 o, acc := .stop causeAccess none } })
            else per d o t x) ts with
          | (x, outs) => e.heldOr s f.md.toNat x (x.s.outLines e (some d) outs) fun s =>
            ((s.dropLines e.g.core x.seen).countFree e.gid 11).finishReads e (some d) outs

/-- LDLOD (R435). -/
def execLdlod (f : F3) (s : State) : Outcome :=
  lodInstr (ldlodSheet f) f s fun d o t x =>
    match x.precision d o fmtF32 with
    | (x, .acc a acc) => (x, { bad := some { t := t, addr := a, acc := acc } })
    | (x, .ok (v, ch)) =>
      (x, { words := [(128 * regOf f.d + t, BitVec.ofNat 32 v), (128 * (regOf f.d + 1) + t, ch.status)], status := ch.status, wants := ch.wants })

/-- LODQ (R436): no element is read and nothing is appended. -/
def execLodq (f : F3) (s : State) : Outcome :=
  lodInstr (lodqSheet f) f s fun d o t x =>
    match x.choose d 0 (precisionFoot o) with
    | (x, .acc a acc) => (x, { bad := some { t := t, addr := a, acc := acc } })
    | (x, .ok ch) => (x, { words := [(128 * regOf f.d + t, ch.status)], status := ch.status })

end Sys2Proof.Machine
end

