-- ==== Sys2Proof/Machine/Copy.lean ====
section
/-! DEFINITION. Layout records and the copy engine: LAYMAKE, LAYCHK, CPYIN, CPYOUT, CPYMC, CPYCB, CBLOAD and the completion and stop of a
copy (R443-R456, R195, R238). -/
namespace Sys2Proof.Machine

/-! ### Layout records (R443-R447) -/

/-- R443: the record in 24 scalar registers. -/
def Regs.layout (r : Regs) (a : Nat) : Layout :=
  { base := r.sget64 a, format := r.sget (a + 2), ndim := r.sget (a + 3), ext := (List.range 5).map fun k => r.sget (a + 4 + k)
    stride := (List.range 5).map fun k => r.sget64 (a + 9 + 2 * k), flags := r.sget (a + 19), status := r.sget (a + 20)
    rsvd := (List.range 3).map fun k => r.sget (a + 21 + k) }

def Layout.lod (l : Layout) : Bool := l.flags.getLsbD 0
def Layout.column (l : Layout) : Bool := l.flags.getLsbD 1
def Layout.codebook (l : Layout) : Bool := l.flags.getLsbD 2
def Layout.extent (l : Layout) (k : Nat) : Nat := ((l.ext[k]?).map (·.toNat)).getD 0
def Layout.strideOf (l : Layout) (k : Nat) : Nat := ((l.stride[k]?).map (·.toNat)).getD 0
def Layout.ty (l : Layout) : Nat := l.format.toNat % 16
def Layout.dims (l : Layout) : Nat := l.ndim.toNat

/-- R443: the size of an element in half bytes. -/
def nibbles (ty : Nat) : Nat := 2 * (elemBits ty / 8) + if elemBits ty = 4 then 1 else 0

def Layout.used (l : Layout) : List Nat := List.range l.dims
def Layout.unused (l : Layout) : List Nat := (List.range 5).drop l.dims

/-- R446: the first check that fails, or 0. -/
def Layout.cause (l : Layout) : Nat :=
  let e := nibbles l.ty
  if !canonical l.base || l.base.toNat % (if l.lod then 64 else 16) ≠ 0 then 1
  else if l.ty = 15 || l.format.toNat ≥ 16 then 2
  else if l.dims < 1 || l.dims > 5 then 3
  else if l.used.any (fun k => l.extent k = 0) || l.unused.any (fun k => l.extent k ≠ 0 || l.strideOf k ≠ 0) then 4
  else if (if e = 1 then l.strideOf 0 ≠ 0 else 2 * l.strideOf 0 % e ≠ 0)
      || (l.used.drop 1).any (fun k => 2 * l.strideOf k % e ≠ 0 || l.strideOf k % 16 ≠ 0)
      || (List.range 5).any (fun k => l.strideOf k ≥ 2 ^ 48) then 5
  else if (if l.column then l.extent 0 > 32 || l.dims < 2 || (e = 1 && l.extent 1 % 2 ≠ 0) else l.extent 0 * e % 64 ≠ 0) then 6
  else if l.flags.toNat ≥ 8 || (l.lod && l.codebook) || (l.lod && l.ty ≠ 11) || (l.codebook && l.ty ≠ 5 && l.ty ≠ 7) then 7
  else if l.rsvd.any (· ≠ 0) then 8
  else 0

def Layout.count (l : Layout) : Nat := l.used.foldl (fun n k => n * l.extent k) 1
/-- Elements of one slice of a COLUMN record. -/
def Layout.perSlice (l : Layout) : Nat := (l.used.drop 1).foldl (fun n k => n * l.extent k) 1
/-- The bytes of a local image with elements of `n` half bytes; of one slice with COLUMN. -/
def Layout.image (l : Layout) (n : Nat) : Nat := ((if l.column then l.perSlice else l.count) * n + 1) / 2

/-- LAYMAKE (R446). -/
def execLaymake (f : F3) (s : State) : Outcome :=
  withF3 (scalarX 3 .zero (sReg 24 1) .zero f) f s fun e s =>
    let a := regOf f.a
    let l := e.g.regs.layout a
    let c := l.cause
    let st := if c = 0 then 0x80000000#32 else (l.status &&& 0x70FFFFFF#32) ||| (BitVec.ofNat 32 c <<< 24)
    s.finish e ((e.g.regs.sset (a + 20) st).cset (f.x.extractLsb' 0 3).toNat (c = 0))

/-- LAYCHK (R447). -/
def execLaychk (f : F3) (s : State) : Outcome :=
  withF3 (scalarPlain (sDst 1) (sReg 24 1) .zero f) f s fun e s =>
    let l := e.g.regs.layout (regOf f.a)
    s.finishS e f.d (if l.cause ≠ 0 || l.image (nibbles l.ty) > 0xFFFFFFFE then 0xFFFFFFFF#32 else BitVec.ofNat 32 (l.image (nibbles l.ty)))

/-! ### Issue (R448, R452) -/

/-- R195: whether a copy may enter the queue, and whether it takes its block's reserved entry. -/
def State.copyEntry (s : State) (core bid : Nat) : Option Bool :=
  let q := (s.core core).copyq
  let shared := Config.copyEntries - (s.blocks.filter fun e => e.2.core = core && e.2.resident).length
  if (q.filter fun c => !c.reserved).length < shared then some false
  else if q.length ≥ Config.copyEntries || q.any fun c => c.reserved && c.bid = bid then none else some true

/-- R456: P of a multicast, when S[D] and the record allow it. -/
def multicastPart (l : Layout) (team : Nat) (d : Word) : Option Nat :=
  let x := l.extent (l.dims - 1)
  let common := (d.extractLsb' 20 12).toNat
  if d.extractLsb' 18 2 ≠ 0 || (d.extractLsb' 0 18).toNat % 32 ≠ 0 || x ≤ common || (x - common) % team ≠ 0 then none else some ((x - common) / team)

/-- R456: the half bytes of the local image per index along the outermost dimension. -/
def Layout.perOuter (l : Layout) (n : Nat) : Nat := (if l.column then l.perSlice else l.count) / l.extent (l.dims - 1) * n

/-- R452 step 6: the end of the local image that lies highest. -/
def copyEnd (c : Copy) (team n : Nat) : Nat :=
  if c.fn = 2 then
    match multicastPart c.recd team c.dval with
    | none => 0
    | some p =>
      let cb := ((c.dval.extractLsb' 20 12).toNat * c.recd.perOuter n + 1) / 2
      c.off + cb + (team - 1) * (c.dval.extractLsb' 0 18).toNat + (p * c.recd.perOuter n + 1) / 2
  else c.off + c.recd.image n

/-- R449, R455: the half bytes of a local element. -/
def copyNibbles (c : Copy) (vlen : Nat) : Nat :=
  if c.fn = 3 then vlen * nibbles c.ty else if c.ty ≠ 0 then nibbles c.ty else nibbles c.recd.ty

/-- R452 step 4 for a record. -/
def recordFits (fn ty : Nat) (kind : Bool) (l : Layout) : Bool :=
  l.cause = 0 && l.status.getLsbD 31 && l.column == kind && (!l.lod || fn = 0 || fn = 3) && (fn ≠ 0 || (l.lod == (ty ≠ 0)))
    && l.codebook == (fn = 3 && !l.lod)

/-- R452 step 5: the tag that the codebook store shows. -/
def codebookTag (c : Option Codebook) : DWord :=
  match c with
  | none => 0xFFFF#64
  | some b => BitVec.ofNat 64 (b.kset + 65536 * b.ty)

/-- R452 step 7. -/
def resumeFits (l : Layout) (iter : List Word) : Bool :=
  (List.range 5).all fun k => let i := ((iter[k]?).map (·.toNat)).getD 0; if k < l.dims then i < l.extent k else i = 0

/-- R225, R238: the level descriptor as it reads at issue: its bytes; whether it is known not to be a legal one of KIND 1. -/
def Env.copyDesc (e : Env) (s : State) (l : Layout) : Rd × List Byte × Bool :=
  match (e.rd s).read l.base 320 with
    | (x, .ok b) => match x.descBytes l.base b with | (x, b) => (x, b, !(lodOk b && (LodDesc.parse b).precision))
    | (x, .acc ..) => (x, [], false)

/-- R452 steps 7 and 8: the copy enters the queue, or the instruction waits. -/
def State.enqueueCopy (s : State) (e : Env) (c : Copy) (resume : Bool) : State :=
  match s.copyEntry e.g.core e.g.block with
  | none => s.waitAt e.gid .copyEntry
  | some res =>
    let put (s : State) (c : Copy) : State :=
      ({ s with nextId := s.nextId + 1 }.modCore e.g.core fun k => { k with copyq := k.copyq ++ [{ c with reserved := res, issued := s.nextId }] }).setRegs
        e.gid (if c.fn = 4 then e.g.regs else { e.g.regs with awaits := e.g.regs.awaits ++ [(c.statusReg, s.nextId)] })
    if resume then
      match e.b.stopped.find? fun o => o.k = c.k && o.fn = c.fn with
      | none => s.illegalOperand e
      | some o =>
        (put (s.modBlock e.g.block fun b => { b with stopped := b.stopped.erase o })
          { c with sum := o.sum, start := (List.range 5).map fun k => ((e.g.trap.iter[k]?).map (·.toNat)).getD 0
                   begun := (List.range 5).map fun k => ((e.g.trap.iter[k]?).map (·.toNat)).getD 0 }).advance e.gid
    else if e.b.kval c.k = 0xFFFF then s.waitAt e.gid (.counterRoom c.k 1)
    else
      let s := (s.kput e.g.block c.k (e.b.kval c.k + 1)).modBlock e.g.block fun b => { b with openOps := b.openOps + 1 }
      (put s c).advance e.gid

def Env.copyOf (e : Env) (fn : Nat) (f : F3) (l : Layout) : Copy :=
  { fn := fn, ty := f.ty.toNat, bstore := f.x.getLsbD 5, k := knum f, bid := e.g.block, gid := e.gid, groupUid := e.g.uid, recd := l
    off := (e.g.s32 f.b).toNat, dval := if fn = 2 then e.g.regs.sget (regOf f.d) else 0, statusReg := regOf f.a + 20
    start := [0, 0, 0, 0, 0], reserved := false, issued := 0, unfenced := e.g.unfenced }

/-- R452 steps 4 to 8: the checks of a copy over a layout record, with what its level descriptor reads as. -/
def State.checkCopy (s : State) (e : Env) (fn : Nat) (f : F3) (desc : List Byte) (badDesc : Bool) : State :=
  let l := e.g.regs.layout (regOf f.a)
  let kind := f.x.getLsbD 5
  let resume := f.x.getLsbD 6
  let c := e.copyOf fn f l
  let cb := (s.core e.g.core).codebook
  let vlen := (cb.map (·.vlen)).getD 1
  let team := e.l.recd.team
  if !recordFits fn c.ty kind l || badDesc || (fn = 2 && (multicastPart l team c.dval).isNone) then
    s.trapHere e causeAsyncRecord (BitVec.ofNat 64 (regOf f.a))
  else if fn = 3 && !(match cb with
      | some b => b.kset = e.b.kset && b.ty = c.ty && (!l.lod || b.vlen = 1)
      | none => false) then s.trapHere e causeAsyncCodebook (codebookTag cb)
  else if c.off % (if kind then 16 else 32) ≠ 0 || copyEnd c team (copyNibbles c vlen) > (if kind then Config.sliceBytes else e.ownSpm.2) then
    s.trapHere e causeAsyncBounds (BitVec.ofNat 64 c.off)
  else if resume && !((e.b.stopped.any fun o => o.k = c.k && o.fn = fn) && resumeFits l e.g.trap.iter) then s.illegalOperand e
  else s.enqueueCopy e { c with desc := desc, vlen := vlen } resume

/-- R452: a copy over a layout record. -/
def issueCopy (fn : Nat) (sh : Sheet) (f : F3) (s : State) : Outcome :=
  withF3If (fun e => fn ≠ 2 || !e.travel) sh f s fun e s =>
    let l := e.g.regs.layout (regOf f.a)
    if f.x.getLsbD 5 && !e.ownsMatrix then s.trapWord e causeMatrixOwner
    else if !l.lod then s.checkCopy e fn f [] false
    else match e.copyDesc s l with
      | (x, desc, badDesc) => e.heldOr s 0 x [] fun s => s.checkCopy e fn f desc badDesc

/-- CPYIN (R448, R449, R452). -/
def execCpyin (f : F3) (s : State) : Outcome := issueCopy 0 (cpySheet [0, 8, 9, 10, 11] true .zero f) f s
/-- CPYOUT (R448, R449, R452). -/
def execCpyout (f : F3) (s : State) : Outcome := issueCopy 1 (cpySheet [0] false .zero f) f s
/-- CPYMC (R448, R452, R456). -/
def execCpymc (f : F3) (s : State) : Outcome := issueCopy 2 (cpySheet [0] true (sReg 1 1) f) f s
/-- CPYCB (R448, R452, R455). -/
def execCpycb (f : F3) (s : State) : Outcome := issueCopy 3 (cpySheet [9, 11, 12] true .zero f) f s

/-- R451: B of CBLOAD. -/
def cbloadOk (ty : Nat) (b : Word) : Bool :=
  let n := (b.extractLsb' 0 9).toNat
  1 ≤ n && n ≤ 256 && b.extractLsb' 9 7 = 0 && b.extractLsb' 20 12 = 0 && (b.extractLsb' 16 4).toNat ≤ 4
    && 2 ^ (b.extractLsb' 16 4).toNat * nibbles ty ≤ 32

/-- CBLOAD (R448, R451, R452). -/
def execCbload (f : F3) (s : State) : Outcome :=
  withF3 (cbloadSheet f) f s fun e s =>
    let a := e.g.regs.sget64 (regOf f.a)
    let b := e.g.s32 f.b
    if a.toNat % 16 ≠ 0 || !cbloadOk f.ty.toNat b then s.trapHere e causeAsyncRecord (BitVec.ofNat 64 (regOf f.a))
    else s.enqueueCopy e { (e.copyOf 4 f { base := a }) with
      bstore := false, nent := (b.extractLsb' 0 9).toNat, vlen := 2 ^ (b.extractLsb' 16 4).toNat } false

/-! ### Performing a copy (R449-R451, R453-R456, R238) -/

/-- R449: the index vector of an element. -/
def Layout.indexOf (l : Layout) (n : Nat) : List Nat :=
  (l.used.foldl (fun (r : Nat × List Nat) k => (r.1 / l.extent k, r.2 ++ [r.1 % l.extent k])) (n, [])).2 ++ (l.unused.map fun _ => 0)
def Layout.linear (l : Layout) (i : List Nat) : Nat :=
  (l.used.foldl (fun (r : Nat × Nat) k => (r.1 * l.extent k, r.2 + r.1 * (i[k]?).getD 0)) (1, 0)).2

/-- R449: an element's global offset from BASE in half bytes. -/
def Layout.globalNib (l : Layout) (i : List Nat) : Nat :=
  2 * (l.used.map fun k => (i[k]?).getD 0 * l.strideOf k).sum + if nibbles l.ty = 1 then (i[0]?).getD 0 else 0

/-- R449, R450, R456: where an element goes locally: its slice, and half bytes from the start of a scratchpad or slice; the rank that alone
receives it, when one does. -/
structure LocalPlace where
  slice : Nat
  nib : Nat
  rank : Option Nat
  deriving DecidableEq, Repr

def copyPlace (c : Copy) (team vlen n : Nat) : LocalPlace :=
  let l := c.recd
  let e := copyNibbles c vlen
  let m := if l.column then n / l.extent 0 else n
  let slice := if l.column then n % l.extent 0 else 0
  if c.fn ≠ 2 then { slice := slice, nib := 2 * c.off + m * e, rank := none }
  else
    let p := ((multicastPart l team c.dval).getD 1)
    let common := (c.dval.extractLsb' 20 12).toNat
    let outer := ((l.indexOf n)[l.dims - 1]?).getD 0
    if outer < common then { slice := slice, nib := 2 * c.off + m * e, rank := none }
    else
      let r := (outer - common) / p
      { slice := slice, rank := some r
        nib := 2 * (c.off + (common * l.perOuter e + 1) / 2 + r * (c.dval.extractLsb' 0 18).toNat) + (m * e - (common + r * p) * l.perOuter e) }

/-- R450: the elements in the order in which their destinations are written. -/
def copyOrder (l : Layout) : List Nat :=
  if l.column then (List.range (l.extent 0)).flatMap fun i => (List.range l.perSlice).map fun m => m * l.extent 0 + i else List.range l.count

/-- The destination sector of an element. -/
def copySector (c : Copy) (team vlen n : Nat) : Nat × Nat × Option Nat :=
  if c.fn = 1 then (0, (2 * c.recd.base.toNat + c.recd.globalNib (c.recd.indexOf n)) / 64, none)
  else let p := copyPlace c team vlen n; (p.slice, p.nib / 64, p.rank)

/-- Runs of elements that fall into one sector. -/
def sectorRuns (key : Nat → Nat × Nat × Option Nat) : List Nat → List (List Nat)
  | [] => []
  | n :: rest => match sectorRuns key rest with
    | (m :: r) :: more => if key n = key m then (n :: m :: r) :: more else [n] :: (m :: r) :: more
    | other => [n] :: other

/-- Writes half bytes of a local store given by its bytes. -/
def patchNibbles (read : Nat → Byte) (nib n v : Nat) : Nat × List Byte :=
  let first := nib / 2
  let last := (nib + n - 1) / 2
  (first, (List.range (last + 1 - first)).map fun i =>
    let half (k old : Nat) : Nat := let p := 2 * (first + i) + k; if nib ≤ p && p < nib + n then v / 16 ^ (p - nib) % 16 else old
    let b := (read (first + i)).toNat
    BitVec.ofNat 8 (half 0 (b % 16) + 16 * half 1 (b / 16)))

/-- An async write to a scratchpad or B-store: operations under way may still read the old bytes, and those that the groups given issue
before they observe counter `k` at zero (R463). -/
def State.localWrite (s : State) (p : Group → Bool) (k bid core : Nat) (spm : SpmAt) (bstore : Bool) (slice nib n v : Nat) : State :=
  if bstore then
    let base := Config.sliceBytes * slice
    let w := patchNibbles (fun a => sget (s.core core).bstore (base + a)) nib n v
    let a := base + w.1
    let old := sectorBits (bytesAt (s.core core).bstore (a / 32 * 32) 32)
    let s := (s.noteOld (fun _ => false) (· = bid) (bstoreKey a) old).noteOld p (fun _ => false) (copyTag k + bstoreKey a) old
    s.modCore core fun c => { c with bstore := setBytes c.bstore a w.2 }
  else
    let w := patchNibbles (fun a => ((s.spmRead spm a 1)[0]?).getD 0) nib n v
    let old := sectorBits (s.spmRead spm (w.1 / 32 * 32) 32)
    let s := (s.noteOld (fun _ => false) (· = bid) (spmKey w.1) old).noteOld p (fun _ => false) (copyTag k + spmKey w.1) old
    s.spmWriteRaw spm w.1 w.2

/-- R438, R456: the blocks that receive a copy's local image. -/
def State.copyTargets (s : State) (c : Copy) (rank : Option Nat) : List (Nat × Block) :=
  match kget s.blocks c.bid with
  | none => []
  | some b =>
    if c.fn ≠ 2 then [(c.bid, b)]
    else s.blocks.filter fun e => e.2.launch = b.launch && e.2.team = b.team && (rank.isNone || rank = some e.2.rank)

/-- The scratchpad of a block (R143, R191). -/
def State.spmOfBlock (s : State) (bid : Nat) (b : Block) : SpmAt :=
  match s.kindOf b.launch with | .travel _ => .segment b.core | _ => .block bid

/-- A copy's local bytes as the async proxy reads them. -/
def State.localSource (s : State) (seed : Nat) (c : Copy) (nib n : Nat) : Nat :=
  match kget s.blocks c.bid with
  | none => 0
  | some b =>
    let spm := s.spmOfBlock c.bid b
    leNat (s.spmSeen seed c.unfenced asyncKeys spm (nib / 2) ((nib + n + 1) / 2 - nib / 2)) / 16 ^ (nib % 2) % 16 ^ n

/-- A step of a copy: its reads, what its elements have come to, the pages that they ask for (R234) and the lines written. -/
structure CopyAcc where
  x : Rd
  sum : CopySum
  wants : List (Nat × Nat × Nat) := []
  wrote : List (Nat × Bool × DWord) := []

def CopyAcc.note (a : CopyAcc) (d : LodDesc) (ch : Choice) : CopyAcc :=
  { a with wants := a.wants ++ ch.wants
           sum := { a.sum with used := max a.sum.used (ch.level.getD (d.nlev - 1)), fallback := a.sum.fallback || ch.status.getLsbD 9
                               nodata := a.sum.nodata || ch.level.isNone } }
def CopyAcc.range (a : CopyAcc) (x : Rd) (bad : Bool) : CopyAcc := { a with x := x, sum := { a.sum with cbrange := a.sum.cbrange || bad } }

/-- R455: the elements of a codebook entry; an entry of a store that is empty is free, since nothing says what it reads as (log 31). -/
def codeEntry (seed : Nat) (cb : Option Codebook) (c : Copy) (i n : Nat) : Nat × Bool :=
  match cb with
  | some b => if i < b.nent then (leNat ((b.bytes.drop (16 * i)).take 16) % 16 ^ n, false) else (0, true)
  | none => (Config.freeNat (seed + i + c.issued) % 16 ^ n, false)

/-- R449: the value an element's destination receives, in half bytes, or the access that did not succeed. -/
def copyValue (a : CopyAcc) (c : Copy) (d : Option LodDesc) (vlen n : Nat) : CopyAcc × Option (DWord × Acc) × Nat :=
  let l := c.recd
  let e := copyNibbles c vlen
  let g := l.globalNib (l.indexOf n)
  let cb := (a.x.s.core a.x.core).codebook
  let plain (k : Nat) : Rd × Res Nat :=
    andThen (a.x.read (l.base + BitVec.ofNat 64 (g / 2)) ((k + 1) / 2)) fun x b => (x, .ok (leNat b / 16 ^ (g % 2) % 16 ^ k))
  let fail (x : Rd) (ad : DWord) (ac : Acc) : CopyAcc × Option (DWord × Acc) × Nat := ({ a with x := x }, some (ad, ac), 0)
  match d with
  | none =>
    match plain (nibbles l.ty) with
    | (x, .acc ad ac) => fail x ad ac
    | (x, .ok v) =>
      if c.fn = 3 then let r := codeEntry x.s.freeCtr cb c v e; (a.range x r.2, none, r.1)
      else ({ a with x := x }, none, v)
  | some d =>
    let o := g / 2
    if c.fn = 3 then
      match a.x.choose d 0 (precisionFoot o) with
      | (x, .acc ad ac) => fail x ad ac
      | (x, .ok ch) => match ch.level with
        | none => (({ a with x := x }.note d ch), none, 0)
        | some lv => match x.element d o lv with
          | (x, .acc ad ac) => fail x ad ac
          | (x, .ok (.value v)) => (({ a with x := x }.note d ch), none, convertLevel (fmtOf c.ty) v)
          | (x, .ok (.index i)) =>
            let r := codeEntry x.s.freeCtr cb c i e
            (({ a with x := x }.note d ch).range x r.2, none, r.1)
    else match a.x.precision d o (fmtOf c.ty) with
      | (x, .acc ad ac) => fail x ad ac
      | (x, .ok (v, ch)) => (({ a with x := x }.note d ch), none, v)

/-- Reads a sector's elements, or the failure of one. -/
def copyValues (c : Copy) (d : Option LodDesc) (vlen : Nat) : CopyAcc → List Nat → CopyAcc × Option (DWord × Acc) × List (Nat × Nat)
  | a, [] => (a, none, [])
  | a, n :: rest => match copyValue a c d vlen n with
    | (a, some f, _) => (a, some f, [])
    | (a, none, v) => match copyValues c d vlen a rest with
      | (a, f, l) => (a, f, (n, v) :: l)

/-- R450: the writes of one local sector. -/
def State.copyLocal (s : State) (c : Copy) (team vlen : Nat) (vals : List (Nat × Nat)) : State :=
  vals.foldl (fun s x =>
    let p := copyPlace c team vlen x.1
    (s.copyTargets c p.rank).foldl (fun s b =>
      s.localWrite (fun g => g.block = c.bid && b.1 = c.bid) c.k b.1 b.2.core (s.spmOfBlock b.1 b.2) c.bstore p.slice p.nib (copyNibbles c vlen) x.2) s) s

/-- R258, R449: what a sector holds with a copy's elements `ns` put into it, from the first byte that one touches to the last; `pos` gives an element's
place in it in half bytes. -/
def sectorPatch (old : List Byte) (e : Nat) (pos val : Nat → Nat) (ns : List Nat) : Nat × List Byte :=
  let lo := (ns.map fun n => pos n / 2).foldl min 32
  let hi := (ns.map fun n => (pos n + e + 1) / 2).foldl max 0
  let new := ns.foldl (fun b n => let w := patchNibbles (fun k => (b[k]?).getD 0) (pos n) e (val n); patch b w.1 w.2) old
  (lo, (new.drop lo).take (hi - lo))

/-- R258, R450: CPYOUT's write of one global sector: translated first, then written at once. Bytes between its elements are as the writes before it
leave them (R218). -/
def copyGlobal (a : CopyAcc) (c : Copy) (ns : List Nat) : CopyAcc × Option (DWord × Acc) :=
  let l := c.recd
  let e := nibbles l.ty
  let nib (n : Nat) : Nat := l.globalNib (l.indexOf n)
  match ns with
  | [] => (a, none)
  | n0 :: _ =>
    let va := l.base + BitVec.ofNat 64 (nib n0 / 2)
    let s := a.x.s
    let r := s.access s.freeCtr a.x.ck va .write
    let s := (s.keepTlb r.2).skip seedsPerAccess
    let new (old : List Byte) : Nat × List Byte :=
      sectorPatch old e (fun n => (2 * l.base.toNat + nib n) % 64) (fun n => s.localSource a.x.seed c (copyPlace c 1 1 n).nib e) ns
    match r.1 with
    | .dev pa unc =>
      let w := new (bytesAt (s.memBehind (lineOf pa)) (pa / 32 * 32) 32)
      let who : Writer := { uid := c.issued, core := some a.x.core, own := false, lid := ((kget s.blocks c.bid).map (·.launch)).getD 0, ck := a.x.ck }
      ({ a with x := { a.x with s := (s.cross (s.dieOf a.x.core) pa).storeDev who (pa / 32 * 32 + w.1) w.2 }, wrote := a.wrote ++ [(pa, unc, va)] }, none)
    | .host key =>
      let w := new (bytesAt s.hostMem (key / 32 * 32) 32)
      ({ a with x := { a.x with s := s.writeHost (key / 32 * 32 + w.1) w.2 } }, none)
    | acc => ({ a with x := { a.x with s := s } }, some (va, acc))

/-- The sectors of a copy in order, up to the first that fails. -/
def copySectors (c : Copy) (d : Option LodDesc) (team vlen : Nat) : CopyAcc → List (List Nat) → CopyAcc × Option (DWord × Acc × Nat)
  | a, [] => (a, none)
  | a, ns :: rest =>
    let first := (ns[0]?).getD 0
    if c.fn = 1 then match copyGlobal a c ns with
      | (a, some (ad, ac)) => (a, some (ad, ac, first))
      | (a, none) => copySectors c d team vlen a rest
    else match copyValues c d vlen a ns with
      | (b, some (ad, ac), _) => ({ b with sum := a.sum }, some (ad, ac, first))
      | (a, none, vals) => copySectors c d team vlen { a with x := { a.x with s := a.x.s.copyLocal c team vlen vals } } rest

/-- How far a copy gets: to its end, or part of the way, or to the access that parks or stops it, with the index vector it goes on from. -/
inductive CopyOut
  | done (a : CopyAcc) (d : Option LodDesc)
  | moved (a : CopyAcc) (d : Option LodDesc) (start : List Nat)
  | broken (a : CopyAcc) (d : Option LodDesc) (addr : DWord) (acc : Acc) (start : List Nat)

/-- R451: CBLOAD's read. Its index vector is not stated (log 31). -/
def runCbload (a : CopyAcc) (c : Copy) (kset : Nat) : CopyOut :=
  match a.x.read c.recd.base (16 * c.nent) with
  | (x, .ok l) =>
    let cb : Codebook := { kset := kset, ty := c.ty, nent := c.nent, vlen := c.vlen, bytes := l }
    .done { a with x := { x with s := x.s.modCore x.core fun k => { k with codebook := some cb } } } none
  | (x, .acc ad ac) => .broken { a with x := { x with s := x.s.skip 5 } } none ad ac ((List.range 5).map fun i => (Config.freeWord (x.s.freeCtr + i)).toNat)

/-- Performs what is left of a copy, or its next sector when more than that is left. -/
def State.runCopy (s : State) (core ck team kset : Nat) (one : Bool) (c : Copy) : CopyOut :=
  let a : CopyAcc := { x := Rd.new s core ck c.unfenced, sum := c.sum }
  if c.written then .done a none
  else if c.fn = 4 then runCbload a c kset
  else
    let go (a : CopyAcc) (d : Option LodDesc) : CopyOut :=
      let n0 := c.recd.linear c.start
      let order := (copyOrder c.recd).dropWhile (· ≠ n0)
      let runs := sectorRuns (copySector c team c.vlen) order
      match one, runs with
      | true, r :: (n :: _) :: _ => match copySectors c d team c.vlen a [r] with
        | (a, none) => .moved a d (c.recd.indexOf n)
        | (a, some (ad, ac, n)) => .broken a d ad ac (c.recd.indexOf n)
      | _, _ => match copySectors c d team c.vlen a runs with
        | (a, none) => .done a d
        | (a, some (ad, ac, n)) => .broken a d ad ac (c.recd.indexOf n)
    if !c.recd.lod then go a none
    else if c.desc ≠ [] then go a (some (LodDesc.parse c.desc))
    else match a.x.desc c.recd.base with
      | (x, .ok (some d)) => if d.precision then go { a with x := x } (some d) else .broken { a with x := x } none c.recd.base (.stop causeAccess none) c.start
      | (x, .ok none) => .broken { a with x := x } none c.recd.base (.stop causeAccess none) c.start
      | (x, .acc ad ac) => .broken { a with x := x } none ad ac c.start

/-- R453, R238, R444: the status word at completion, in the register that held it at issue; when the group has written the register in between, its
value may remain instead. -/
def State.copyStatus (s : State) (c : Copy) (a : CopySum) (lod : Bool) : State :=
  let bits := (if lod then a.used + (if a.fallback then 512 else 0) + (if a.nodata then 1024 else 0) else 0) + if a.cbrange then 32768 else 0
  let put (w : Word) : Word := (w &&& 0xFFFF0000#32) ||| BitVec.ofNat 32 bits
  if c.fn = 4 then s
  else match kget s.groups c.gid with
    | none => s
    | some g =>
      if g.uid ≠ c.groupUid then s
      else
        let now := g.regs.sget c.statusReg
        let kept := g.regs.awaits.contains (c.statusReg, c.issued)
        let v := if kept then put now else oneOf s.freeCtr (put now) [put now, now]
        (s.skip 1).setRegs c.gid { g.regs with s := Machine.sset g.regs.s c.statusReg v, awaits := g.regs.awaits.filter (· ≠ (c.statusReg, c.issued)) }

def State.setCopy (s : State) (core idx : Nat) (c : Copy) : State := s.modCore core fun k => { k with copyq := k.copyq.set idx c }
def State.dropCopy (s : State) (core idx : Nat) : State := s.modCore core fun k => { k with copyq := k.copyq.eraseIdx idx }

/-- R197: the bytes that a completed copy moved, a free number where the manual leaves it open (log 74). -/
def State.countCopy (s : State) (c : Copy) : State :=
  match kget s.groups c.gid with
  | none => s
  | some g =>
    let n := if c.fn = 4 then 32 * c.nent else c.recd.count * nibbles c.recd.ty
    if g.uid ≠ c.groupUid then s
    else if (c.fn = 4 || (c.fn ≤ 1 && !c.recd.lod)) && n % 2 = 0 && c.begun.all (· = 0) then s.count c.gid 14 (n / 2)
    else s.countFree c.gid 14

/-- R453, R126: the counter is decremented last. -/
def State.endCopy (s : State) (core idx : Nat) (c : Copy) : State :=
  (((s.countCopy c).dropCopy core idx).modBlock c.bid fun b => { b with openOps := b.openOps - 1 }).kdec c.bid c.k

/-- R454: a copy stops; its entry frees and its counter keeps counting it, unless no group of its block is left to see it. -/
def State.stopCopy (s : State) (core idx : Nat) (c : Copy) (addr : DWord) (cause : Nat) (start : List Nat) : State :=
  let c := { c with fault := addr, poison := cause = causePoison, start := start, parked := false, fills := [] }
  let s := (s.dropCopy core idx).modBlock c.bid fun b => { b with stopped := (b.stopped.filter fun o => o.issued < c.issued) ++ c :: b.stopped.filter fun o => c.issued ≤ o.issued }
  let left := s.groups.filter fun e => e.2.block = c.bid
  if left.all fun e => e.2.waitFor = .children then s.dropStopped c.bid else s

/-- What a copy's requester is to the L2 (R244). -/
def copyRequester (core ck : Nat) : Requester := { core := some core, ck := ck, va := 0, ev := true }

/-- R234: a copy's appends for the pages that it has not asked for before. -/
def State.copyFeedback (s : State) (core ck : Nat) (d : Option LodDesc) (a : CopyAcc) : State × CopySum :=
  match d with
  | none => (s, a.sum)
  | some d =>
    let new := a.wants.filter fun w => !a.sum.asked.contains (w.1, w.2.1)
    (s.feedback core ck d new, { a.sum with asked := a.sum.asked ++ (new.map fun w => (w.1, w.2.1)).eraseDups })

/-- The lines that those appends reach (R244). -/
def CopyAcc.appends (a : CopyAcc) (core ck : Nat) (d : Option LodDesc) : List (Nat × Bool × DWord) :=
  match d with
  | none => []
  | some d => a.x.s.appendLines core ck d (a.wants.filter fun w => !a.sum.asked.contains (w.1, w.2.1))

/-- R88: whether a block's partition is paused. -/
def State.blockPaused (s : State) (bid : Nat) : Bool :=
  match kget s.blocks bid with
  | none => false
  | some b => match kget s.launches b.launch with
    | none => false
    | some l => (s.part (partOfCtx l.ctx)).paused

/-- R195: a copy that the engine may work on: among the first four that are not parked, and for CBLOAD none before it is a CPYCB (R451). -/
def State.copyMayRun (s : State) (core idx : Nat) (c : Copy) : Bool :=
  let before := (s.core core).copyq.take idx
  !c.parked && c.fills = [] && !(s.core core).preempting && !s.blockPaused c.bid && (before.filter fun o => !o.parked).length < 4
    && (c.fn ≠ 4 || (!(before.any fun o => o.fn = 3) &&
      !s.blocks.any fun b => b.2.core = core && b.2.stopped.any fun o => o.fn = 3 && o.issued < c.issued))

/-- What a step of a copy may come to: one more sector written, the end or a park, or a stop. -/
inductive CopyGoal | move | finish | stop
  deriving DecidableEq, Repr

/-- A step of a copy; nothing happens when it does not come to `goal`. -/
def State.copyStep (s : State) (core idx : Nat) (goal : CopyGoal) : State :=
  match (s.core core).copyq[idx]? with
  | none => s
  | some c => match kget s.blocks c.bid with
    | none => s.dropCopy core idx
    | some b => match kget s.launches b.launch with
      | none => s
      | some l =>
        if !s.copyMayRun core idx c then s
        else
          let rq := copyRequester core l.ctx
          let settle (a : CopyAcc) (d : Option LodDesc) (f : State → State) : State :=
            let wrote := a.wrote ++ a.appends core l.ctx d
            match s.touchBoth rq a.x.seen wrote with
            | (s1, fills) =>
              if fills ≠ [] then s1.setCopy core idx { c with fills := fills, mapRead := true }
              else f (a.x.s.touchBoth rq a.x.seen wrote).1
          match s.runCopy core l.ctx l.recd.team b.kset (goal = .move) c with
          | .moved a d start => settle a d fun s =>
              match s.copyFeedback core l.ctx d a with
              | (s, sum) => s.setCopy core idx { c with start := start, sum := sum, mapRead := true }
          | .done a d =>
            if goal ≠ .finish then s
            else settle a d fun s =>
              match s.copyFeedback core l.ctx d a with
              | (s, sum) =>
                if s.writesPending c.issued then s.setCopy core idx { c with written := true, mapRead := true, sum := sum }
                else (s.copyStatus c sum c.recd.lod).endCopy core idx c
          | .broken a d ad acc start =>
            match acc with
            | .park ipa pri =>
              if goal ≠ .finish then s
              else settle a d fun s => match s.copyFeedback core l.ctx d a with
                | (s, sum) => s.setCopy core idx { c with parked := true, mapRead := true, fault := ad, start := start, sum := sum, parkIpa := if pri then none else some ipa }
            | .stop cause st2 =>
              if goal ≠ .stop then s
              else settle a d fun s => match s.copyFeedback core l.ctx d a with
                | (s, sum) =>
                  let s := match st2 with | some st => s.logFault l.ctx ad cause st | none => s
                  s.stopCopy core idx { c with sum := sum } ad cause start
            | _ => s

/-- R195, R450: a copy that the engine works on moves its next sector, when it is not the last. -/
def State.copyMove (s : State) (core idx : Nat) : State := if s.running then s.copyStep core idx .move else s
/-- COPY_COMPLETE (R453): a copy that the engine works on moves what is left of it and completes, or parks (R454). -/
def execCopyComplete (core idx : Nat) (s : State) : Outcome := .next (s.copyStep core idx .finish)
/-- COPY_STOP (R454): a copy that meets an unresolvable fault stops there. -/
def execCopyStop (core idx : Nat) (s : State) : Outcome := .next (s.copyStep core idx .stop)

end Sys2Proof.Machine
end

