-- ==== Sys2Proof/Machine/Pool.lean ====
section
/-! DEFINITION. The pool of a travelling launch, its arrival queues and its assembly buffers (R147, R149, R152). -/
namespace Sys2Proof.Machine

def State.travelOf (s : State) (lid : Nat) : Option TravelSt := match s.kindOf lid with | .travel t => some t | _ => none
def State.setTravel (s : State) (lid : Nat) (t : TravelSt) : State := s.modLaunch lid fun l => { l with kind := .travel t }
def State.modTravel (s : State) (lid : Nat) (f : TravelSt → TravelSt) : State :=
  s.modLaunch lid fun l => match l.kind with | .travel t => { l with kind := .travel (f t) } | _ => l
def State.modPinned (s : State) (core : Nat) (f : Pinned → Pinned) : State := s.modCore core fun c => { c with pinned := c.pinned.map f }

/-! ### The arrival queue (R149) -/

/-- R149, R157: records are written to their space in the pool's memory; where in the pool it lies and how a record is laid out the manual does not
say, so both are free (log 81). -/
def State.spill (s : State) (lid records : Nat) : State :=
  match kget s.launches lid, s.travelOf lid with
  | some l, some t =>
    let n := records * t.trsz
    let place := Config.freeNat s.freeCtr % (t.pooln - records + 1)
    (s.skip (n + 1)).putVirt l.ctx (t.poolbase + BitVec.ofNat 64 (place * t.trsz))
      ((List.range n).map fun i => (Config.freeWord (s.freeCtr + 1 + i)).setWidth 8)
  | _, _ => s

/-- R149: the bytes of a record, and those that the arrival buffer of a core holds. -/
def recordSize (t : TravelSt) (r : HopRec) : Nat := r.cap * t.trsz
def bufferHeld (t : TravelSt) (p : Pinned) : Nat := ((p.arrivals.filter (·.inBuf)).map (recordSize t)).sum

/-- The segment that a launch has on a core, or keeps for it while it is pre-empted (R157). -/
def State.pinOf (s : State) (lid core : Nat) : Option Pinned :=
  match (s.core core).pinned.filter (·.launch = lid) with
  | some p => some p
  | none => (kget s.launches lid).bind fun l => kget l.pins core
def State.modPin (s : State) (lid core : Nat) (f : Pinned → Pinned) : State :=
  if ((s.core core).pinned.any (·.launch = lid)) then s.modPinned core f
  else s.modLaunch lid fun l => { l with pins := kmod l.pins core f }

/-- R149, R147: a group that arrives, or that a fill has become, joins its core's arrival queue, in the arrival buffer when it has room and otherwise
in the pool; that of a launch which is pre-empted, in the pool (R157). -/
def State.enqueueArrival (s : State) (lid core : Nat) (r : HopRec) : State :=
  match s.travelOf lid, s.pinOf lid core with
  | some t, some p =>
    let fits := (s.core core).pinned.any (·.launch = lid) && bufferHeld t p + recordSize t r ≤ 65536
    let s := s.modPin lid core fun p => { p with arrivals := p.arrivals ++ [{ r with inBuf := fits }] }
    if fits then s else s.spill lid r.cap
  | _, _ => s

/-! ### Assembly buffers (R147, R152) -/

/-- R147, R145: the group that the threads of a fill become; it keeps their records and the buffer's header. -/
def fillRecord (l : Launch) (t : TravelSt) (core : Nat) (a : Assembly) : HopRec :=
  let n := a.threads.length
  { entry := a.entry, core := core, lane := true
    v := ssets [] (a.threads.zipIdx.flatMap fun x => x.1.zipIdx.map fun w => (128 * w.2 + x.2, w.1))
    m := [], c := 0, s := [], m0 := BitVec.ofNat 128 (2 ^ n - 1), depth := l.depth
    bidx := 0xFFFFFFFF#32, bidy := 0xFFFFFFFF#32, bidz := 0xFFFFFFFF#32, cap := n + t.hrec }

/-- R152: the fill after one that became a group; waiting threads take its places in order. -/
def Assembly.nextFill (a : Assembly) : Assembly :=
  { a with threads := a.waiting.take 128, waiting := a.waiting.drop 128, header := false, age := 0 }

/-- R147, R152: a buffer that lacks a header takes one when the pool has it, and a full fill with its header becomes a group. Answers the
free capacity, the buffer and the groups made. -/
def settleBuffer (l : Launch) (t : TravelSt) (core : Nat) : Nat → Nat → Assembly → Nat × Assembly × List HopRec
  | 0, free, a => (free, a, [])
  | fuel + 1, free, a =>
    let take := !a.header && t.hrec ≤ free
    let a := { a with header := a.header || take }
    let free := if take then free - t.hrec else free
    if a.header && a.threads.length ≥ 128 then
      match settleBuffer l t core fuel free a.nextFill with
      | (free, b, out) => (free, b, fillRecord l t core a :: out)
    else (free, a, [])

/-- R152: the buffers of one core, with the pool as it is. -/
def settleBuffers (l : Launch) (t : TravelSt) (core : Nat) : Nat → List Assembly → Nat × List Assembly × List HopRec
  | free, [] => (free, [], [])
  | free, a :: rest =>
    match settleBuffer l t core (a.waiting.length + 2) free a with
    | (free, a, out) => match settleBuffers l t core free rest with
      | (free, rest, more) => (free, a :: rest, out ++ more)

/-- R152: returned capacity goes first to buffers that lack a header, those of a segment that is pre-empted among them. A group that a fill becomes
joins its core's arrival queue. Buffers are served in ascending core and entry order (log 28). -/
def State.settlePool (s : State) (lid : Nat) : State :=
  s.cores.foldl (fun s e => match s.pinOf lid e.1, kget s.launches lid, s.travelOf lid with
    | some p, some l, some t => match settleBuffers l t e.1 t.free p.buffers with
      | (free, bufs, out) =>
        let s := (s.modPin lid e.1 fun p => { p with buffers := bufs }).modTravel lid fun t => { t with free := free }
        out.foldl (fun s r => s.enqueueArrival lid e.1 r) s
    | _, _, _ => s) s

end Sys2Proof.Machine
end

