-- ==== Sys2Proof/Machine/Queue.lean ====
section
/-! DEFINITION. The command queues: fetching a command at its queue's head, its checks, its completion and its refusal (R42-R51). -/
namespace Sys2Proof.Machine

/-- A command as it was fetched: whose queue it came from, its bytes, the generation of its function, and its number in the queue. -/
structure Cmd where
  fn : Nat
  num : Nat
  ck : Nat
  bytes : List Byte
  seq : Nat
  gen : Word
  deriving DecidableEq, Repr

def Cmd.part (c : Cmd) : Nat := partOfFn c.fn
def Cmd.count (c : Cmd) : Nat := field c.bytes 2 1
def Cmd.opc (c : Cmd) : Nat := field c.bytes 0 1
def Cmd.tag (c : Cmd) : DWord := BitVec.ofNat 64 (field c.bytes 8 8)
/-- R47: FLAGS bit 8. -/
def Cmd.wants (c : Cmd) : Bool := field c.bytes 1 1 % 2 = 1
def Cmd.at (c : Cmd) (o n : Nat) : Nat := field c.bytes o n
def Cmd.addr (c : Cmd) (o : Nat) : DWord := BitVec.ofNat 64 (c.at o 8)

def State.queue (s : State) (ck : Nat) : Queue := (s.ctx ck).queue
def State.modQueue (s : State) (ck : Nat) (f : Queue → Queue) : State := s.modCtx ck fun c => { c with queue := f c.queue }

/-- R21, R37: whether a function is there; the virtual ones need SR-IOV enabled. -/
def State.funcHere (s : State) (fn : Nat) : Bool := (s.func fn).present && (fn = 0 || s.plat.sriov)

/-- R37, R43, R44, R88: whether the Bridle fetches from a queue now. -/
def State.fetches (s : State) (fn ck : Nat) : Bool :=
  let q := s.queue ck
  s.running && s.plat.boot = .ready && s.funcHere fn && (kget s.ctxs ck).isSome
    && !(s.part (partOfFn fn)).paused && q.en && !q.halt && q.hold.isNone && q.rptr ≠ q.wptr

/-! ### Visits (R48) -/

/-- How far a context's number lies beyond the one last visited, which comes last. -/
def Part.beyond (p : Part) (num : Nat) : Nat := (num + 255 - p.serving % 256) % 256

/-- R48: whether the Bridle may take a command from a queue now: it is the one being visited, with fewer than 16 taken, or the next in ascending
order that has something to fetch. -/
def State.mayVisit (s : State) (fn num : Nat) : Bool :=
  let p := s.part (partOfFn fn)
  (num = p.serving && p.taken < 16)
    || s.ctxs.all fun e => partOfCtx e.1 ≠ partOfFn fn || !s.fetches fn e.1 || p.beyond num ≤ p.beyond (numOfCtx e.1)

/-- The Bridle visits a queue. -/
def State.visit (s : State) (fn num : Nat) : State :=
  s.modPart (partOfFn fn) fun p => if num = p.serving && p.taken < 16 then p else { p with serving := num, taken := 0 }

/-- R45, R46: one 64-byte entry of a queue, as memory holds it when it is fetched. Of an entry that was changed after a pointer beyond it was written
R46 allows the old contents too, which the model does not give (log 84). An entry in a line that an awl holds waits (R246), and one
across the link (R29). -/
def State.readEntry (s : State) (ck n : Nat) : State × Got :=
  let c := s.ctx ck
  let va := c.queue.base + BitVec.ofNat 64 (64 * (n % 2 ^ c.queue.logsz))
  if c.queue.hostmem then
    if s.hostAbsent.contains (c.pasid.toNat, va.toNat / 4096) then (s, .park va none)
    else (s, .bytes (bytesAt s.hostMem (hostKey c.pasid.toNat va.toNat) 64))
  else if s.virtHeld ck va 64 then (s, .park va (some 0))
  else s.readVirt ck (some 0) va 64

def State.readEntries (s : State) (ck n : Nat) : Nat → State × Got
  | 0 => (s, .bytes [])
  | k + 1 => match s.readEntry ck n with
    | (s, .bytes l) => match s.readEntries ck (n + 1) k with
      | (s, .bytes r) => (s, .bytes (l ++ r))
      | x => x
    | x => x

/-- R44, R85: halts a queue, with event 0x03. -/
def State.haltQueue (s : State) (fn num ck err : Nat) : State :=
  let s := s.modQueue ck fun q => { q with halt := true, err := BitVec.ofNat 8 err }
  s.logNow fn 3 num 0 (leBytes 4 (256 * err + 1))

/-- R46, R211: a fetch waits; for a page of the host a page request is made. -/
def State.parkQueue (s : State) (ck : Nat) (va : DWord) (ipa : Option Nat) : State :=
  s.modQueue ck fun q => { q with parked := if ipa.isNone then some va else none }

/-- R45-R48: the command at a queue's head; none when the queue fetches nothing, is not the one to visit, waits for a page, or halts. -/
def State.headCmd (s : State) (fn num : Nat) : State × Option Cmd :=
  let ck := ctxKey (partOfFn fn) num
  if !s.fetches fn ck || !s.mayVisit fn num then (s, none)
  else
    let s := s.visit fn num
    let q := s.queue ck
    match s.readEntry ck q.rptr.toNat with
    | (s, .park va ipa) => (s.parkQueue ck va ipa, none)
    | (s, .bad ..) => (s.haltQueue fn num ck 3, none)
    | (s, .bytes h) =>
      let count := field h 2 1
      if count = 0 || count > 4 || (q.wptr - q.rptr).toNat < count then (s.haltQueue fn num ck 2, none)
      else match s.readEntries ck (q.rptr.toNat + 1) (count - 1) with
        | (s, .park va ipa) => (s.parkQueue ck va ipa, none)
        | (s, .bad ..) => (s.haltQueue fn num ck 3, none)
        | (s, .bytes t) => (s, some { fn := fn, num := num, ck := ck, bytes := h ++ t, seq := q.seq, gen := (s.func fn).gen })

/-- The command leaves the queue. -/
def State.consume (s : State) (c : Cmd) : State :=
  (s.modQueue c.ck fun q => { q with rptr := q.rptr + BitVec.ofNat 32 c.count, seq := q.seq + 1, parked := none }).modPart c.part fun p =>
    { p with taken := p.taken + 1 }

/-- R51: a refusal, with event 0x02. -/
def State.refuse (s : State) (c : Cmd) (status : Nat) (more : List Byte) : State :=
  s.log c.fn 2 c.num c.gen c.tag (BitVec.ofNat 8 status :: more)

/-- R47: a command that completes at once. -/
def State.done (s : State) (c : Cmd) : State := if c.wants then s.log c.fn 1 c.num c.gen c.tag [] else s

/-- The command has started and completes later. -/
def State.openCmd (s : State) (c : Cmd) : State :=
  s.modQueue c.ck fun q => { q with opened := q.opened ++ [{ seq := c.seq, tag := c.tag, gen := c.gen, complete := c.wants }] }

/-- R47, R87: an open command of a context completes. -/
def State.completeCmd (s : State) (ck seq : Nat) : State :=
  match (s.queue ck).opened.find? fun o => o.seq = seq with
  | none => s
  | some o =>
    let s := s.modQueue ck fun q => { q with opened := q.opened.filter fun o => o.seq ≠ seq }
    if o.complete then s.log (fnOfPart (partOfCtx ck)) 1 (numOfCtx ck) o.gen o.tag [] else s

/-- R52: the oldest signal that waits for nothing any more. -/
def Queue.readySignal (q : Queue) : Option Signal := q.signals.find? fun g => !q.opened.any fun o => o.seq < g.seq

/-- R47: the tag of an open command. -/
def State.tagOf (s : State) (ck seq : Nat) : DWord := (((s.queue ck).opened.find? fun o => o.seq = seq).map (·.tag)).getD 0

/-- R50: whether a context holds a class bit. -/
def State.allowed (s : State) (ck : Nat) : Option Nat → Bool
  | none => true
  | some b => (s.ctx ck).allow.getLsbD b

/-- R47, R51: a command of a known opcode, checked in the order of R51. `sel` says which of an opcode's actions this is, `reserved` whether
every reserved byte is zero; a count of 0 stands for any. A command that is not `ready` stays at the head of its queue (log 5). -/
def asCommandWhen (ready : Cmd → State → Bool) (opc count : Nat) (cls : Option Nat) (sel reserved : Cmd → Bool) (fn num : Nat) (s : State)
    (body : Cmd → State → State) : Outcome :=
  match s.headCmd fn num with
  | (s, none) => .next s
  | (s, some c) =>
    if c.opc ≠ opc || !sel c || !ready c s then .next s
    else
      let s := s.consume c
      .next (
        if !s.allowed c.ck cls then s.refuse c 2 []
        else if c.at 1 1 ≥ 2 || !zeroAt c.bytes 3 5 then s.refuse c 5 []
        else if count ≠ 0 && c.count ≠ count then s.refuse c 4 []
        else if !reserved c then s.refuse c 5 []
        else body c s)

/-- Such a command that is ready at once. -/
def asCommand (opc count : Nat) (cls : Option Nat) (sel reserved : Cmd → Bool) (fn num : Nat) (s : State) (body : Cmd → State → State) : Outcome :=
  asCommandWhen (fun _ _ => true) opc count cls sel reserved fn num s body

/-- R51, R52: whether an address of a context translates within its partition for an access, and its frame passes the frame ownership table. A host
page that a leaf maps (R207) lies in the partition as well (log 84); a page that is not there yet may be waited for (R53). -/
def State.operandOk (s : State) (ck : Nat) (va : DWord) (k : Access) : Bool :=
  match (s.access s.freeCtr ck va k).1 with
  | .dev .. | .host _ | .park .. | .stop 14 _ => true
  | _ => false

/-- Whether such an address is one of device memory; `pend` whether one that is not there yet will do. -/
def State.deviceOk (s : State) (ck : Nat) (va : DWord) (k : Access) (pend : Bool) : Bool :=
  match (s.access s.freeCtr ck va k).1 with
  | .dev .. | .stop 14 _ => true
  | .park _ pri => pend && !pri
  | _ => false

/-- NOP (R49): always allowed. -/
def execCmdNop (fn ctx : Nat) (s : State) : Outcome :=
  asCommand 0 0 none (fun _ => true) (fun _ => true) fn ctx s fun c s => s.done c

/-- A command of an unknown opcode (R49, R51). -/
def execUnknownCommand (fn ctx : Nat) (s : State) : Outcome :=
  match s.headCmd fn ctx with
  | (s, none) => .next s
  | (s, some c) => if c.opc ≤ 0x0C then .next s else .next ((s.consume c).refuse c 1 [])

end Sys2Proof.Machine
end

