-- ==== Sys2Proof/Machine/Place.lean ====
section
/-! DEFINITION. The resources of a core and the admission of a block to it (R114, R117, R118, R121, R183, R194, R286). -/
namespace Sys2Proof.Machine

/-! ### Shapes of blocks -/

/-- A group of a block to be started: its budget, its first PC, its m0, its role, and the values of its first scalar registers. -/
structure Start where
  vregs : Nat
  sregs : Nat
  pc : DWord
  m0 : Mask
  role : Nat := 0
  s : List Word := []
  m1 : Mask := 0
  gfx : GroupGfx := {}
  deriving DecidableEq, Repr

/-- What is asked of a core (R121), with the sets of cinch counters for the blocks that it is for (R183). -/
structure Shape where
  groups : List (Nat × Nat)
  spm : Nat := 0
  matrix : Bool := false
  sets : Nat := 1
  deriving DecidableEq, Repr

/-- The mask of threads 0 to `n` - 1. -/
def lowMask (n : Nat) : Mask := BitVec.ofNat 128 (2 ^ n - 1)

/-- R118: ARGS in s0:s1. -/
def argWords (args : DWord) : List Word := [lo32 args, hi32 args]

/-- R114, R117: the groups of a block of a record, in GID order. -/
def LaunchRec.starts (r : LaunchRec) (more : List Word) : List Start :=
  if r.nroles = 0 then
    let n := (r.threads + 127) / 128
    (List.range n).map fun i =>
      { vregs := r.vregs, sregs := r.sregs, pc := r.entry, s := argWords r.args ++ more
        m0 := if i + 1 < n then lowMask 128 else lowMask (r.threads - 128 * (n - 1)) }
  else
    (r.roles.take r.nroles).zipIdx.flatMap fun (ro, i) => (List.range ro.groups).map fun _ =>
      { vregs := ro.vregs, sregs := ro.sregs, pc := r.entry + BitVec.ofNat 64 ro.offset, role := i, m0 := lowMask 128
        s := argWords r.args ++ more }

def Claim.shape (c : Claim) : Shape := { groups := c.groups.map (·.2), spm := c.spmSize, matrix := c.matrix, sets := c.sets }
def shapeOf (gs : List Start) (spm : Nat) (matrix : Bool) : Shape :=
  { groups := gs.map fun g => (g.vregs, g.sregs), spm := spm, matrix := matrix }

/-- A block of a record; a travelling block takes no scratchpad of its own (R143). -/
def LaunchRec.shape (r : LaunchRec) : Shape := shapeOf (r.starts []) (if r.travel then 0 else r.spm) r.matrix

/-! ### What is free on a core (R121) -/

/-- R183: the sets of cinch counters of a core. -/
def coreKsets : Nat := 64

/-- Free slots and vector registers of the four core partitions, free scalar registers, taken scratchpad, the matrix array, and free sets of cinch
counters. -/
structure Free where
  slots : List Nat
  vregs : List Nat
  sregs : Nat
  spm : List (Nat × Nat) := []
  matrix : Bool := true
  ksets : Nat := coreKsets
  deriving DecidableEq, Repr

/-- R183, R291: a core with nothing resident, less its retired rows. A scalar row is listed as that of partition 4. -/
def State.emptyFree (s : State) (core : Nat) : Free :=
  let rows (cp : Nat) := (s.retiredRows.filter fun r => r = (core, cp)).length
  { slots := [16, 16, 16, 16]
    vregs := (List.range 4).map fun cp => Config.partitionVregs - rows cp
    sregs := Config.coreSregs - 64 * rows 4 }

def Free.takeGroup (f : Free) (cp v sr : Nat) : Free :=
  { f with slots := f.slots.set cp ((f.slots[cp]?).getD 0 - 1), vregs := f.vregs.set cp ((f.vregs[cp]?).getD 0 - v), sregs := f.sregs - sr }

def Free.takeSpm (f : Free) (base size : Nat) (matrix : Bool) : Free :=
  { f with spm := if size = 0 then f.spm else f.spm ++ [(base, size)], matrix := f.matrix && !matrix }

def Free.takeSets (f : Free) (n : Nat) : Free := { f with ksets := f.ksets - n }

def Free.takeClaim (f : Free) (c : Claim) : Free :=
  ((c.groups.foldl (fun f g => f.takeGroup g.1 g.2.1 g.2.2) f).takeSpm c.spmBase c.spmSize c.matrix).takeSets c.sets

/-- The drain reservations on a core of the graphs of partitions that satisfy `p` (R133). -/
def State.reservesOn (s : State) (core : Nat) (p : Nat → Bool) : List Reserve :=
  s.launches.flatMap fun e => match e.2.kind with
    | .graph g => if p (partOfCtx e.2.ctx) then g.reserved.filter fun r => r.claim.core = core else []
    | _ => []

/-- R80: whether a partition's blocks may be on a core now: a temporal partition's while it holds the core. -/
def State.occupies (s : State) (core part : Nat) : Bool := !(s.part part).temporal || (s.core core).holder = some part

def State.free (s : State) (core : Nat) : Free :=
  let res := s.reservesOn core (s.occupies core)
  let c := s.core core
  let inRes (b : Nat) : Bool := res.any fun r => r.block = some b
  let held (g : Nat) : Bool := c.rings.any fun r => r.2.holder = some g
  let f := res.foldl (fun f r => f.takeClaim r.claim) (s.emptyFree core)
  let f := c.rings.foldl (fun f r => f.takeClaim r.2.claim) f
  let f := match c.pinned with | some p => f.takeSpm p.spmBase p.spmSize false | none => f
  let f := s.groups.foldl (fun f e =>
    if e.2.core = core && !inRes e.2.block && !held e.1 then f.takeGroup e.2.cp e.2.vregs e.2.sregs else f) f
  s.blocks.foldl (fun f e =>
    if e.2.core = core && e.2.resident && !inRes e.1 && e.2.prog ≠ .mesh then (f.takeSpm e.2.spmBase e.2.spmSize e.2.matrix).takeSets 1 else f) f

/-- What a core would have free for a partition with nothing resident but that partition's drain reservations (R133). -/
def State.cleared (s : State) (core part : Nat) : Free :=
  (s.reservesOn core (· = part)).foldl (fun f r => f.takeClaim r.claim) (s.emptyFree core)

/-- R121: the core partition with the most free vector registers among those with a free slot, a tie going to the lower number. -/
def Free.bestCp (f : Free) : Option Nat :=
  (List.range 4).foldl (fun b cp =>
    if (f.slots[cp]?).getD 0 = 0 then b
    else match b with
      | none => some cp
      | some o => if (f.vregs[cp]?).getD 0 > (f.vregs[o]?).getD 0 then some cp else b) none

/-- R189, R191: the lowest contiguous scratchpad of a size that is free (log 25). -/
def Free.spmBase (f : Free) (size : Nat) : Option Nat :=
  if size = 0 then some 0
  else
    let ok (b : Nat) : Bool := b + size ≤ Config.spmBytes && f.spm.all fun a => b + size ≤ a.1 || a.1 + a.2 ≤ b
    (0 :: f.spm.map fun a => a.1 + a.2).foldl (fun m b =>
      if !ok b then m else match m with | some o => some (min o b) | none => some b) none

def Free.fitGroups : Free → List (Nat × Nat) → Option (List (Nat × Nat × Nat))
  | _, [] => some []
  | f, (v, sr) :: rest =>
    match f.bestCp with
    | none => none
    | some cp =>
      if (f.vregs[cp]?).getD 0 < v || f.sregs < sr then none
      else ((f.takeGroup cp v sr).fitGroups rest).map fun l => (cp, v, sr) :: l

/-- R121, R183: where a block would go on a core, or none when it does not pass. -/
def Free.fit (f : Free) (core : Nat) (sh : Shape) : Option Claim :=
  if f.ksets < sh.sets || (sh.matrix && !f.matrix) then none
  else match f.spmBase sh.spm, f.fitGroups sh.groups with
    | some b, some gs => some { core := core, groups := gs, spmBase := b, spmSize := sh.spm, matrix := sh.matrix, sets := sh.sets }
    | _, _ => none

/-! ### Candidate cores (R79, R80, R119, R120, R286) -/

/-- R119: the usable cores of a partition's core set, in ascending CORE number. -/
def State.candidates (s : State) (part : Nat) : List Nat :=
  (List.range s.ncores).filter fun c => (s.part part).coreset.getLsbD c && s.usable c

/-- A list of cores taken cyclically from the first that is at least `p`. -/
def rotateFrom (p : Nat) (l : List Nat) : List Nat := l.filter (p ≤ ·) ++ l.filter (· < p)

def Part.pointer (p : Part) (die : Nat) : Nat := if die = 0 then p.pointer0 else p.pointer1
def Part.setPointer (p : Part) (die n : Nat) : Part := if die = 0 then { p with pointer0 := n } else { p with pointer1 := n }

/-- R116: whether some core of the partition's core set could hold the block with nothing else resident. -/
def State.couldHold (s : State) (part : Nat) (sh : Shape) : Bool :=
  (s.candidates part).any fun c => ((s.emptyFree c).fit c sh).isSome

/-- R287: the bytes that a group, or the blocks that something is asked for, may take in their context's save area, with every part that may be
present (log 26). -/
def groupBytes (g : Nat × Nat) : Nat := 512 + 4 * g.2 + 512 * g.1 + 1024 + 16384
def recordBytes (sh : Shape) : Nat :=
  sh.sets * (256 + 128 * Config.copyEntries) + (sh.groups.map groupBytes).sum + sh.spm + if sh.matrix then 65536 + 4194304 else 0

/-- The registers of a block's groups, resident or saved. -/
def State.blockGroups (s : State) (ck bid : Nat) (b : Block) : List (Nat × Nat) :=
  if b.resident then (s.groups.filter fun e => e.2.block = bid).map fun e => (e.2.vregs, e.2.sregs)
  else match (s.ctx ck).saved.find? fun v => v.bid = bid with
    | some v => v.groups.map fun g => (g.vregs, g.sregs)
    | none => []

/-- What a block of a launch may take in the save area; a tile block keeps room for one pixel group. The blocks of a payload ring take what is set
aside with it. -/
def State.blockBytes (s : State) (l : Launch) (bid : Nat) (b : Block) : Nat :=
  let gs := s.blockGroups l.ctx bid b
  if b.prog = .mesh then 0
  else recordBytes { groups := if gs = [] && b.prog = .tile then [(l.recd.vregs, l.recd.sregs)] else gs, spm := b.spmSize, matrix := b.matrix }

/-- What the blocks of a payload ring may take: its slots with one mesh group, and the mesh groups beside that one. -/
def State.ringBytes (s : State) (ck : Nat) (r : Ring) : Nat :=
  let gs := r.slots.flatMap fun x => match kget s.blocks x.2 with | some b => s.blockGroups ck x.2 b | none => []
  recordBytes r.claim.shape + ((gs.drop 1).map groupBytes).sum

/-- The payload rings of a launch, on cores and saved. -/
def State.ringsOf (s : State) (lid : Nat) (l : Launch) : List Ring := (s.cores.filterMap fun c => kget c.2.rings lid) ++ l.rings.map (·.2)

/-- R286: whether a context's save area has room for `n` bytes beside the records of its blocks. -/
def State.saveFits (s : State) (ck n : Nat) : Bool :=
  let blocks := (s.blocks.map fun e => match kget s.launches e.2.launch with
    | some l => if l.ctx = ck then s.blockBytes l e.1 e.2 else 0
    | none => 0).sum
  let rings := (s.launches.flatMap fun e => if e.2.ctx = ck then (s.ringsOf e.1 e.2).map (s.ringBytes ck) else []).sum
  blocks + rings + n ≤ (s.ctx ck).savesize.toNat

/-- R80, R88: whether a partition may hold a core now. -/
def State.mayHold (s : State) (core part : Nat) : Bool := (s.part part).en && !(s.part part).paused && s.occupies core part

/-- R80, R285: whether a core may start groups of a context now. -/
def State.mayRun (s : State) (core ck : Nat) : Bool :=
  s.mayHold core (partOfCtx ck) && !((s.part (partOfCtx ck)).temporal && (s.core core).preempting)

/-- R80, R286: whether a core may take what needs `n` bytes of a context's save area, apart from R121. -/
def State.mayAdmit (s : State) (core ck n : Nat) : Bool := s.mayRun core ck && (!(s.part (partOfCtx ck)).temporal || s.saveFits ck n)

/-- R121, R286: the check of one core for a block, beside blocks already chosen. -/
def State.tryCore (s : State) (ck core : Nat) (sh : Shape) (chosen : List Claim) : Option Claim :=
  if !s.mayAdmit core ck (recordBytes sh + (chosen.map fun c => recordBytes c.shape).sum) then none
  else (chosen.foldl (fun f c => if c.core = core then f.takeClaim c else f) (s.free core)).fit core sh

/-- R121: the core partition for one more group of a resident block. The room in the save area for a block's first group is kept for it. -/
def State.tryGroup (s : State) (ck core : Nat) (g : Nat × Nat) (first : Bool) : Option Nat :=
  if !s.mayRun core ck || (!first && !s.mayAdmit core ck (groupBytes g)) then none
  else ((s.free core).fit core { groups := [g], sets := 0 }).bind fun cl => (cl.groups.head?).map (·.1)

/-- R122: the members of a team after member 0, each on the first core that passes. -/
def State.tryMembers (s : State) (ck : Nat) (sh : Shape) (order : List Nat) : Nat → List Claim → Option (List Claim)
  | 0, chosen => some chosen
  | n + 1, chosen =>
    match order.findSome? fun c => s.tryCore ck c sh chosen with
    | none => none
    | some cl => s.tryMembers ck sh order n (chosen ++ [cl])

/-- R120, R122: the cores for the next team of a launch, by the order of candidates given. -/
def State.placeTeam (s : State) (ck team : Nat) (sh : Shape) (cands : List Nat) (from_ : Nat) : Option (List Claim) :=
  (rotateFrom from_ cands).findSome? fun c =>
    match s.tryCore ck c sh [] with
    | none => none
    | some cl =>
      let sec := cands.filter fun o => s.dieOf o = s.dieOf c && s.sectorOf o = s.sectorOf c
      s.tryMembers ck sh (rotateFrom c sec) (team - 1) [cl]

/-! ### Admission -/

/-- The lowest free slot of a core partition (log 25). -/
def State.freeSlot (s : State) (core cp : Nat) : Nat :=
  ((List.range 16).find? fun i => (kget s.groups (gidOf core cp i)).isNone).getD 15

/-- R118, R278: a group at its start. -/
def startGroup (uid core cp slot bid idx : Nat) (trapbase : DWord) (st : Start) : Group :=
  { uid := uid, core := core, cp := cp, slot := slot, block := bid, index := idx, role := st.role, vregs := st.vregs, sregs := st.sregs
    pc := st.pc, gfx := st.gfx, trap := { base := trapbase }
    regs := { s := ssets [] (st.s.zipIdx.map fun x => (x.2, x.1)), m := ssets [] [(0, st.m0), (1, st.m1)] } }

/-- R183: the lowest set of cinch counters of a core that no resident block has; R121 has passed, so that there is one. -/
def State.freeKset (s : State) (core : Nat) : Nat :=
  ((List.range (coreKsets + 1)).find? fun i => !s.blocks.any fun e => e.2.core = core && e.2.resident && e.2.kset = i).getD coreKsets

/-- R194: what taking the matrix array does to the tiles and the B-store. -/
def Core.takeMatrix (c : Core) (ck : Nat) : Core :=
  { c with tiles := [], bstore := if c.bstoreCtx = some ck then c.bstore else [], bstoreCtx := some ck }

/-- R121, R118: a block becomes resident, whole. The block's place, its number and its counters are set here; its first read is an
acquire (R125). A block of a node or of a graphics launch is a team of its own. Answers the block's number. -/
def State.seat (s : State) (ck : Nat) (blk : Block) (cl : Claim) (gs : List Start) : State × Nat :=
  let bid := s.nextId
  let blk := { blk with id := bid, core := cl.core, ngrp := gs.length, kset := s.freeKset cl.core, spmBase := cl.spmBase
                        spmSize := cl.spmSize, matrix := cl.matrix, resident := true
                        team := if blk.node.isSome || blk.prog ≠ .compute then 2 ^ 40 + bid else blk.team }
  let base := (s.ctx ck).trapbase
  let s := { s with nextId := bid + 1, blocks := kset s.blocks bid blk }
  let s := s.modCore cl.core fun c => { (if cl.matrix then c.takeMatrix ck else c) with l1 := [] }
  let s := (gs.zip cl.groups).zipIdx.foldl (fun s x =>
    let cp := x.1.2.1
    let slot := s.freeSlot cl.core cp
    { s with nextId := s.nextId + 1
             groups := kset s.groups (gidOf cl.core cp slot) (startGroup s.nextId cl.core cp slot bid x.2 base x.1.1) }) s
  (s, bid)

end Sys2Proof.Machine
end

