-- ==== Sys2Proof/Machine/Raster.lean ====
section
/-! DEFINITION. The geometry of a triangle: culling, the tiles it touches, coverage and interpolation, in exact integers (R164, R165,
R171, R467). -/
namespace Sys2Proof.Machine

/-- The clip position of a vertex, each component as a count of 2⁻¹⁴⁹, of which every finite f32 is a multiple. -/
structure Vtx where
  x : Int
  y : Int
  z : Int
  w : Int
  deriving DecidableEq, Repr

def fix32 (w : Word) : Int := (f32 w).scaled (-149)
def finite32 (w : Word) : Bool := match f32 w with | .fin .. => true | _ => false

/-- Vertex `i` of a primitive. -/
def Prim.vtx (p : Prim) (i : Nat) : Vtx :=
  let c (k : Nat) : Int := fix32 ((p.pos[4 * i + k]?).getD 0)
  { x := c 0, y := c 1, z := c 2, w := c 3 }

/-- A point in homogeneous form. -/
structure Pt where
  x : Int
  y : Int
  w : Int
  deriving DecidableEq, Repr

def Vtx.pt (v : Vtx) : Pt := { x := v.x, y := v.y, w := v.w }

/-- The determinant of the matrix with these rows. -/
def det3 (a b c : Pt) : Int := a.x * (b.y * c.w - b.w * c.y) - a.y * (b.x * c.w - b.w * c.x) + a.w * (b.x * c.y - b.y * c.x)

/-- R164: the signed area. -/
def Prim.area (p : Prim) : Int := -det3 (p.vtx 0).pt (p.vtx 1).pt (p.vtx 2).pt

/-- R164: whether all three vertices satisfy a condition. -/
def Prim.allVtx (p : Prim) (f : Vtx → Bool) : Bool := [0, 1, 2].all fun i => f (p.vtx i)

/-- R161: fields of a pipeline state word. -/
def stNozout (st : Word) : Bool := st.getLsbD 9
def stNodiscard (st : Word) : Bool := st.getLsbD 8
def stFrontcw (st : Word) : Bool := st.getLsbD 7
def stCullfront (st : Word) : Bool := st.getLsbD 6
def stCullback (st : Word) : Bool := st.getLsbD 5
def stDwrite (st : Word) : Bool := st.getLsbD 4
def stDfunc (st : Word) : Nat := (st.extractLsb' 1 3).toNat
def stDtest (st : Word) : Bool := st.getLsbD 0

/-- R164: whether the binning pass culls a triangle. The clip planes of the render area are its four sides. -/
def Prim.culled (p : Prim) (st : Word) : Bool :=
  let front := (decide (0 < p.area)) == stFrontcw st
  p.pos.any (fun c => !finite32 c)
    || p.allVtx (fun v => v.x < -v.w) || p.allVtx (fun v => v.x > v.w) || p.allVtx (fun v => v.y < -v.w) || p.allVtx (fun v => v.y > v.w)
    || p.allVtx (fun v => v.w ≤ 0) || p.area = 0 || (if front then stCullfront st else stCullback st)

/-- R165: whether a triangle's bounding box touches a range of pixels; with a vertex at w ≤ 0 it may lie anywhere. -/
def Prim.touches (p : Prim) (width height x0 y0 : Nat) : Bool :=
  let right (v : Vtx) : Bool := (v.x + v.w) * width ≥ 2 * (x0 : Int) * v.w
  let left (v : Vtx) : Bool := (v.x + v.w) * width ≤ 2 * ((x0 : Int) + 32) * v.w
  let below (v : Vtx) : Bool := (v.w - v.y) * height ≥ 2 * (y0 : Int) * v.w
  let above (v : Vtx) : Bool := (v.w - v.y) * height ≤ 2 * ((y0 : Int) + 32) * v.w
  let some_ (f : Vtx → Bool) : Bool := [0, 1, 2].any fun i => f (p.vtx i)
  !p.allVtx (fun v => v.w > 0) || (some_ right && some_ left && some_ below && some_ above)

def tilesX (width : Nat) : Nat := (width + 31) / 32

/-- R165, R168: the tiles a triangle touches, in row-major order. -/
def Prim.tiles (p : Prim) (width height : Nat) : List Nat :=
  (List.range (tilesX width * ((height + 31) / 32))).filter fun t =>
    p.touches width height (32 * (t % tilesX width)) (32 * (t / tilesX width))

/-! ### Coverage (R467) -/

/-- R467: screen point (x/2, y/2) in homogeneous clip coordinates. -/
def screenPt (width height x y : Nat) : Pt :=
  { x := ((x : Int) - width) * height, y := ((height : Int) - y) * width, w := (width : Int) * height }

/-- The edge functions of a triangle at a point, positive inside, in the order of the opposite vertices. -/
def Prim.edges (p : Prim) (q : Pt) : Int × Int × Int :=
  let a := (p.vtx 0).pt
  let b := (p.vtx 1).pt
  let c := (p.vtx 2).pt
  let s : Int := if 0 < p.area then -1 else 1
  (s * det3 q b c, s * det3 a q c, s * det3 a b q)

/-- R467: inside, or on a top or a left edge. -/
def edgeIn (e right down : Int) : Bool := e > 0 || (e = 0 && (right > e || (right = e && down > e)))

/-- R467: whether the centre of pixel (x, y) is covered. -/
def Prim.covers (p : Prim) (width height x y : Nat) : Bool :=
  let e := p.edges (screenPt width height (2 * x + 1) (2 * y + 1))
  let r := p.edges (screenPt width height (2 * x + 3) (2 * y + 1))
  let d := p.edges (screenPt width height (2 * x + 1) (2 * y + 3))
  x < width && y < height && 0 < e.1 + e.2.1 + e.2.2 && edgeIn e.1 r.1 d.1 && edgeIn e.2.1 r.2.1 d.2.1 && edgeIn e.2.2 r.2.2 d.2.2

def ratio (n d : Int) : Val := divVal (Val.ofInt n) (Val.ofInt d)

/-- R467: the depth Z/W at a point, exactly; none where it has none. -/
def Prim.depthAt (p : Prim) (q : Pt) : Option Val :=
  let e := p.edges q
  let d := e.1 * (p.vtx 0).w + e.2.1 * (p.vtx 1).w + e.2.2 * (p.vtx 2).w
  if d = 0 then none else some (ratio (e.1 * (p.vtx 0).z + e.2.1 * (p.vtx 1).z + e.2.2 * (p.vtx 2).z) d)

/-- R467: the weight of vertex 1 or 2 at a point. -/
def Prim.weight (p : Prim) (q : Pt) (second : Bool) : Option Val :=
  let e := p.edges q
  let d := e.1 + e.2.1 + e.2.2
  if d = 0 then none else some (ratio (if second then e.2.2 else e.2.1) d)

/-- R467: a slot value, one rounding at each step. -/
def slotValue (a0 a1 a2 b1 b2 : Word) : Word := f32Add (f32Add a0 (f32Mul b1 (f32Sub a1 a0))) (f32Mul b2 (f32Sub a2 a0))

/-- R171: the depths at the four corners of a part of the render area. -/
def Prim.corners (p : Prim) (width height x0 y0 x1 y1 : Nat) : List Val :=
  [(x0, y0), (x1, y0), (x0, y1), (x1, y1)].filterMap fun c => p.depthAt (screenPt width height (2 * c.1) (2 * c.2))

/-- R171: the least depth, rounded down, and the greatest, rounded up. -/
def depthRange (l : List Val) : Word × Word :=
  match l with
  | [] => (0xFF800000#32, 0x7F800000#32)
  | v :: r => (toF32 .rdn (r.foldl minNumber v), toF32 .rup (r.foldl maxNumber v))

/-- R161, R170: whether a depth passes DFUNC against another; a NaN fails. -/
def dfuncPass (fn : Nat) (z buf : Word) : Bool :=
  !(f32 z).isNan && match fn with
    | 0 => true | 1 => f32Lt z buf | 2 => f32Le z buf | 3 => (f32 z).cmp (f32 buf) = some .eq
    | 4 => f32Lt buf z | 5 => f32Le buf z | _ => false

/-- R171: whether the bounds of a block reject a triangle's depth range. -/
def hizRejects (fn : Nat) (r : Word × Word) (far near : Word) : Bool :=
  match fn with
  | 1 => f32Le far r.1 | 2 => f32Lt far r.1 | 4 => f32Le r.2 near | 5 => f32Lt r.2 near | 6 => true | _ => false

/-- R172: the bounds after an early update. -/
def hizEarly (fn : Nat) (r : Word × Word) (far near : Word) : Word × Word :=
  if fn ≤ 2 then (f32Min far r.2, f32Min near r.1) else (f32Max far r.2, f32Max near r.1)

end Sys2Proof.Machine
end

