-- ==== Sys2Proof/Machine/Records.lean ====
section
/-! DEFINITION. Launch records, graph descriptors, segment maps and pass descriptors, and the checks of R113-R117, R129, R136-R140,
R158 and R159. -/
namespace Sys2Proof.Machine

/-! ### The launch record (R113, R117) -/

def parseRole (l : List Byte) : Role := { offset := field l 0 4, groups := field l 4 2, vregs := field l 6 2, sregs := field l 8 2 }

def LaunchRec.parse (l : List Byte) : LaunchRec :=
  let fl := field l 23 1
  { entry := BitVec.ofNat 64 (field l 0 8), nx := field l 8 4, ny := field l 12 4, nz := field l 16 4, threads := field l 20 2
    team := field l 22 1, matrix := fl % 2 = 1, travel := fl / 2 % 2 = 1, graph := fl / 4 % 2 = 1, graphics := fl / 8 % 2 = 1
    spm := field l 24 4, vregs := field l 28 2, sregs := field l 30 2, nroles := field l 32 1, scope := field l 33 1
    prio := field l 34 1, die := field l 35 1, args := BitVec.ofNat 64 (field l 40 8), segmap := BitVec.ofNat 64 (field l 48 8)
    graphdesc := BitVec.ofNat 64 (field l 56 8), roles := (List.range 4).map fun i => parseRole (l.drop (64 + 16 * i)) }

/-- R114: the blocks of a launch; a graphics launch's counts are ignored. -/
def LaunchRec.total (r : LaunchRec) : Nat := r.nx * r.ny * r.nz

/-- R113: the legal register budgets. -/
def vregsOk (n : Nat) : Bool := n % 8 = 0 && 8 ≤ n && n ≤ 256
def sregsOk (n : Nat) : Bool := n % 64 = 0 && 64 ≤ n && n ≤ 1024

/-- R117: a role entry, used or not. -/
def roleOk (used : Bool) (l : List Byte) : Bool :=
  let r := parseRole l
  if used then r.offset % 8 = 0 && 1 ≤ r.groups && r.groups ≤ 16 && vregsOk r.vregs && sregsOk r.sregs && zeroAt l 10 6
  else zeroAt l 0 16

/-- R113, R114, R116, R117, R138, R158: the limits of a record's own fields. A node's block counts are ignored (R129), and DIE counts
only for a host launch. A role entry beyond NROLES must be zero for every NROLES, 0 as well (log 97). -/
def recordOk (host node : Bool) (l : List Byte) : Bool :=
  let r := LaunchRec.parse l
  let kinds := (if r.travel then 1 else 0) + (if r.graph then 1 else 0) + (if r.graphics then 1 else 0)
  field l 23 1 < 16 && zeroAt l 36 4 && 1 ≤ r.team && r.team ≤ 4 && r.spm % 256 = 0 && r.spm ≤ 262144 && r.nroles ≤ 4
    && 3 ≤ r.scope && r.scope ≤ 5 && r.prio ≤ 3 && (!host || r.die ≤ 1)
    && ((List.range 4).all fun i => roleOk (i < r.nroles) (l.drop (64 + 16 * i))) && ((r.roles.take r.nroles).map (·.groups)).sum ≤ 16
    && (if r.nroles = 0 then vregsOk r.vregs && sregsOk r.sregs && (r.graphics || (1 ≤ r.threads && r.threads ≤ 2048))
        else r.threads = 0 && r.vregs = 0 && r.sregs = 0)
    && (r.travel == (r.segmap ≠ 0)) && (r.graph == (r.graphdesc ≠ 0)) && kinds ≤ 1
    && (!(r.travel || r.graphics) || (r.team = 1 && r.nroles = 0 && !r.matrix)) && (!r.travel || r.threads ≤ 128)
    && (r.graphics || r.entry.toNat % 8 = 0)
    && (if node then kinds = 0 && r.team = 1 else r.graphics || (r.total ≤ 2 ^ 32 && r.total % r.team = 0))

/-- What a check of a record finds: accepted with what the scheduler keeps of it, a cause of R116, or an access that did not succeed. -/
inductive Verdict
  | accept (r : LaunchRec) (k : LaunchKind)
  | refuse (cause : Nat)
  | stop (g : Got)
  deriving DecidableEq, Repr

/-- Reads a structure and goes on with its bytes. -/
def State.reading (s : State) (ck : Nat) (tag va : DWord) (n : Nat) (k : State → List Byte → State × Verdict) : State × Verdict :=
  match s.readVirt ck (some tag) va n with
  | (s, .bytes l) => k s l
  | (s, g) => (s, .stop g)

/-! ### The graph descriptor (R129) -/

def graphHeaderOk (l : List Byte) : Bool :=
  let recsz := field l 2 2
  1 ≤ field l 0 1 && field l 0 1 ≤ 16 && zeroAt l 1 1 && recsz % 16 = 0 && 16 ≤ recsz && recsz ≤ 512 && 1 ≤ field l 4 4
    && field l 4 4 ≤ 65536 && field l 8 8 % 64 = 0 && zeroAt l 16 48

def nodeEntryOk (l : List Byte) : Bool := 1 ≤ field l 8 1 && field l 8 1 ≤ 8 && zeroAt l 9 3 && 1 ≤ field l 12 4 && zeroAt l 16 16 && field l 0 8 % 64 = 0

/-- Reads and checks the records of the nodes in order. -/
def State.readNodes (s : State) (ck : Nat) (tag : DWord) (k : State → List Node → State × Verdict) : List (List Byte) → List Node → State × Verdict
  | [], acc => k s acc
  | e :: rest, acc =>
    if !nodeEntryOk e then (s, .refuse 2)
    else match s.readVirt ck (some tag) (BitVec.ofNat 64 (field e 0 8)) 128 with
      | (s, .bytes l) =>
        if !recordOk false true l then (s, .refuse 2)
        else s.readNodes ck tag k rest (acc ++ [{ recd := LaunchRec.parse l, batch := field e 8 1, timeout := field e 12 4 }])
      | (s, g) => (s, .stop g)

def State.readGraph (s : State) (ck : Nat) (tag : DWord) (r : LaunchRec) : State × Verdict :=
  s.reading ck tag r.graphdesc 64 fun s h =>
    if !graphHeaderOk h then (s, .refuse 2)
    else s.reading ck tag (r.graphdesc + 64) (32 * field h 0 1) fun s es =>
      s.readNodes ck tag (fun s nodes =>
        if r.total ≠ 0 && nodes.any fun n => !s.couldHold (partOfCtx ck) n.recd.shape then (s, .refuse 3)
        else (s, .accept r (.graph { recsz := field h 2 2, pooln := field h 4 4, poolbase := BitVec.ofNat 64 (field h 8 8), nodes := nodes
                                     free := List.range (field h 4 4) })))
        ((List.range (field h 0 1)).map fun i => (es.drop (32 * i)).take 32) []

/-! ### The segment map (R136-R140) -/

def segOk (l : List Byte) : Bool :=
  let size := field l 8 4
  field l 0 8 % 8 = 0 && size % 8 = 0 && 8 ≤ size && size ≤ 98304 && vregsOk (field l 12 2) && sregsOk (field l 14 2)

def parseSeg (l : List Byte) : Seg := { code := BitVec.ofNat 64 (field l 0 8), size := field l 8 4, vregs := field l 12 2, sregs := field l 14 2 }

def parseEntry (l : List Byte) : Entry :=
  { seg := field l 0 1, lane := field l 1 1 = 1, vin := field l 2 2, sin := field l 4 2, min := BitVec.ofNat 16 (field l 6 2)
    offset := field l 8 4, timeout := field l 12 4 }

/-- R137. -/
def entryOk (segs : List Seg) (l : List Byte) : Bool :=
  let e := parseEntry l
  match segs[e.seg]? with
  | none => false
  | some sg => field l 1 1 ≤ 1 && e.vin ≤ sg.vregs && e.sin ≤ sg.sregs && e.min.getLsbD 0 = false && e.offset % 8 = 0 && e.offset < sg.size
    && (if e.lane then e.sin = 0 && e.min = 0 && 1 ≤ e.timeout else e.timeout = 0)

/-- R138: whether the launch record agrees with a group entry of its map. -/
def entryMatches (r : LaunchRec) (segs : List Seg) (es : List Entry) : Bool :=
  es.any fun e => !e.lane && match segs[e.seg]? with
    | some sg => r.entry = sg.code + BitVec.ofNat 64 e.offset && r.vregs = sg.vregs && r.sregs = sg.sregs
    | none => false

/-- R139. -/
def trszOf (es : List Entry) : Nat := 64 * ((max (4 * (es.map (·.vin)).foldl max 0) 1 + 63) / 64)
def hrecOf (es : List Entry) : Nat := (64 + 4 * (es.map (·.sin)).foldl max 0 + 240 + trszOf es - 1) / trszOf es

/-- R136: the cores that participate. -/
def State.participating (s : State) (part : Nat) (mask : BitVec 96) : List Nat :=
  (s.candidates part).filter fun c => mask = 0 || mask.getLsbD c

def segmapHeaderOk (l : List Byte) : Bool :=
  1 ≤ field l 0 1 && field l 0 1 ≤ 96 && field l 1 1 ≤ 1 && 1 ≤ field l 2 2 && field l 2 2 ≤ 1024 && field l 8 8 % 64 = 0 && zeroAt l 28 36

def State.readSegmap (s : State) (ck : Nat) (tag : DWord) (r : LaunchRec) : State × Verdict :=
  if r.segmap.toNat % 64 ≠ 0 then (s, .refuse 2)
  else s.reading ck tag r.segmap 64 fun s h =>
    if !segmapHeaderOk h then (s, .refuse 2)
    else
      let nseg := field h 0 1
      let nent := field h 2 2
      s.reading ck tag (r.segmap + 64) (16 * (nseg + nent)) fun s l =>
        let rawSeg := (List.range nseg).map fun i => (l.drop (16 * i)).take 16
        let rawEnt := (List.range nent).map fun i => (l.drop (16 * (nseg + i))).take 16
        let segs := rawSeg.map parseSeg
        let es := rawEnt.map parseEntry
        if !rawSeg.all segOk || !rawEnt.all (entryOk segs) || !entryMatches r segs es then (s, .refuse 2)
        else if r.total ≠ 0 && !s.couldHold (partOfCtx ck) { r.shape with spm := r.spm } then (s, .refuse 3)
        else
          let mask : BitVec 96 := BitVec.ofNat 96 (field h 16 12)
          let c := (s.participating (partOfCtx ck) mask).length
          let pooln := field h 4 4
          let hrec := hrecOf es
          if c < nseg then (s, .refuse 7)
          else if pooln < c * 64 * (128 + hrec) + (es.filter (·.lane)).length * hrec then (s, .refuse 4)
          else (s, .accept r (.travel { repl := field h 1 1 = 1, pooln := pooln, poolbase := BitVec.ofNat 64 (field h 8 8), cores := mask
                                        segs := segs, entries := es, trsz := trszOf es, hrec := hrec, free := pooln }))

/-! ### The pass descriptor (R158, R159) -/

def passOk (l : List Byte) : Bool :=
  let lim (o hi : Nat) : Bool := 1 ≤ field l o 2 && field l o 2 ≤ hi
  field l 0 8 % 64 = 0 && 1 ≤ field l 8 4 && field l 8 4 ≤ 65536 && lim 12 16384 && lim 14 16384
    && (field l 48 8 = 0 || field l 56 8 ≠ 0) && field l 56 8 % 256 = 0 && field l 64 8 % 64 = 0 && field l 72 4 % 64 = 0
    && 65536 ≤ field l 72 4 && zeroAt l 76 52

/-- Reads the surface descriptors at the addresses given, 0 naming none; `ok` is what each must also satisfy. -/
def State.readSurfs (s : State) (ck : Nat) (tag : DWord) (ok : Surf → Bool) (k : State → List (Option Surf) → State × Verdict) :
    List Nat → List (Option Surf) → State × Verdict
  | [], acc => k s acc
  | a :: rest, acc =>
    if a = 0 then s.readSurfs ck tag ok k rest (acc ++ [none])
    else if a % 64 ≠ 0 then (s, .refuse 2)
    else match s.readVirt ck (some tag) (BitVec.ofNat 64 a) 64 with
      | (s, .bytes l) =>
        let f := Surf.parse l
        if s.surfOk l && !f.levels && !f.capture && ok f then s.readSurfs ck tag ok k rest (acc ++ [some f]) else (s, .refuse 2)
      | (s, g) => (s, .stop g)

/-- R168: bytes of a tile buffer. -/
def tileBytes (targets : List (Option Surf)) (depth : Bool) : Nat :=
  let n := 1024 * ((targets.map fun t => match t with | some f => formatBytes f.format | none => 0).sum + if depth then 4 else 0)
  (n + 255) / 256 * 256

/-! ### The tile buffer (R168): the targets in order and then the depth, each row by row (log 35) -/

/-- Bytes of a pixel of target `rt`, or of the depth for 4; 0 for one that is not used. -/
def GfxSt.pixelBytes (g : GfxSt) (rt : Nat) : Nat :=
  if rt = 4 then (if g.depth.isSome then 4 else 0) else match (g.targets[rt]?).getD none with | some f => formatBytes f.format | none => 0
def GfxSt.surf (g : GfxSt) (rt : Nat) : Option Surf := if rt = 4 then g.depth else (g.targets[rt]?).getD none
/-- The offset of a pixel of a tile. -/
def GfxSt.pixelOff (g : GfxSt) (rt x y : Nat) : Nat :=
  1024 * ((List.range rt).map g.pixelBytes).sum + (32 * (y % 32) + x % 32) * g.pixelBytes rt

def GfxSt.tileX (g : GfxSt) (tile : Nat) : Nat := tile % tilesX g.width
def GfxSt.tileY (g : GfxSt) (tile : Nat) : Nat := tile / tilesX g.width

/-- A run of pixels of one target in one row: where it lies in the surface and in the tile buffer, and its bytes. -/
structure Row where
  rt : Nat
  va : DWord
  off : Nat
  pixels : Nat
  bytes : Nat
  deriving DecidableEq, Repr

/-- The rows of a target in a tile, inside the render area and the surface. -/
def GfxSt.rows (g : GfxSt) (tile rt : Nat) : List Row :=
  match g.surf rt with
  | none => []
  | some f =>
    let x := 32 * g.tileX tile
    let n := min 32 (min g.width f.width - x)
    (List.range 32).filterMap fun i =>
      let y := 32 * g.tileY tile + i
      if y < min g.height f.height && n > 0 then
        some { rt := rt, va := f.base + BitVec.ofNat 64 (f.texelOff 0 x y), off := g.pixelOff rt x y, pixels := n, bytes := n * g.pixelBytes rt }
      else none

def State.readPass (s : State) (ck : Nat) (tag : DWord) (r : LaunchRec) : State × Verdict :=
  if r.args.toNat % 64 ≠ 0 then (s, .refuse 2)
  else s.reading ck tag r.args 128 fun s l =>
    if !passOk l then (s, .refuse 2)
    else s.readSurfs ck tag (fun _ => true) (fun s rts =>
      s.readSurfs ck tag (fun f => f.format = 4) (fun s ds =>
        let depth := (ds[0]?).getD none
        if tileBytes rts depth.isSome > 131072 then (s, .refuse 2)
        else if !s.couldHold (partOfCtx ck) { groups := [(r.vregs, r.sregs)], spm := tileBytes rts depth.isSome } then (s, .refuse 3)
        else (s, .accept r (.gfx { drawsAddr := BitVec.ofNat 64 (field l 0 8), ndraws := field l 8 4, width := field l 12 2
                                   height := field l 14 2, targets := rts, depth := depth, hiz := BitVec.ofNat 64 (field l 56 8)
                                   binarea := BitVec.ofNat 64 (field l 64 8), binsz := field l 72 4 })))
        [field l 48 8] []) ((List.range 4).map fun i => field l (16 + 8 * i) 8) []

/-! ### The whole check (R115, R116) -/

/-- R116: reads a record once and checks it, for a launch of the depth given; `tag` is that of the command, if one launches.
Of several causes the first found here is reported: the depth, then the record's own fields, then what it names (log 97). -/
def State.checkLaunch (s : State) (ck : Nat) (tag : DWord) (host : Bool) (depth : Nat) (va : DWord) : State × Verdict :=
  if depth > 10 then (s, .refuse 1)
  else if va.toNat % 64 ≠ 0 then (s, .refuse 2)
  else s.reading ck tag va 128 fun s l =>
    if !recordOk host false l then (s, .refuse 2)
    else
      let r := LaunchRec.parse l
      if r.graphics then s.readPass ck tag r
      else if r.travel then s.readSegmap ck tag r
      else
        let plain (s : State) (v : Verdict) : State × Verdict :=
          if r.total ≠ 0 && !s.couldHold (partOfCtx ck) r.shape then (s, .refuse 3) else (s, v)
        if r.graph then match s.readGraph ck tag r with
          | (s, .accept r k) => plain s (.accept r k)
          | x => x
        else plain s (.accept r .plain)

end Sys2Proof.Machine
end

