-- ==== Sys2Proof/Machine/Launch.lean ====
section
/-! DEFINITION. Launches: acceptance, the order of the launch queues, placement, completion, LAUNCH, KARM and the host's LAUNCH
(R113-R128, R133, R399, R488). -/
namespace Sys2Proof.Machine

/-! ### Launch queues (R116, R123) -/

/-- R123: whether a launch has blocks left to place. -/
def Launch.blocksLeft (l : Launch) : Bool := match l.kind with | .gfx g => g.placing | _ => l.next < l.recd.total

def State.queued (s : State) (die part : Nat) : List (Nat × Launch) :=
  s.launches.filter fun e => e.2.home = die && partOfCtx e.2.ctx = part && e.2.blocksLeft

/-- R116: cause 6. The number of entries is not given (log 27). -/
def State.queueFull (s : State) (die part : Nat) : Bool := (s.queued die part).length ≥ 1 + Config.launchQueueMore

/-- R123: greater depth, then higher priority, then earlier acceptance. -/
def Launch.ahead (a b : Launch) : Bool :=
  a.depth > b.depth || (a.depth = b.depth && (a.recd.prio > b.recd.prio || (a.recd.prio = b.recd.prio && a.order < b.order)))

/-! A graphics launch makes its blocks as its passes go on: it stands in the queue for a block while it has one to place or can come to one
without waiting for what is placed (log 83). -/

def inRange (va from_ : DWord) (n : Nat) : Bool := (va - from_).toNat < n

/-- R509: whether the load of a tile waits. -/
def GfxSt.tileWaits (g : GfxSt) (tile : Nat) : Bool :=
  g.waits.any fun w => w.why ≠ .failed && (List.range 5).any fun rt => (g.rows tile rt).any fun r => inRange w.va (r.va &&& ~~~127#64) (r.bytes + 127)

/-- Whether a graphics launch whose turn has come has a block to place: a tile, a group of an open chunk, or what its next chunks will hold. -/
def GfxSt.toPlace (g : GfxSt) : Bool :=
  if g.inTiles then g.tiles.any fun t => !g.tileWaits t
  else (g.chunks.any fun c => c.placed < c.groups) || (g.waits.all (·.why = .failed) && (g.entries ≠ [] || g.draw < g.ndraws || g.chunks = []))

/-- R162: an earlier graphics launch of its context is left. -/
def State.gfxLater (s : State) (lid : Nat) (l : Launch) : Bool :=
  s.launches.any fun e => e.2.ctx = l.ctx && e.1 ≠ lid && e.2.order < l.order && match e.2.kind with | .gfx _ => true | _ => false

/-- R120, R123: whether a launch of the queue has a block to place now. -/
def State.wants (s : State) (e : Nat × Launch) : Bool := match e.2.kind with | .gfx g => !s.gfxLater e.1 e.2 && g.toPlace | _ => true

/-- R120, R123: the one launch of a partition that a scheduler places blocks of. -/
def State.headLaunch (s : State) (die part : Nat) : Option (Nat × Launch) :=
  ((s.queued die part).filter s.wants).foldl (fun b e => match b with | none => some e | some o => if e.2.ahead o.2 then some e else b) none

/-! ### Completion (R125, R155) -/

/-- Whether everything of a launch has retired and its writes have completed (R125, R218); a graph launch's records must all be back (R498). -/
def State.launchOver (s : State) (lid : Nat) (l : Launch) : Bool :=
  !l.blocksLeft && !(s.blocks.any fun e => e.2.launch = lid) && !(s.launches.any fun e => e.2.parentLaunch = some lid)
    && !(s.pendingWrites.any fun w => w.lid = lid) && (match l.kind with
      | .graph g => g.free.length = g.pooln
      | .travel t => t.flying = [] && (l.pins.all fun e => e.2.arrivals = [] && e.2.buffers.all fun b => b.threads = [] && b.waiting = []) && s.cores.all fun e => match e.2.pinned with
          | some p => p.launch ≠ lid || (p.arrivals = [] && p.buffers.all fun b => b.threads = [] && b.waiting = [])
          | none => true
      | _ => true)

/-- What a launch holds on the cores goes with it. -/
def Core.releaseLaunch (c : Core) (lid : Nat) : Core :=
  { c with rings := kdel c.rings lid, pinned := match c.pinned with | some p => if p.launch = lid then none else some p | none => none }

/-- R125, R126, R128: the launch is gone, and the counter it was started on is decremented or its host command completes. The writes of the
launch are then seen by the block that waits for it, so that its core's L1 lines are given up (log 73). -/
def State.closeLaunch (s : State) (lid : Nat) (l : Launch) : State :=
  let s := { s with launches := kdel s.launches lid, cores := kmapAll s.cores fun _ c => c.releaseLaunch lid }
  let s := match l.parent with
    | some (bid, k) =>
      let s := match kget s.blocks bid with | some b => s.acquire b.core 2 | none => s
      (s.kdec bid k).modBlock bid fun b => { b with openOps := b.openOps - 1 }
    | none => s
  match l.host with
  | some seq => s.completeCmd l.ctx seq
  | none => s

/-- R125: completes a launch when nothing of it is left, and after it the travelling launch it is a child of (R155). -/
def State.tryComplete (s : State) (lid : Nat) : Nat → State
  | 0 => s
  | fuel + 1 => match kget s.launches lid with
    | none => s
    | some l =>
      if !s.launchOver lid l then s
      else match l.parentLaunch with
        | some p => (s.closeLaunch lid l).tryComplete p fuel
        | none => s.closeLaunch lid l

/-- R128: one more than the deepest nesting. -/
def nestFuel : Nat := 12
def State.checkDone (s : State) (lid : Nat) : State := s.tryComplete lid nestFuel

/-- R218, R263: the first write that waits on the line of one given has every acknowledgement, and lands. -/
def State.acknowledge (s : State) (w : PendingWrite) : State :=
  match s.pendingWrites.find? fun o => o.line = w.line with
  | none => s
  | some o => { s with pendingWrites := s.pendingWrites.erase o }.land o

/-- R29: an acknowledgement of the other die's replica waits while the link retrains. -/
def State.ackReaches (s : State) (w : PendingWrite) : Bool := !(s.link.retraining && w.sharers.contains 3)

/-- WRITE_ACKNOWLEDGEMENT (R218, R263). The launches whose writes have then completed complete (R125). -/
def execWriteAcknowledgement (idx : Nat) (s : State) : Outcome :=
  .next (s.launches.foldl (fun s e => s.checkDone e.1) (((s.pendingWrites[idx]?).filter s.ackReaches).elim s s.acknowledge))

/-! ### Acceptance -/

/-- R133: the drain reservation of each node, in order, chosen as R120 chooses, all from the one rotation pointer, which they leave as it is (log 96). -/
def State.reserveNodes (s : State) (part die : Nat) : List (Nat × Node) → List Reserve → Option (List Reserve)
  | [], acc => some acc
  | (i, n) :: rest, acc =>
    let base (c : Nat) : Free := if s.occupies c part then s.free c else s.cleared c part
    let free (c : Nat) : Free := (acc.filter fun r => r.claim.core = c).foldl (fun f r => f.takeClaim r.claim) (base c)
    match (rotateFrom ((s.part part).pointer die) (s.candidates part)).findSome? fun c => (free c).fit c n.recd.shape with
    | none => none
    | some cl => s.reserveNodes part die rest (acc ++ [{ node := i, claim := cl }])

/-- R133: the kind with its reservations made; none is cause 5. -/
def State.reserveKind (s : State) (part die : Nat) (k : LaunchKind) : Option LaunchKind :=
  match k with
  | .graph g => (s.reserveNodes part die (g.nodes.zipIdx.map fun x => (x.2, x.1)) []).map fun r => .graph { g with reserved := r }
  | k => some k

/-- What a launch is accepted with. -/
structure Accept where
  ck : Nat
  recAddr : DWord
  recd : LaunchRec
  home : Nat
  depth : Nat
  stamp : Nat
  parent : Option (Nat × Nat) := none
  parentLaunch : Option Nat := none
  host : Option Nat := none
  deriving DecidableEq, Repr

/-- The launch joins its home scheduler; a zero-block launch completes at once (R125). -/
def State.addLaunch (s : State) (a : Accept) (k : LaunchKind) : State :=
  let id := s.nextId
  let l : Launch := { id := id, ctx := a.ck, recAddr := a.recAddr, recd := a.recd, home := a.home, depth := a.depth, stamp := a.stamp
                      order := id, parent := a.parent, parentLaunch := a.parentLaunch, host := a.host, kind := k }
  let s := { s with nextId := id + 1, launches := kset s.launches id l }
  let s := match a.parent with
    | some (bid, _) => s.modBlock bid fun b => { b with openOps := b.openOps + 1 }
    | none => s
  s.checkDone id

/-! ### LAUNCH (R488) and KARM (R399) -/

/-- The launch of a group: the record that a waiting LAUNCH or KARM has read already, or the one it reads now (R115). -/
def State.groupLaunch (s : State) (e : Env) (va : DWord) : State × Verdict :=
  match e.g.held with
  | some (r, k) => (s, .accept r k)
  | none => s.checkLaunch e.ck 0 false (e.l.depth + 1) va

/-- R210, R375: an access of a scalar instruction did not succeed: a whole-group trap with TRAPMASK empty, or a park at the word. -/
def State.stopUniform (s : State) (e : Env) (g : Got) : State :=
  match g with
  | .bytes _ => s
  | .bad c a => s.takeTrap e.gid { cause := c, pc := e.g.pc, addr := a, resume := true }
  | .park a ipa => s.park e.gid none a ipa

/-- The group waits and keeps the record it has read. -/
def State.waitHeld (s : State) (gid : Nat) (w : WaitFor) (r : LaunchRec) (k : LaunchKind) : State :=
  (s.waitAt gid w).modGroup gid fun g => { g with held := some (r, k) }

def Env.child (e : Env) (va : DWord) (r : LaunchRec) (die k : Nat) : Accept :=
  { ck := e.ck, recAddr := va, recd := r, home := die, depth := e.l.depth + 1, stamp := e.l.stamp, parent := some (e.g.block, k)
    parentLaunch := if e.travel then some e.b.launch else none }

/-- LAUNCH (R488, R126). -/
def execLaunch (f : F3) (s : State) : Outcome :=
  withF3 (scalarX 5 (sDst 1) (sReg 2 2) .zero f) f s fun e s =>
    if s.writesPending e.g.uid then s.waitAt e.gid .writes
    else
      let va := e.g.regs.sget64 (regOf f.a)
      let k := knum f
      let die := s.dieOf e.g.core
      match s.groupLaunch e va with
      | (s, .stop g) => s.stopUniform e g
      | (s, .refuse c) => s.finishS e f.d (BitVec.ofNat 32 c)
      | (s, .accept r kind) =>
        if e.b.kval k = 0xFFFF then s.waitHeld e.gid (.counterRoom k 1) r kind
        else if s.queueFull die e.part then s.waitHeld e.gid .launchRoom r kind
        else match s.reserveKind e.part die kind with
          | none => s.finishS e f.d 5
          | some kind => ((s.kput e.g.block k (e.b.kval k + 1)).finishS e f.d 0).addLaunch (e.child va r die k) kind

/-- R127: a graph's reservations are made when its armed launch starts; one that fails runs no block and completes at once, with
event 0x02. -/
def State.startArmed (s : State) (bid : Nat) (b : Block) (l : Launch) (a : Armed) : State :=
  let die := s.dieOf b.core
  let travel := match l.kind with | .travel _ => true | _ => false
  match s.reserveKind (partOfCtx l.ctx) die a.kind with
  | some kind =>
    s.addLaunch { ck := l.ctx, recAddr := a.recAddr, recd := a.recd, home := die, depth := a.depth, stamp := a.stamp
                  parent := some (bid, a.done), parentLaunch := if travel then some b.launch else none } kind
  | none => (s.kdec bid a.done).logNow (fnOfPart (partOfCtx l.ctx)) 2 (numOfCtx l.ctx) 0 [4, 5]

/-- KARM (R399, R127): the counter it names in X is the one it is armed on; B names the completion counter. A launch that finds others due
on its counter starts after them. -/
def execKarm (f : F3) (s : State) : Outcome :=
  withF3 (scalarX 5 (sDst 1) (sReg 2 2) (sSrc 1) f) f s fun e s =>
    let va := e.g.regs.sget64 (regOf f.a)
    let m := (e.g.s32 f.b).toNat
    let n := knum f
    if m > 31 then s.illegalOperand e
    else match s.groupLaunch e va with
      | (s, .stop g) => s.stopUniform e g
      | (s, .refuse c) => s.finishS e f.d (BitVec.ofNat 32 c)
      | (s, .accept r kind) =>
        if e.b.armed.length ≥ 8 then s.waitHeld e.gid .armedRoom r kind
        else if e.b.kval m = 0xFFFF then s.waitHeld e.gid (.counterRoom m 1) r kind
        else
          let s := (s.kput e.g.block m (e.b.kval m + 1)).finishS e f.d 0
          let a : Armed := { k := n, due := false, done := m, recAddr := va, recd := r, kind := kind, stamp := e.l.stamp, depth := e.l.depth + 1 }
          match kget s.blocks e.g.block with
          | none => s
          | some b =>
            if b.kval n = 0 && !b.armed.any (fun o => o.due && o.k = n) then s.startArmed e.g.block b e.l a
            else s.modBlock e.g.block fun b => { b with armed := b.armed ++ [{ a with due := b.kval n = 0 }] }

/-- ARMED_LAUNCH_START (R127): the first launch that is due on a counter starts. -/
def execArmedLaunchStart (bid k : Nat) (s : State) : Outcome :=
  match kget s.blocks bid with
  | none => .next s
  | some b => match b.armed.find? fun a => a.due && a.k = k, kget s.launches b.launch with
    | some a, some l => .next ((s.modBlock bid fun b => { b with armed := b.armed.erase a }).startArmed bid b l a)
    | _, _ => .next s

/-! ### The host's LAUNCH (R115, R116) -/

def execCmdLaunch (fn ctx : Nat) (s : State) : Outcome :=
  asCommand 1 1 (some 0) (fun _ => true) (fun c => zeroAt c.bytes 24 40) fn ctx s fun c s =>
    match s.checkLaunch c.ck c.tag true 0 (c.addr 16) with
    | (s, .stop _) => s.refuse c 3 []
    | (s, .refuse n) => s.refuse c 4 [BitVec.ofNat 8 n]
    | (s, .accept r kind) =>
      if s.queueFull r.die c.part then s.refuse c 4 [6]
      else match s.reserveKind c.part r.die kind with
        | none => s.refuse c 4 [5]
        | some kind =>
          (s.openCmd c).addLaunch { ck := c.ck, recAddr := c.addr 16, recd := r, home := r.die, depth := 0, stamp := (s.ctx c.ck).frame
                                    host := some c.seq } kind

/-! ### Temporal cores (R80, R81) -/

/-- R80: whether a core lies in the core set of an enabled temporal partition. -/
def State.temporalParts (s : State) (core : Nat) : List Nat :=
  s.parts.filterMap fun e => if e.2.temporal && (e.2.en || e.1 = 31) && !e.2.paused && e.2.coreset.getLsbD core then some e.1 else none

def GraphSt.ready (g : GraphSt) (die : Nat) : List Ready := if die = 0 then g.ready0 else g.ready1

/-- R132, R133: whether a partition has a ready batch that a core of its die could take once it holds no other partition's blocks. -/
def State.batchFor (s : State) (part core : Nat) : Bool :=
  s.launches.any fun e => partOfCtx e.2.ctx = part && match e.2.kind with
    | .graph g => (g.ready (s.dieOf core)).any fun b => match g.nodes[b.node]? with
      | some n => ((s.cleared core part).fit core n.recd.shape).isSome
          || g.reserved.any fun r => r.node = b.node && r.block.isNone && r.claim.core = core
      | none => false
    | _ => false

/-- What the next block of a launch asks of a core. -/
def Launch.asks (l : Launch) : Shape := match l.kind with | .gfx _ => { groups := [(l.recd.vregs, l.recd.sregs)] } | _ => l.recd.shape

/-- R80: whether a partition has a block eligible for a core: one saved, a ready batch, or the next block of its first launch, that the core could
take once it holds no other partition's blocks. -/
def State.eligible (s : State) (part core : Nat) : Bool :=
  (s.ctxs.any fun e => partOfCtx e.1 = part && e.2.saved ≠ []) ||
  (s.launches.any fun e => partOfCtx e.2.ctx = part && ((kget e.2.pins core).isSome || (kget e.2.rings core).isSome)) ||
  s.batchFor part core ||
  [0, 1].any fun die => match s.headLaunch die part with
    | some (_, l) => ((s.cleared core part).fit core l.asks).isSome
    | none => false

/-- R80: a deficit has 32 bits and a sign; beyond their range it wraps (log 92). -/
def Core.setDeficit (c : Core) (p : Nat) (v : Int) : Core := { c with deficit := kset c.deficit p (BitVec.ofInt 32 v) }
def Core.getDeficit (c : Core) (p : Nat) : Int := ((kget c.deficit p).getD 0).toInt

/-- R80, R285: whether a core has anything of its holder resident. -/
def State.occupied (s : State) (core : Nat) : Bool :=
  (s.core core).pinned.isSome || (s.core core).rings ≠ [] || s.blocks.any fun e => e.2.core = core && e.2.resident

/-- R80: the scheduler's loop over the partitions of a core, from the one after the last visited, until one is admitted. -/
def State.arbitrate (s : State) (core : Nat) (order : List Nat) : Nat → List Nat → State
  | 0, _ => s
  | fuel + 1, [] => if order.any fun p => s.eligible p core then s.arbitrate core order fuel order else s
  | fuel + 1, p :: rest =>
    let d := (s.core core).getDeficit p
    if !s.eligible p core then
      ((s.modCore core fun c => { (if d > 0 then c.setDeficit p 0 else c) with lastPart := p })).arbitrate core order fuel rest
    else
      let d := d + ((s.part p).weight.toNat * 1024 : Nat)
      let s := s.modCore core fun c => { c.setDeficit p d with lastPart := p }
      if d ≤ 0 then s.arbitrate core order fuel rest else s.modCore core fun c => { c with holder := some p, preempting := false, charged := false }

/-- A bound on the visits of the loop: a 32-bit deficit is paid back after at most 2^21 quanta, of 25 partitions. -/
def arbFuel : Nat := 2 ^ 21 * 64

/-- R80: a core that no partition holds is given to the next one that may have it. -/
def State.grantCore (s : State) (core : Nat) : State :=
  let l := s.temporalParts core
  if l = [] || (s.core core).holder.isSome then s
  else
    let start := l.filter ((s.core core).lastPart < ·) ++ l.filter (· ≤ (s.core core).lastPart)
    s.arbitrate core start arbFuel start

/-- TEMPORAL_QUANTUM_EXPIRY (R80): the holder's credit is spent or it has no block here and none to place; its blocks are to be saved,
and with none resident the core is released and given to the next. -/
def execTemporalQuantumExpiry (core : Nat) (s : State) : Outcome :=
  match (s.core core).holder with
  | none => .next (s.grantCore core)
  | some p =>
    let resident := s.occupied core
    if (s.core core).getDeficit p > 0 && (resident || s.eligible p core) then .next s
    else if resident then .next (s.modCore core fun c => { c with preempting := true })
    else .next ((s.modCore core fun c => { c with holder := none, preempting := false, charged := false }).grantCore core)

/-! ### Placement (R120-R122) -/

/-- R114, R184: a block's index along x, y and z. -/
def LaunchRec.blockIdx (r : LaunchRec) (lin : Nat) : Nat × Nat × Nat :=
  (lin % r.nx, lin / r.nx % r.ny, lin / (r.nx * r.ny))

/-- R120: cores of temporal partitions that nobody holds are offered first. -/
def State.offerCores (s : State) (part : Nat) : State :=
  if (s.part part).temporal then (s.candidates part).foldl (fun s c => s.grantCore c) s else s

/-- R120, R122: the next team of a launch's own blocks. -/
def State.placeBlocks (s : State) (die lid : Nat) (l : Launch) : State :=
  let part := partOfCtx l.ctx
  match s.placeTeam l.ctx l.recd.team l.recd.shape (s.candidates part) ((s.part part).pointer die) with
  | none => s
  | some cls =>
    let s := cls.zipIdx.foldl (fun s x =>
      let i := l.recd.blockIdx (l.next + x.2)
      (s.seat l.ctx { id := 0, launch := lid, core := 0, lin := l.next + x.2, bidx := BitVec.ofNat 32 i.1, bidy := BitVec.ofNat 32 i.2.1
                      bidz := BitVec.ofNat 32 i.2.2, team := l.next / l.recd.team, rank := x.2 } x.1 (l.recd.starts [])).1) s
    (s.modPart part fun p => p.setPointer die (((cls.getLast?).map (·.core)).getD 0 + 1)).modLaunch lid fun l =>
      { l with next := l.next + l.recd.team }

end Sys2Proof.Machine
end

