-- ==== Sys2Proof/Machine/Binning.lean ====
section
/-! DEFINITION. Graphics launches: fixed-function accesses, the draw table, chunks, culling and binning, the geometry instructions and the
payload ring (R158-R167, R178, R467, R474-R477, R495, R509). -/
namespace Sys2Proof.Machine

def State.gfxOf (s : State) (lid : Nat) : Option GfxSt := match s.kindOf lid with | .gfx g => some g | _ => none
def State.modGfx (s : State) (lid : Nat) (f : GfxSt → GfxSt) : State :=
  s.modLaunch lid fun l => match l.kind with | .gfx g => { l with kind := .gfx (f g) } | _ => l

/-! ### Fixed-function accesses (R509) -/

/-- How a fixed-function access goes: it has an address, it waits for a page, or it fails. -/
inductive Ff
  | dev (pa : Nat)
  | host (key : Nat)
  | wait
  | fail
  deriving DecidableEq, Repr

/-- R509: a failure is recorded once per page and launch. -/
def State.ffFail (s : State) (lid ck : Nat) (va : DWord) (cause : Nat) (stage2 : Bool) : State :=
  match s.gfxOf lid with
  | some g =>
    if g.logged.contains (va.toNat / 4096) then s
    else (s.modGfx lid fun g => { g with logged := g.logged ++ [va.toNat / 4096] }).logFault ck va cause stage2
  | none => s

/-- R509: an access begins to wait. -/
def State.ffWaits (s : State) (lid : Nat) (va : DWord) (why : FfWhy) : State × Ff :=
  (s.modGfx lid fun g => { g with waits := g.waits ++ [{ va := va, why := why }] }, .wait)

/-- R509: a step of a pass has ended, whose accesses lay in the ranges given: that a page request of theirs failed is over with it. -/
def State.ffDone (s : State) (lid : Nat) (l : List (DWord × Nat)) : State :=
  s.modGfx lid fun g => { g with waits := g.waits.filter fun w => w.why ≠ .failed || !l.any fun r => inRange w.va r.1 r.2 }

/-- R509, R211: one access with the context's rights, translated. One that waits goes on when what it waits for releases it; a failed page request
fails it with the cause PAGE, as often as its step comes to it, and a poisoned line or frame fails it with the cause POISON. While the link retrains its
step is held (R29, log 41). -/
def State.ffReach (s : State) (lid ck : Nat) (va : DWord) (k : Access) : State × Ff × Bool :=
  if s.link.retraining then (s, .wait, false)
  else match (s.gfxOf lid).bind fun g => g.waits.find? fun w => w.va = va with
  | some w =>
    if w.why = .failed then (s.ffFail lid ck va causePage false, .fail, false)
    else (s, .wait, false)
  | none =>
    let r := s.access s.freeCtr ck va k
    let s := (s.keepTlb r.2).skip seedsPerAccess
    match r.1 with
    | .dev pa unc => (s, .dev pa, unc)
    | .host key => (s, .host key, false)
    | .park ipa pri => match s.ffWaits lid va (.page (if pri then none else some ipa)) with | (s, w) => (s, w, false)
    | .stop c walk => (s.ffFail lid ck va c (walk.getD false), .fail, false)

/-- R509, R244: one access, in one line, that reaches its home slice; it waits for the FILL invocations that it raises. -/
def State.ffAccess (s : State) (lid ck : Nat) (va : DWord) (k : Access) : State × Ff :=
  match s.ffReach lid ck va k with
  | (s, .dev pa, unc) => match s.touch { core := none, ck := ck, va := va.toNat, ev := true } pa unc (k = .write) with
    | (s, []) => (s, .dev pa)
    | (s, fills) => s.ffWaits lid va (.fills fills)
  | (s, r, _) => (s, r)

/-- The bytes that a fixed-function read finds; none when it waits. A part that cannot be read has no bytes. -/
def State.ffRead (s : State) (lid ck : Nat) (va : DWord) (n : Nat) : State × Option (List (Option Byte)) :=
  (linePieces va n).foldl (fun r p =>
    match r.2 with
    | none => r
    | some l => match r.1.ffAccess lid ck p.1 .read with
      | (s, .dev pa) => (s, some (l ++ (s.readMem pa p.2).map some))
      | (s, .host key) => (s, some (l ++ (bytesAt s.hostMem key p.2).map some))
      | (s, .wait) => (s, none)
      | (s, .fail) => (s, some (l ++ List.replicate p.2 none))) (s, some [])

/-- R93: a fixed-function write that is suppressed is translated all the same: none when it waits, otherwise how many of its bytes it would have
written. -/
def State.ffSuppress (s : State) (lid ck : Nat) (va : DWord) (n : Nat) : State × Option Nat :=
  (linePieces va n).foldl (fun r p =>
    match r.2 with
    | none => r
    | some k => match r.1.ffReach lid ck p.1 .write with
      | (s, .wait, _) => (s, none)
      | (s, .fail, _) => (s, some k)
      | (s, _, _) => (s, some (k + p.2))) (s, some 0)

/-- Fixed-function writes that are made together: none when one of them waits, otherwise whether all of them were made. -/
def State.ffWrites (s : State) (lid ck : Nat) (l : List (DWord × List Byte)) : State × Option Bool :=
  let acc := (l.flatMap fun x => (linePieces x.1 x.2.length).map fun p => (p.1, (x.2.drop (p.1 - x.1).toNat).take p.2)).foldl
    (fun (r : State × List (List Byte × Ff)) p => match r.1.ffAccess lid ck p.1 .write with | (s, f) => (s, r.2 ++ [(p.2, f)])) (s, [])
  if acc.2.any (fun x => x.2 = .wait) then (acc.1, none)
  else
    let s := acc.2.foldl (fun s x => match x.2 with
      | .dev pa => s.storeDone pa x.1
      | .host key => s.writeHost key x.1
      | _ => s) acc.1
    (s, some (!acc.2.any fun x => x.2 = .fail))

/-- A fixed-function write. -/
def State.ffWrite (s : State) (lid ck : Nat) (va : DWord) (data : List Byte) : State × Option Bool := s.ffWrites lid ck [(va, data)]

def allSome (l : List (Option Byte)) : Option (List Byte) := if l.all Option.isSome then some (l.filterMap id) else none

/-! ### Dies and order (R162, R163, R165) -/

/-- R163: the dies of which the partition's core set holds cores. -/
def State.gfxDies (s : State) (part : Nat) : List Nat := [0, 1].filter fun d => (s.candidates part).any fun c => s.dieOf c = d

/-- R165: the die that owns a tile. -/
def tileOwner (dies : List Nat) (width tile : Nat) : Nat :=
  match dies with
  | [d] => d
  | _ => (tile % tilesX width + tile / tilesX width) % 2

/-- R120, R123, R162: whether a graphics launch may place blocks: no earlier graphics launch of its context is left, and no launch of its queue
that stands ahead of it has a block to place. -/
def State.gfxTurn (s : State) (lid : Nat) (l : Launch) : Bool :=
  !s.gfxLater lid l && !(s.queued l.home (partOfCtx l.ctx)).any fun e => e.2.ahead l && s.wants e

/-! ### The draw table (R160, R161) -/

/-- R178: what a payload ring sets aside: four slots and a mesh group. -/
def slotBytes : Nat := 16384
def ringShape (r : LaunchRec) : Shape := { groups := [(r.vregs, r.sregs)], spm := 4 * slotBytes, sets := 4 }
def taskShape (r : LaunchRec) : Shape := { groups := [(r.vregs, r.sregs)], spm := r.spm }

/-- R161, R495: whether some core could hold a task group with its ring, with nothing else resident. -/
def State.couldTask (s : State) (part : Nat) (r : LaunchRec) : Bool :=
  (s.candidates part).any fun c => match (s.emptyFree c).fit c (ringShape r) with
    | some cl => (((s.emptyFree c).takeClaim cl).fit c (taskShape r)).isSome
    | none => false

/-- R161: the draw of an entry and a state word, or the data of the event with which it is skipped. -/
def State.checkDraw (s : State) (part : Nat) (r : LaunchRec) (l : List Byte) (st : Word) : Except (List Byte) Draw :=
  let prog (o : Nat) : DWord := BitVec.ofNat 64 (field l o 8)
  let bad (a : DWord) : Bool := a.extractLsb' 0 3 ≠ 0 || !canonical a
  if stDfunc st = 7 || st.extractLsb' 10 22 ≠ 0 || !zeroAt l 13 3 || !zeroAt l 48 16 then .error [5]
  else if field l 12 1 > 1 || field l 8 4 = 0 || field l 8 4 > 2 ^ 24 || bad (prog 16) || bad (prog 24) || bad (prog 32) then .error [4]
  else if field l 12 1 = 1 && !s.couldTask part r then .error [4, 3]
  else .ok { pstate := st, count := field l 8 4, mesh := field l 12 1 = 1, prog0 := prog 16, prog1 := prog 24, pixpc := prog 32, arg := prog 40 }

/-- Binning goes on to the next draw. -/
def GfxSt.nextDraw (g : GfxSt) : GfxSt := { g with draw := g.draw + 1, within := 0 }

/-- R161, R509: the draw that binning has reached is read and checked, once. -/
def State.reachDraw (s : State) (lid : Nat) (l : Launch) (g : GfxSt) : State :=
  let ent := g.drawsAddr + BitVec.ofNat 64 (64 * g.draw)
  match s.ffRead lid l.ctx ent 64 with
  | (s, none) => s
  | (s, some b) => match allSome b with
    | none => (s.ffDone lid [(ent, 64)]).modGfx lid GfxSt.nextDraw
    | some bytes => match s.ffRead lid l.ctx (BitVec.ofNat 64 (field bytes 0 8)) 4 with
      | (s, none) => s
      | (s, some w) =>
        let s := s.ffDone lid [(ent, 64), (BitVec.ofNat 64 (field bytes 0 8), 4)]
        match allSome w with
        | none => s.modGfx lid GfxSt.nextDraw
        | some w => match s.checkDraw (partOfCtx l.ctx) l.recd bytes (word32 w) with
          | .ok d => s.modGfx lid fun g => { g with draws := kset g.draws g.draw d }
          | .error data =>
            (s.logNow (fnOfPart (partOfCtx l.ctx)) 2 (numOfCtx l.ctx) 0 data).modGfx lid GfxSt.nextDraw

/-! ### Chunks (R163) -/

/-- The next chunk of the draw in hand: 256 triangles, whose vertices fill groups in order, or 256 task groups. -/
def GfxSt.openChunk (g : GfxSt) (dies : List Nat) (d : Draw) : GfxSt :=
  let n := min 256 (d.count - g.within)
  let c : Chunk := { num := g.opened, draw := g.draw, first := g.within, count := n
                     die := (dies[g.opened % dies.length]?).getD 0, groups := if d.mesh then n else (3 * n + 127) / 128 }
  let g := { g with chunks := g.chunks ++ [c], opened := g.opened + 1, within := g.within + n }
  if g.within ≥ d.count then g.nextDraw else g

def GfxSt.modChunk (g : GfxSt) (num : Nat) (f : Chunk → Chunk) : GfxSt :=
  { g with chunks := g.chunks.map fun c => if c.num = num then f c else c }

/-- R467: the values in s0 to s5 at the start of a program. -/
def gfxArgs (r : LaunchRec) (d : Draw) (s4 s5 : Nat) : List Word :=
  argWords r.args ++ [lo32 d.arg, hi32 d.arg, BitVec.ofNat 32 s4, BitVec.ofNat 32 s5]

/-- A block of a graphics launch; its block index is not stated (log 29). -/
def State.gfxBlock (s : State) (lid : Nat) (p : Prog) (g : GfxBlock) : Block :=
  { id := 0, launch := lid, core := 0, bidx := Config.freeWord s.freeCtr, bidy := Config.freeWord (s.freeCtr + 1)
    bidz := Config.freeWord (s.freeCtr + 2), prog := p, gfx := g }

/-- A block of one group is placed with given vector registers. -/
def State.admitGfx (s : State) (l : Launch) (blk : Block) (cl : Claim) (st : Start) (v : Sparse 32) : State :=
  match (s.skip 3).seat l.ctx blk cl [st] with
  | (s, bid) =>
    let s := { s with groups := kmapAll s.groups fun _ g => if g.block = bid then { g with regs := { g.regs with v := v } } else g }
    s.modPart (partOfCtx l.ctx) fun p => p.setPointer (s.dieOf cl.core) (cl.core + 1)

/-- The cores of a die in the partition's core set, from the rotation pointer (R120, R163). -/
def State.dieOrder (s : State) (part die : Nat) : List Nat :=
  rotateFrom ((s.part part).pointer die) ((s.candidates part).filter fun c => s.dieOf c = die)

/-- The vertex numbers of a vertex program's threads, in v0. -/
def vertexRegs (first n : Nat) : Sparse 32 := ssets [] ((List.range n).map fun t => (t, BitVec.ofNat 32 (first + t)))

/-- R163, R467: group `i` of a chunk of triangles. -/
def State.placePosition (s : State) (lid : Nat) (l : Launch) (c : Chunk) (d : Draw) : State :=
  let start := 128 * c.placed
  let n := min 128 (3 * c.count - start)
  match (s.dieOrder (partOfCtx l.ctx) c.die).findSome? fun k => s.tryCore l.ctx k { groups := [(l.recd.vregs, l.recd.sregs)] } [] with
  | none => s
  | some cl =>
    let st : Start := { vregs := l.recd.vregs, sregs := l.recd.sregs, pc := d.prog0, m0 := lowMask n, s := (gfxArgs l.recd d c.draw 0).take 5
                        gfx := { draw := c.draw, first := 3 * c.first + start } }
    (s.admitGfx l (s.gfxBlock lid .position { draw := c.draw, chunk := c.num }) cl st (vertexRegs (3 * c.first + start) n)).modGfx lid
      fun g => g.modChunk c.num fun c => { c with placed := c.placed + 1 }

/-- R179, R288: the saved payload ring of a launch that a core may take back: its own, or one of another core of its die. -/
def State.ringBack (s : State) (l : Launch) (core : Nat) : Option (Nat × Ring) :=
  match kget l.rings core with
  | some r => some (core, r)
  | none => l.rings.find? fun e => s.dieOf e.1 = s.dieOf core

/-- R495: where a task group would go on a core: the ring it needs there, if the core has none yet, and its own claim. A core that may take back a
saved ring gets no other (log 88). -/
def State.tryTask (s : State) (lid : Nat) (l : Launch) (core : Nat) : Option (Option Claim × Claim) :=
  match kget (s.core core).rings lid with
  | some _ => (s.tryCore l.ctx core (taskShape l.recd) []).map fun c => (none, c)
  | none => if (s.ringBack l core).isSome then none else match s.tryCore l.ctx core (ringShape l.recd) [] with
    | none => none
    | some rc => (s.tryCore l.ctx core (taskShape l.recd) [rc]).map fun c => (some rc, c)

/-- R178, R467, R495: the next task group of a chunk. -/
def State.placeTask (s : State) (lid : Nat) (l : Launch) (c : Chunk) (d : Draw) : State :=
  match (s.dieOrder (partOfCtx l.ctx) c.die).findSome? fun k => s.tryTask lid l k with
  | none => s
  | some (ring, cl) =>
    let s := match ring with
      | some rc => s.modCore cl.core fun k => { k with rings := kset k.rings lid { claim := rc } }
      | none => s
    let i := c.first + c.placed
    let st : Start := { vregs := l.recd.vregs, sregs := l.recd.sregs, pc := d.prog0, m0 := lowMask 128, s := (gfxArgs l.recd d i 0).take 5
                        gfx := { draw := c.draw } }
    (s.admitGfx l (s.gfxBlock lid .task { draw := c.draw, chunk := c.num, task := i }) cl st []).modGfx lid
      fun g => g.modChunk c.num fun c => { c with placed := c.placed + 1 }

/-! ### What the blocks of binning leave -/

def geomVertex (g : Geom) (v : Nat) : List Word := (List.range 4).map fun i => sget g.pos (4 * v + i)
/-- The slots of a vertex, by slot number. -/
def geomSlots (g : Geom) (v : Nat) : Sparse 32 := (g.slots.filter fun e => e.1 / 16 = v).map fun e => (e.1 % 16, e.2)

/-- The order of a draw's mesh groups (R476). -/
def meshKey (task call mesh : Nat) : Nat := 2 ^ 40 * task + 2 ^ 8 * call + mesh

/-- R164, R474, R476: the output of the groups of a block that have ended goes to the chunk, or to the triangle whose attributes they are. -/
def State.collect (s : State) (b : Block) (bid : Nat) : State :=
  let s := b.gfx.ended.foldl (fun s x =>
    let gg := x.gfx
    match b.prog with
    | .position => s.modGfx b.launch fun g => g.modChunk b.gfx.chunk fun c =>
        { c with pos := ssets c.pos (gg.geom.pos.map fun e => (4 * gg.first + e.1, e.2)) }
    | .mesh => match gg.counts with
      | none => s
      | some (nv, np) => s.modGfx b.launch fun g => g.modChunk b.gfx.chunk fun c =>
          { c with meshes := kset c.meshes (meshKey b.gfx.task b.gfx.call gg.mesh) { vertices := nv, primitives := np, geom := gg.geom } }
    | .attr => s.modGfx b.launch fun g =>
        { g with attrCache := kset g.attrCache (2 * b.gfx.seq + s.dieOf b.core) ((List.range 3).map (geomSlots gg.geom)) }
    | _ => s) s
  if b.prog = .tile then s else s.modBlock bid fun b => { b with gfx := { b.gfx with ended := [] } }

/-! ### The triangles of a chunk (R164, R165, R476) -/

/-- Whether every group of a chunk has been placed and its blocks have retired. -/
def State.chunkDone (s : State) (lid : Nat) (c : Chunk) : Bool :=
  c.placed ≥ c.groups && !s.blocks.any fun e => e.2.launch = lid && e.2.gfx.chunk = c.num && [.position, .task, .mesh].contains e.2.prog

def primOf (draw tri : Nat) (pos : List Word) (attrs : List (Sparse 32)) : Prim :=
  { seq := draw * 2 ^ 24 + tri, draw := draw, tri := tri, pos := pos, attrs := attrs }

/-- R163: the triangles of a chunk of a triangle list. -/
def listPrims (c : Chunk) : List Prim :=
  (List.range c.count).map fun i =>
    let t := c.first + i
    primOf c.draw t ((List.range 12).map fun k => sget c.pos (12 * t + k)) []

/-- R475, R476: primitive `i` of a mesh group, if it was written and names vertices below the count. -/
def meshPrim (draw tri : Nat) (m : MeshOut) (i : Nat) : Option Prim :=
  match kget m.geom.prims i with
  | none => none
  | some w =>
    let v (k : Nat) : Nat := (w.extractLsb' (8 * k) 8).toNat
    if v 0 < m.vertices && v 1 < m.vertices && v 2 < m.vertices then
      some (primOf draw tri (geomVertex m.geom (v 0) ++ geomVertex m.geom (v 1) ++ geomVertex m.geom (v 2))
        [geomSlots m.geom (v 0), geomSlots m.geom (v 1), geomSlots m.geom (v 2)])
    else none

/-- R476: the primitives of a chunk's mesh groups, numbered within the draw from `base`; those from 2²⁴ on are dropped. -/
def meshPrims (draw base : Nat) (ms : List MeshOut) : List Prim × Nat :=
  ms.foldl (fun r m => (r.1 ++ (List.range m.primitives).filterMap (fun i => if r.2 + i < 2 ^ 24 then meshPrim draw (r.2 + i) m i else none),
    r.2 + m.primitives)) ([], base)

/-- R164, R165: the surviving triangles of a complete chunk and the tiles they touch wait for the binners. A draw that passes 2²⁴ primitives
is reported once. -/
def State.finishChunk (s : State) (lid : Nat) (l : Launch) (g : GfxSt) (c : Chunk) (d : Draw) : State :=
  let base := (kget g.meshTri c.draw).getD 0
  let r := if d.mesh then meshPrims c.draw base (c.meshes.map (·.2)) else (listPrims c, 0)
  let s := if d.mesh && base ≤ 2 ^ 24 && 2 ^ 24 < r.2 then s.logNow (fnOfPart (partOfCtx l.ctx)) 2 (numOfCtx l.ctx) 0 [4] else s
  s.modGfx lid fun g =>
    { g with chunks := g.chunks.filter fun o => o.num ≠ c.num, meshTri := kset g.meshTri c.draw r.2
             entries := g.entries ++ (r.1.filter fun p => !p.culled d.pstate).flatMap fun p => (p.tiles g.width g.height).map fun t => (p, t) }

/-! ### Binning (R165, R166) -/

/-- R166: entries that BINAREA holds; its layout is not architectural (log 35). -/
def binRoom (size : Nat) : Nat := 1 + Config.binRoom size % (size / 16)

/-- The tile pass begins on the lists built so far. -/
def GfxSt.beginTiles (g : GfxSt) (last : Bool) : GfxSt := { g with inTiles := true, last := last, tiles := kkeys g.lists }

/-- R165, R166, R509: the next entry goes to its tile's list; when BINAREA has no room, the lists are flushed first. -/
def State.binEntry (s : State) (lid : Nat) (l : Launch) (g : GfxSt) (p : Prim) (tile : Nat) (rest : List (Prim × Nat)) : State :=
  let a := g.binarea + BitVec.ofNat 64 (16 * g.binned)
  if g.binned ≥ binRoom g.binsz then
    (s.logFault l.ctx l.recd.args 0 false).modGfx lid fun g => g.beginTiles false
  else
    let c := s.freeCtr + 256
    let data := (List.range 4).flatMap fun i => leBytes 4 (Config.freeWord (c + i)).toNat
    match s.ffWrite lid l.ctx a data with
    | (s, none) => s
    | (s, some ok) => ((s.ffDone lid [(a, 16)]).skip 260).modGfx lid fun g =>
        { g with entries := rest, binned := g.binned + 1
                 lists := if ok then kset g.lists tile ((kget g.lists tile).getD [] ++ [p]) else g.lists }

/-- What a launch's rings hold is given back when its binning is over. -/
def State.dropRings (s : State) (lid : Nat) : State := { s with cores := kmapAll s.cores fun _ c => { c with rings := kdel c.rings lid } }

/-- Goes on to the next chunk or draw; after the last, to the last tile pass. -/
def State.binOpen (s : State) (lid : Nat) (l : Launch) (g : GfxSt) : State :=
  if g.draw < g.ndraws then
    match kget g.draws g.draw with
    | some d => s.modGfx lid fun g => g.openChunk (s.gfxDies (partOfCtx l.ctx)) d
    | none => s.reachDraw lid l g
  else if g.chunks = [] && g.entries = [] then (s.dropRings lid).modGfx lid fun g => g.beginTiles true
  else s

/-- The chunks of a launch: one that is complete is finished, the next group of one is placed, or the next is opened. -/
def State.binChunks (s : State) (lid : Nat) (l : Launch) (g : GfxSt) : State :=
  match g.chunks with
  | c :: _ => match kget g.draws c.draw with
    | none => s
    | some d =>
      if s.chunkDone lid c then s.finishChunk lid l g c d
      else match g.chunks.find? fun c => c.placed < c.groups with
        | some c => match kget g.draws c.draw with
          | some d => if d.mesh then s.placeTask lid l c d else s.placePosition lid l c d
          | none => s
        | none => s.binOpen lid l g
  | [] => s.binOpen lid l g

/-- R509: whether the write of the next entry waits. -/
def GfxSt.entryWaits (g : GfxSt) : Bool := g.waits.any fun w => w.why ≠ .failed && inRange w.va (g.binarea + BitVec.ofNat 64 (16 * g.binned)) 16

/-- One step of the binning of a launch: an entry, or what the chunks come to, also while the write of an entry waits (R509). -/
def State.binStep (s : State) (lid : Nat) (l : Launch) (g : GfxSt) : State :=
  match g.entries with
  | (p, t) :: rest => if g.entryWaits then s.binChunks lid l g else s.binEntry lid l g p t rest
  | [] => s.binChunks lid l g

/-- BIN_CHUNK (R163-R166): binning goes on, unless a tile pass is under way or the launch is not in turn. -/
def execBinChunk (lid : Nat) (s : State) : Outcome :=
  match kget s.launches lid, s.gfxOf lid with
  | some l, some g =>
    if g.inTiles || !s.gfxTurn lid l || (s.part (partOfCtx l.ctx)).paused then .next s
    else .next ((s.offerCores (partOfCtx l.ctx)).binStep lid l g)
  | _, _ => .next s

/-! ### GEOM (R474, R475) -/

/-- The state of a graphics launch that a group belongs to. -/
def Env.gfx (e : Env) : Option GfxSt := match e.l.kind with | .gfx g => some g | _ => none

def State.modGroupGfx (s : State) (gid : Nat) (f : GroupGfx → GroupGfx) : State := s.modGroup gid fun g => { g with gfx := f g.gfx }

/-- R474: whether the program may execute it, and its B is what the program takes. -/
def geomLegal (ps : List Prog) (b : BitVec 11) (e : Env) : Bool := ps.contains e.b.prog && (e.b.prog = .mesh || b = 0x200#11)

/-- R474: the vertex that a thread's output names. -/
def vertexOf (e : Env) (b : BitVec 11) (t : Nat) : Nat := if e.b.prog = .mesh then (e.g.src 0 b t).toNat else t

/-- R475: the threads of an output complete or raise ILLEGAL_OPERAND together. -/
def State.geomOut (s : State) (e : Env) (f : F3) (ok : Nat → Bool) (w : GroupGfx → Nat → GroupGfx) : State :=
  let ts := bitsOf (e.g.pred f.pm.toNat)
  let s := s.modGroupGfx e.gid fun g => (ts.filter ok).foldl w g
  let bad := ts.filter fun t => !ok t
  if bad = [] then s.advance e.gid
  else s.takeTrap e.gid { cause := causeIllegalOperand, pc := e.g.pc, mask := maskOf bad, addr := e.word }

/-- VTXOUT (R474, R475). A constant source is an f32 (log 24). -/
def execVtxout (f : F3) (s : State) : Outcome :=
  withF3If (geomLegal [.attr, .mesh] f.b) (predX 4 .zero (anySrc 1) (anySrc 1) f) f s fun e s =>
    s.geomOut e f (fun t => vertexOf e f.b t < 128) fun g t =>
      { g with geom := { g.geom with slots := sset g.geom.slots (16 * vertexOf e f.b t + f.x.toNat) (e.g.src 8 f.a t) } }

/-- POSOUT (R474, R475). -/
def execPosout (f : F3) (s : State) : Outcome :=
  withF3If (geomLegal [.position, .mesh] f.b) (predPlain .zero (vReg 4 4) (anySrc 1) f) f s fun e s =>
    s.geomOut e f (fun t => vertexOf e f.b t < 128) fun g t =>
      { g with geom := { g.geom with pos := ssets g.geom.pos ((List.range 4).map fun i =>
          (4 * vertexOf e f.b t + i, e.g.srcAt f.a t i)) } }

/-- PRIMOUT (R474, R475). -/
def execPrimout (f : F3) (s : State) : Outcome :=
  withF3If (·.b.prog = .mesh) (predPlain .zero (anySrc 1) (anySrc 1) f) f s fun e s =>
    s.geomOut e f (fun t => (e.g.src 0 f.b t).toNat < 256 && (e.g.src 0 f.a t).extractLsb' 24 8 = 0) fun g t =>
      { g with geom := { g.geom with prims := kset g.geom.prims (e.g.src 0 f.b t).toNat (e.g.src 0 f.a t) } }

/-! ### The payload ring (R178, R477) -/

/-- R178: the lowest free slot of the payload ring that a launch has on a core. -/
def State.freeRingSlot (s : State) (core lid : Nat) : Option Nat :=
  match kget (s.core core).rings lid with
  | some r => (List.range 4).find? fun i => (kget r.slots i).isNone
  | none => none

/-- R477: the operands that TASKOUT accepts. -/
def taskoutOk (a b : Word) (spm : Nat) : Bool :=
  let n := (b.extractLsb' 0 15).toNat
  b.extractLsb' 15 1 = 0 && b.extractLsb' 21 11 = 0 && n % 16 = 0 && 16 ≤ n && n ≤ slotBytes && a.toNat % 16 = 0 && a.toNat + n ≤ spm

/-- R178, R477: the payload goes into a slot, which becomes the block of its mesh groups. -/
def State.fillSlot (s : State) (e : Env) (slot : Nat) (base : Nat) (data : List Byte) (meshes : Nat) : State :=
  let bid := s.nextId
  let bytes := data ++ List.replicate (slotBytes - data.length) 0
  let blk := { s.gfxBlock e.b.launch .mesh
                 { draw := e.b.gfx.draw, chunk := e.b.gfx.chunk, slot := slot, task := e.b.gfx.task, call := e.g.gfx.calls, meshes := meshes
                   fill := bid } with
               id := bid, core := e.g.core, ngrp := meshes, kset := s.freeKset e.g.core, spmBase := base + slotBytes * slot, spmSize := slotBytes
               spm := bytes.zipIdx.map fun x => (x.2, x.1), team := 2 ^ 40 + bid }
  let s := { s.skip 3 with nextId := bid + 1, blocks := kset s.blocks bid blk }
  s.modCore e.g.core fun c => { c with rings := kmod c.rings e.b.launch fun r => { r with slots := kset r.slots slot bid } }

/-- TASKOUT (R477, R178, R284). -/
def execTaskout (f : F3) (s : State) : Outcome :=
  withF3If (·.b.prog = .task) (scalarPlain .zero (sSrc 1) (sSrc 1) f) f s fun e s =>
    let a := e.g.s32 f.a
    let b := e.g.s32 f.b
    if !taskoutOk a b e.b.spmSize then s.illegalOperand e
    else match s.freeRingSlot e.g.core e.b.launch, kget (s.core e.g.core).rings e.b.launch with
      | some slot, some r =>
        let data := s.spmSeen s.freeCtr e.g.unfenced asyncKeys (.block e.g.block) a.toNat (b.extractLsb' 0 15).toNat
        (((s.skip 1).fillSlot e slot r.claim.spmBase data ((b.extractLsb' 16 5).toNat + 1)).modGroupGfx e.gid fun g =>
          { g with calls := g.calls + 1 }).advance e.gid
      | _, _ => s.waitAt e.gid .ringSlot

/-! ### Mesh groups (R178, R467) -/

/-- One more group of a resident block starts. Answers its place. -/
def State.startIn (s : State) (ck bid core cp idx : Nat) (st : Start) (v : Sparse 32) : State × Nat :=
  let slot := s.freeSlot core cp
  let g := startGroup s.nextId core cp slot bid idx (s.ctx ck).trapbase st
  ({ s with nextId := s.nextId + 1, groups := kset s.groups (gidOf core cp slot) { g with regs := { g.regs with v := v } } }, gidOf core cp slot)

/-- The payload block of a launch's ring that was filled first among those with mesh groups to seat. -/
def State.firstSlot (s : State) (r : Ring) : Option (Nat × Block) :=
  (r.slots.filterMap fun x => (kget s.blocks x.2).map fun b => (x.2, b)).foldl (fun (o : Option (Nat × Block)) x =>
    if x.2.gfx.started ≥ x.2.gfx.meshes then o
    else match o with | some y => if x.2.gfx.fill < y.2.gfx.fill then some x else some y | none => some x) none

/-- R178, R467: a mesh group starts, in the resources set aside when nobody holds them and otherwise in what the core and the save area (R286) have
free. -/
def State.admitMesh (s : State) (core lid bid : Nat) (b : Block) (l : Launch) (r : Ring) (d : Draw) : State :=
  let place : Option Nat := match r.holder with
    | none => (r.claim.groups.head?).map (·.1)
    | some _ => s.tryGroup l.ctx core (l.recd.vregs, l.recd.sregs) false
  match place with
  | none => s
  | some cp =>
    let i := b.gfx.started
    let st : Start := { vregs := l.recd.vregs, sregs := l.recd.sregs, pc := d.prog1, m0 := lowMask 128, s := gfxArgs l.recd d i b.gfx.task
                        gfx := { draw := b.gfx.draw, mesh := i } }
    match s.startIn l.ctx bid core cp i st [] with
    | (s, gid) =>
      (s.modBlock bid fun b => { b with gfx := { b.gfx with started := b.gfx.started + 1 } }).modCore core fun c =>
        { c with l1 := [], rings := kmod c.rings lid fun r => if r.holder.isNone then { r with holder := some gid } else r }

/-- MESH_GROUP_ADMIT (R178): the next mesh group of the slots filled on a core, in fill order. -/
def execMeshGroupAdmit (core : Nat) (s : State) : Outcome :=
  .next ((s.core core).rings.foldl (fun s x =>
    match kget (s.core core).rings x.1 with
    | none => s
    | some r => match s.firstSlot r, kget s.launches x.1, s.gfxOf x.1 with
      | some (bid, b), some l, some g => match kget g.draws b.gfx.draw with
        | some d => if b.resident && s.mayRun core l.ctx then s.admitMesh core x.1 bid b l r d else s
        | none => s
      | _, _, _ => s) s)

end Sys2Proof.Machine
end

