-- ==== Sys2Proof/Machine/Isect.lean ====
section
/-! DEFINITION. The IXU: boxes, triangles and instances, the traversal of a hierarchy with its short stack and restart trail, and the ray
query and test instructions (R175, R477-R486, R502). -/
namespace Sys2Proof.Machine

/-- R175: the ray query slots that a core still has. Slot 0 is a graphics launch's while the core holds one of its tile blocks. -/
def State.freeIxu (s : State) (core : Nat) : Nat :=
  let tile := s.blocks.any fun e => e.2.core = core && e.2.resident && e.2.prog = .tile
  Config.ixuSlots - (if tile then 1 else 0) - (s.groups.filter fun e => e.2.core = core && e.2.ixu).length

/-! ### Arithmetic (R480) -/

def f32Neg (a : Word) : Word := a ^^^ 0x80000000#32
/-- a × b + c, rounded once. -/
def f32Fma (a b c : Word) : Word := toF32 .rne (sumVals .rne [(f32 a).mul (f32 b), f32 c])
def posInf32 : Word := 0x7F800000#32

abbrev V3 := Word × Word × Word
def V3.sub (a b : V3) : V3 := (f32Sub a.1 b.1, f32Sub a.2.1 b.2.1, f32Sub a.2.2 b.2.2)
def V3.dot (a b : V3) : Word := f32Fma a.2.2 b.2.2 (f32Fma a.2.1 b.2.1 (f32Mul a.1 b.1))
/-- a b − c d, the second product rounded first. -/
def crossTerm (a b c d : Word) : Word := f32Fma a b (f32Neg (f32Mul c d))
def V3.cross (a b : V3) : V3 :=
  (crossTerm a.2.1 b.2.2 a.2.2 b.2.1, crossTerm a.2.2 b.1 a.1 b.2.2, crossTerm a.1 b.2.1 a.2.1 b.1)

/-- R482: a ray is ox, oy, oz, tmin, dx, dy, dz, tmax. -/
structure Ray where
  o : V3
  tmin : Word
  d : V3
  tmax : Word

def rayOf (l : List Word) : Ray :=
  let g (i : Nat) : Word := (l[i]?).getD 0
  { o := (g 0, g 1, g 2), tmin := g 3, d := (g 4, g 5, g 6), tmax := g 7 }
def Ray.words (r : Ray) : List Word := [r.o.1, r.o.2.1, r.o.2.2, r.tmin, r.d.1, r.d.2.1, r.d.2.2, r.tmax]

/-- A word of a node. -/
def nodeWord (n : List Byte) (o : Nat) : Word := word32 ((n.drop o).take 4)
def nodeVec (n : List Byte) (o : Nat) : V3 := (nodeWord n o, nodeWord n (o + 4), nodeWord n (o + 8))

/-- One axis of a slab: where the ray enters and leaves it; none for a miss. -/
def slab (o d lo hi : Word) : Option (Word × Word) :=
  if (f32 d).isZero then (if f32Le lo o && f32Le o hi then some (f32Neg posInf32, posInf32) else none)
  else
    let r := f32Div 0x3F800000#32 d
    let t0 := f32Mul (f32Sub lo o) r
    let t1 := f32Mul (f32Sub hi o) r
    if (f32 t0).isNan || (f32 t1).isNan then none else some (f32Min t0 t1, f32Max t0 t1)

/-- The entry of a box that the ray hits. -/
def Ray.box (r : Ray) (lo hi : V3) : Option Word :=
  match slab r.o.1 r.d.1 lo.1 hi.1, slab r.o.2.1 r.d.2.1 lo.2.1 hi.2.1, slab r.o.2.2 r.d.2.2 lo.2.2 hi.2.2 with
  | some x, some y, some z =>
    let entry := f32Max r.tmin (f32Max x.1 (f32Max y.1 z.1))
    let exit := f32Min r.tmax (f32Min x.2 (f32Min y.2 z.2))
    if !(f32 r.tmin).isNan && !(f32 r.tmax).isNan && f32Le entry exit then some entry else none
  | _, _, _ => none

/-- A triangle that the ray hits: t, u, v and whether its front face is seen. -/
def Ray.triangle (r : Ray) (cull : Bool) (v0 v1 v2 : V3) : Option (Word × Word × Word × Bool) :=
  let e1 := v1.sub v0
  let e2 := v2.sub v0
  let s := r.o.sub v0
  let p := r.d.cross e2
  let q := s.cross e1
  let det := e1.dot p
  let u := f32Div (s.dot p) det
  let v := f32Div (r.d.dot q) det
  let t := f32Div (e2.dot q) det
  let front := f32Lt det 0
  if (f32 det).isZero || (f32 det).isNan then none
  else if f32Le 0 u && f32Le 0 v && f32Le (f32Add u v) 0x3F800000#32 && f32Le r.tmin t && f32Le t r.tmax && (front || !cull) then some (t, u, v, front)
  else none

/-- R478: the ray in the object space of an instance node. -/
def Ray.toObject (r : Ray) (n : List Byte) : Ray :=
  let m (i j : Nat) : Word := nodeWord n (32 + 16 * i + 4 * j)
  let row (i : Nat) (a : V3) : Word := V3.dot (m i 0, m i 1, m i 2) a
  let pt (i : Nat) : Word := f32Add (row i r.o) (m i 3)
  { r with o := (pt 0, pt 1, pt 2), d := (row 0 r.d, row 1 r.d, row 2 r.d) }

/-! ### Nodes (R478) -/

inductive NodeView
  | box (count : Nat) (bytes : List Byte)
  | tri (bytes : List Byte)
  | inst (bytes : List Byte)
  | invalid

/-- Reads a node. -/
def Rd.node (x : Rd) (addr : DWord) : Rd × Res NodeView :=
  if addr.toNat % 64 ≠ 0 then (x, .ok .invalid)
  else andThen (x.read addr 64) fun x l =>
    let rest (x : Rd) (f : List Byte → NodeView) : Rd × Res NodeView := andThen (x.read (addr + 64) 64) fun x h => (x, .ok (f (l ++ h)))
    match field l 0 1 with
    | 0 => if 1 ≤ field l 1 1 && field l 1 1 ≤ 4 then rest x (.box (field l 1 1)) else (x, .ok .invalid)
    | 1 => (x, .ok (.tri l))
    | 2 => rest x .inst
    | _ => (x, .ok .invalid)

/-- The entry of box c of a box node. -/
def Ray.boxOf (r : Ray) (n : List Byte) (c : Nat) : Option Word := r.box (nodeVec n (16 + 24 * c)) (nodeVec n (28 + 24 * c))

/-! ### Traversal (R479, R481, R502) -/

def Query.isOpaque (q : Query) : Bool := q.flags.getLsbD 0
def Query.first (q : Query) : Bool := q.flags.getLsbD 1
def Query.cullback (q : Query) : Bool := q.flags.getLsbD 2
/-- R479: the committed t. -/
def Query.t (q : Query) : Word := match q.hit with | some h => h.t | none => posInf32
/-- The ray as a node's hierarchy sees it. -/
def Query.rayAt (q : Query) (n : RayNode) : Ray := rayOf (match n.inst with | some i => i.ray | none => q.ray)
def Query.root (q : Query) : RayNode := { addr := q.base, base := q.base, depth := 0, child := 0, inst := none }

def trailAt (t : DWord) (d : Nat) : Nat := (t.extractLsb' (2 * d) 2).toNat
/-- The trail with an index at a depth and 0 at every deeper one. -/
def setTrail (t : DWord) (d c : Nat) : DWord := BitVec.ofNat 64 (t.toNat % 2 ^ (2 * d) + c * 2 ^ (2 * d))

/-- The children of a box node that are visited: those whose box is hit with an entry of at most the committed t. -/
def Query.hitChildren (q : Query) (n : RayNode) (count : Nat) (b : List Byte) : List Nat :=
  (List.range count).filter fun c => match (q.rayAt n).boxOf b c with | some e => f32Le e q.t | none => false

def RayNode.down (n : RayNode) (b : List Byte) (c : Nat) : RayNode :=
  { n with addr := n.base + BitVec.ofNat 64 (64 * field b (112 + 4 * c) 4), depth := n.depth + 1, child := c }

/-- A push onto a full stack drops the oldest entry and marks the query for restart. -/
def Query.push (q : Query) (n : RayNode) : Query :=
  { q with stack := (n :: q.stack).take 8, marked := q.marked || q.stack.length ≥ 8 }

/-- Descends into the first of the children given and pushes the others, so that the next one is on top. -/
def Query.descend (q : Query) (n : RayNode) (b : List Byte) (l : List Nat) : Query :=
  match l with
  | [] => { q with cur := none }
  | c :: rest => rest.reverse.foldl (fun q d => q.push (n.down b d)) { q with cur := some (n.down b c), trail := setTrail q.trail n.depth c }

/-- R479, R483: a hit is committed; with FIRST it ends the query. -/
def Query.commit (q : Query) (h : Hit) : Query := { q with hit := some h, cand := none, done := q.done || q.first }

/-- A triangle node: an opaque hit is committed, another is a candidate. -/
def Query.visitTriangle (q : Query) (n : RayNode) (b : List Byte) : Query :=
  let q := { q with cur := none }
  match (q.rayAt n).triangle q.cullback (nodeVec b 8) (nodeVec b 20) (nodeVec b 32) with
  | none => q
  | some (t, u, v, front) =>
    if !f32Lt t q.t then q
    else
      let h : Hit := { t := t, u := u, v := v, prim := nodeWord b 4, inst := (n.inst.map (·.id)).getD 0xFFFFFFFF#32
                       shader := (n.inst.map (·.shader)).getD 0, front := front }
      if (((b[1]?).getD 0).getLsbD 0) || q.isOpaque then q.commit h else { q with cand := some h }

def RayNode.enter (n : RayNode) (r : Ray) (b : List Byte) : RayNode :=
  let base := word64 ((b.drop 8).take 8)
  { addr := base, base := base, depth := n.depth + 1, child := 0
    inst := some { ray := (r.toObject b).words, id := nodeWord b 4, shader := nodeWord b 16 } }

/-- Visits a node. -/
def Query.visit (q : Query) (x : Rd) (n : RayNode) : Rd × Res Query :=
  if n.depth ≥ 32 then (x, .ok { q with cur := none, overdepth := true })
  else andThen (x.node n.addr) fun x v =>
    match v with
    | .invalid => (x, .ok { q with cur := none, badnode := true })
    | .tri b => (x, .ok (q.visitTriangle n b))
    | .box count b => (x, .ok (q.descend n b (q.hitChildren n count b)))
    | .inst b =>
      if n.inst.isSome then (x, .ok { q with cur := none, badnode := true })
      else (x, .ok { q with cur := some (n.enter (q.rayAt n) b) })

/-- A depth that a restart walk reached: the box node there, and its hit children. -/
structure Reached where
  n : RayNode
  bytes : List Byte
  hits : List Nat

def Reached.above (r : Reached) (trail : DWord) : List Nat := r.hits.filter fun c => c > trailAt trail r.n.depth

/-- R481: the walk of a restart along the trail; the depths reached, deepest first. -/
def Query.walk (q : Query) : Nat → Rd → RayNode → List Reached → Rd × Res (List Reached)
  | 0, x, _, acc => (x, .ok acc)
  | k + 1, x, n, acc =>
    if n.depth ≥ 32 then (x, .ok acc)
    else andThen (x.node n.addr) fun x v =>
      match v with
      | .invalid | .tri _ => (x, .ok acc)
      | .inst b => if n.inst.isSome then (x, .ok acc) else q.walk k x (n.enter (q.rayAt n) b) acc
      | .box count b =>
        let hits := q.hitChildren n count b
        let acc := { n := n, bytes := b, hits := hits } :: acc
        let c := trailAt q.trail n.depth
        if hits.contains c then q.walk k x (n.down b c) acc else (x, .ok acc)

/-- R481: one restart. -/
def Query.restart (q : Query) (x : Rd) : Rd × Res Query :=
  andThen (q.walk 33 x q.root []) fun x l =>
    let q := { q with marked := false, restarts := q.restarts + 1 }
    match l.dropWhile fun r => r.above q.trail = [] with
    | [] => (x, .ok { q with done := true })
    | r :: shallower =>
      let more := shallower.any fun o => o.above q.trail ≠ []
      (x, .ok ({ q with marked := more }.descend r.n r.bytes (r.above q.trail)))

/-- One step of a traversal that is neither done nor at a candidate. -/
def Query.next (q : Query) (x : Rd) : Rd × Res Query :=
  match q.cur with
  | some n => q.visit x n
  | none => match q.stack with
    | n :: rest => (x, .ok { q with cur := some n, stack := rest, trail := setTrail q.trail (n.depth - 1) n.child })
    | [] => if q.marked then q.restart x else (x, .ok { q with done := true })

/-- Runs a query until it is done, presents a candidate or cannot read a node. No traversal has more than 2 ^ 80 steps: depths end at 32
and no child is taken twice. -/
def Query.run : Nat → Rd → Query → Rd × Query × Option (DWord × Acc)
  | 0, x, q => (x, q, none)
  | k + 1, x, q =>
    if q.done || q.cand.isSome then (x, q, none)
    else match q.next x with
      | (x, .ok q) => Query.run k x q
      | (x, .acc a acc) => (x, q, some (a, acc))

def traversalBound : Nat := 2 ^ 80

/-! ### The query instructions (R483-R485) -/

/-- The ray in the registers from A. -/
def Group.rayWords (g : Group) (a : BitVec 11) (t : Nat) : List Word := (List.range 8).map fun i => g.srcAt a t i

/-- RQINIT (R483). -/
def execRqinit (f : F3) (s : State) : Outcome :=
  withF3 (predX 3 .zero (vReg 8 4) (sReg 2 2) f) f s fun e s =>
    if !e.g.ixu && s.freeIxu e.g.core = 0 then s.waitAt e.gid .ixuSlot
    else
      let base := e.g.regs.sget64 (regOf f.b)
      let fresh (t : Nat) : Query :=
        { ray := e.g.rayWords f.a t, flags := f.x.extractLsb' 0 3, base := base
          cur := some { addr := base, base := base, depth := 0, child := 0, inst := none } }
      (s.modGroup e.gid fun g => { g with ixu := true, rays := (bitsOf (e.g.pred f.pm.toNat)).foldl (fun m t => kset m t (fresh t)) g.rays }).advance e.gid

/-- What RQSTEP does for one thread, with its query afterwards. -/
def stepThread (d : Nat) (rays : KMap Query) (x : Rd) (t : Nat) : Rd × ThreadOut × Option Query :=
  match kget rays t with
  | none => (x, { words := [(128 * d + t, 0)] }, none)
  | some q =>
    match Query.run traversalBound x { q with cand := none } with
    | (x, q, some (a, acc)) => (x, { bad := some { t := t, addr := a, acc := acc } }, some q)
    | (x, q, none) => (x, { words := [(128 * d + t, if q.cand.isSome then 1 else 0)] }, some q)

/-- RQSTEP (R483, R486). -/
def execRqstep (f : F3) (s : State) : Outcome :=
  withF3 (predPlain (vDst 1) .zero .zero f) f s fun e s =>
    let r := (bitsOf (e.g.pred f.pm.toNat)).foldl (fun (r : Rd × List ThreadOut × KMap Query) t =>
      match stepThread (regOf f.d) e.g.rays r.1 t with
      | (x, o, q) => (x, r.2.1 ++ [o], match q with | some q => kset r.2.2 t q | none => r.2.2)) (e.rd s, [], e.g.rays)
    e.heldOr s 0 r.1 [] fun s => (s.modGroup e.gid fun g => { g with rays := r.2.2 }).finishReads e none r.2.1

/-- RQCOMMIT (R483). -/
def execRqcommit (f : F3) (s : State) : Outcome :=
  withF3 (predPlain .zero .zero .zero f) f s fun e s =>
    let ts := bitsOf (e.g.pred f.pm.toNat)
    let one (t : Nat) (q : Query) : Query :=
      if ts.contains t then (match q.cand with | some h => q.commit h | none => q) else q
    (s.modGroup e.gid fun g => { g with rays := kmapAll g.rays one }).advance e.gid

/-- R484: a field of a hit. -/
def hitField (h : Option Hit) (n : Nat) : Word :=
  match n, h with
  | 1, some h => h.t
  | 1, none => posInf32
  | 2, some h => h.u
  | 3, some h => h.v
  | 4, some h => h.prim
  | 5, some h => h.inst
  | 6, some h => h.shader
  | 7, some h => if h.front then 1 else 0
  | 4, none | 5, none | 6, none => 0xFFFFFFFF#32
  | _, _ => 0

def Query.flagWord (q : Query) : Word :=
  BitVec.ofNat 32 ((if q.done then 1 else 0) + (if q.cand.isSome then 2 else 0) + (if q.hit.isSome then 4 else 0) + (if q.overdepth then 8 else 0)
    + (if q.badnode then 16 else 0) + if q.restarts > 0 then 32 else 0)

/-- R484: what RQGET reads of a thread's query; a thread with none has no hit. -/
def rqValue (q : Option Query) (x : BitVec 5) : Word :=
  let n := (x.extractLsb' 0 4).toNat
  match q with
  | none => if n = 0 || n = 8 then 0 else hitField none n
  | some q =>
    if n = 0 then q.flagWord else if n = 8 then BitVec.ofNat 32 q.restarts
    else hitField (if x.getLsbD 4 then q.cand else q.hit) n

/-- An instruction whose words come from the queries alone. -/
def rqRead (sh : Sheet) (f : F3) (s : State) (n : Nat) (val : Option Query → Nat → Word) : Outcome :=
  withF3 sh f s fun e s =>
    s.finishReads e none ((bitsOf (e.g.pred f.pm.toNat)).map fun t =>
      { words := (List.range n).map fun i => (128 * (regOf f.d + i) + t, val (kget e.g.rays t) i) })

/-- RQGET (R484). -/
def execRqget (f : F3) (s : State) : Outcome := rqRead (rqgetSheet f) f s 1 fun q _ => rqValue q (f.x.extractLsb' 0 5)

/-- RQTRAIL (R485). -/
def execRqtrail (f : F3) (s : State) : Outcome :=
  rqRead (predPlain (vDst 2) .zero .zero f) f s 2 fun q i => match q with | some q => q.trail.extractLsb' (32 * i) 32 | none => 0

/-! ### BOXTEST and TRITEST (R485) -/

def boxWords (r : Ray) (v : NodeView) : List Word :=
  match v with
  | .box count b => (List.range 4).map fun c => if c < count then (r.boxOf b c).getD posInf32 else posInf32
  | _ => List.replicate 4 posInf32

def triWords (r : Ray) (v : NodeView) : List Word :=
  match v with
  | .tri b => match r.triangle false (nodeVec b 8) (nodeVec b 20) (nodeVec b 32) with
    | some (t, u, v, front) => [t, u, v, if front then 1 else 0]
    | none => [posInf32, 0, 0, 0]
  | _ => List.replicate 4 posInf32

/-- A test of the node at B against the ray in A, per thread. -/
def rayTest (sh : Sheet) (f : F3) (s : State) (words : Ray → NodeView → List Word) : Outcome :=
  withF3 sh f s fun e s =>
    let one (x : Rd) (t : Nat) : Rd × ThreadOut :=
      match x.node (e.g.src64 f.b t) with
      | (x, .acc a acc) => (x, { bad := some { t := t, addr := a, acc := acc } })
      | (x, .ok v) => (x, { words := (words (rayOf (e.g.rayWords f.a t)) v).zipIdx.map fun w => (128 * (regOf f.d + w.2) + t, w.1) })
    match eachThread (e.rd s) one (bitsOf (e.g.pred f.pm.toNat)) with
    | (x, outs) => e.heldOr s 0 x [] fun s => s.finishReads e none outs

/-- BOXTEST (R485). -/
def execBoxtest (f : F3) (s : State) : Outcome := rayTest (predPlain (vDst 4) (vReg 8 4) gAddr f) f s boxWords
/-- TRITEST (R485). -/
def execTritest (f : F3) (s : State) : Outcome := rayTest (predPlain (vDst 4) (vReg 8 4) gAddr f) f s triWords

end Sys2Proof.Machine
end

