-- ==== Sys2Proof/Machine/Travel.lean ====
section
/-! DEFINITION. Travelling-thread mode: pinning, HOP, HOPL, SEGID, assembly buffers, arrival and replicas (R136-R157, R487). -/
namespace Sys2Proof.Machine

/-! ### Pinning (R141, R142, R150) -/

/-- R141, R80: where the segment scratchpad would lie on a core that holds no segment and that the partition may hold; none when the core is not
eligible (log 88). -/
def State.eligibleSpm (s : State) (part core size : Nat) : Option Nat :=
  if (s.core core).pinned.isSome || !s.mayHold core part then none else (s.free core).spmBase size

/-- The code of a segment as memory holds it; a word that cannot be read is free, since the manual does not say what the core then holds
(log 30). Answers none when a page is pending. -/
def State.loadCode (s : State) (ck : Nat) (sg : Seg) : State × Option (List DWord) :=
  (pagePieces sg.code sg.size).foldl (fun r p =>
    match r.2 with
    | none => r
    | some l =>
      let s := r.1
      let a := s.access s.freeCtr ck p.1 .fetch
      match s.bytesOf a.1 p.2 with
      | some b => (((match a.1 with | .dev pa _ => s.meet pa p.2 | _ => s).keepTlb a.2).skip seedsPerAccess, some (l ++ (List.range (p.2 / 8)).map fun i => word64 ((b.drop (8 * i)).take 8)))
      | none => match a.1 with
        | .park .. => (s, none)
        | _ =>
          let c := s.freeCtr + seedsPerAccess
          ((s.afterAccess ck p.1 a).skip (p.2 / 4), some (l ++ (List.range (p.2 / 8)).map fun i =>
            pair64 (Config.freeWord (c + 2 * i)) (Config.freeWord (c + 2 * i + 1))))) (s, some [])

/-- The lane entries of a segment (R141). -/
def TravelSt.laneEntries (t : TravelSt) (seg : Nat) : List Nat :=
  (List.range t.entries.length).filter fun i => match t.entries[i]? with | some e => e.lane && e.seg = seg | none => false

/-- R141: a core takes a segment: code, zeroed scratchpad and one buffer for each lane entry, whose headers come from the pool. -/
def State.pinSegment (s : State) (lid core : Nat) (l : Launch) (t : TravelSt) (seg base : Nat) (code : List DWord) : State :=
  let lanes := t.laneEntries seg
  let p : Pinned := { launch := lid, seg := seg, spmBase := base, spmSize := l.recd.spm, code := code
                      buffers := lanes.map fun e => { entry := e, threads := [], waiting := [], header := true, age := 0 } }
  (s.modCore core fun c => { c with pinned := some p }).modTravel lid fun t => { t with free := t.free - t.hrec * lanes.length }

def State.pinAll (s : State) (lid : Nat) (l : Launch) (t : TravelSt) : List (Nat × Nat × Seg × Nat) → Option State
  | [] => some (s.modTravel lid fun t => { t with pinned := true })
  | (core, base, sg, i) :: rest =>
    match s.loadCode l.ctx sg with
    | (_, none) => none
    | (s, some code) => (s.pinSegment lid core l t i base code).pinAll lid l t rest

/-- TRAVEL_PIN (R141): segment i goes to the i-th eligible participating core, once there are enough. -/
def execTravelPin (lid : Nat) (s : State) : Outcome :=
  match kget s.launches lid, s.travelOf lid with
  | some l, some t =>
    let part := partOfCtx l.ctx
    let s := s.offerCores part
    let el := (s.participating part t.cores).filterMap fun c => (s.eligibleSpm part c l.recd.spm).map fun b => (c, b)
    if t.pinned || (s.headLaunch l.home part).map (·.1) ≠ some lid || el.length < t.segs.length then .next s
    else match s.pinAll lid l t ((el.zip t.segs.zipIdx).map fun x => (x.1.1, x.1.2, x.2.1, x.2.2)) with
      | some s => .next s
      | none => .next s
  | _, _ => .next s

/-! ### Departure (R144, R146, R148) -/

/-- The replicas of a segment that take part in the choice of R148, in ascending CORE number: those of cores that still take part in the launch
(R180), and those whose core the launch was pre-empted from and that will be pinned there again (R157). -/
def State.replicas (s : State) (lid seg : Nat) : List (Nat × Pinned) :=
  let pins := ((kget s.launches lid).map (·.pins)).getD []
  s.cores.filterMap fun e =>
    let held := match e.2.pinned with | some p => if p.launch = lid then some p else kget pins e.1 | none => kget pins e.1
    match held with
    | some p => if p.seg = seg && !p.retiring && s.usable e.1 then some (e.1, p) else none
    | none => none

/-- R148: the queue length a sender sees, which may be a few fabric clocks old. -/
def seenLength (seed : Nat) (p : Pinned) : Nat := oneOf seed p.arrivals.length (p.arrivals.length :: p.past)

/-- R148: the replica with the fewest records, a tie going to the lower core. -/
def shortest (seed : Nat) (l : List (Nat × Pinned)) : Option Nat :=
  (l.foldl (fun (b : Option (Nat × Nat)) e =>
    let n := seenLength (seed + e.1) e.2
    match b with | some o => if n < o.2 then some (e.1, n) else some o | none => some (e.1, n)) none).map (·.1)

/-- R148. -/
def State.chooseReplica (s : State) (lid core seg : Nat) : Option Nat :=
  let l := s.replicas lid seg
  let near := l.filter fun e => s.dieOf e.1 = s.dieOf core && s.sectorOf e.1 = s.sectorOf core
  shortest s.freeCtr (if near = [] then l else near)

/-- What keeps a group that is to depart: counters that are not zero, then writes that are not acknowledged. -/
def State.departWait (s : State) (e : Env) : Option WaitFor :=
  if e.b.k.any (· ≠ 0#16) then some .countersZero else if s.writesPending e.g.uid then some .writes else none

/-- The group has left its core, with its reservation gone elsewhere. -/
def State.leave (s : State) (e : Env) : State := { s.dropGroup e.gid with blocks := kdel s.blocks e.g.block }

/-- R144: what HOP ships. -/
def hopRecord (e : Env) (ent : Entry) (i core src die : Nat) : HopRec :=
  let r := e.g.regs
  { src := src, die := die, entry := i, core := core, lane := false
    v := r.v.filter fun x => x.1 < 128 * ent.vin && (r.mget 0).getLsbD (x.1 % 128)
    m := r.m.filter fun x => 1 ≤ x.1 && ent.min.getLsbD x.1
    c := r.c, s := r.s.filter fun x => x.1 < ent.sin, m0 := r.mget 0, depth := e.l.depth
    bidx := e.b.bidx, bidy := e.b.bidy, bidz := e.b.bidz, cap := e.b.cap }

/-- HOP (R144). -/
def execHop (f : FI) (s : State) : Outcome :=
  withFI (trapSheet f) f s fun e s =>
    match e.l.kind with
    | .travel t =>
      let i := (imm64 f).toInt
      match (if i < 0 then none else t.entries[i.toNat]?) with
      | none => s.trapHere e causeHopEntry (imm64 f)
      | some ent =>
        if ent.lane then s.trapHere e causeHopEntry (imm64 f)
        else if ent.vin > e.g.vregs || ent.sin > e.g.sregs then s.illegalOperand e
        else match s.departWait e with
          | some w => s.waitAt e.gid w
          | none => match s.chooseReplica e.b.launch e.g.core ent.seg with
            | none => s
            | some c =>
              ({ (s.skip 96).leave e with nextId := s.nextId + 1 }).modTravel e.b.launch fun t =>
                { t with flying := t.flying ++ [hopRecord e ent i.toNat c s.nextId (s.dieOf e.g.core)] }
    | _ => s.illegalInstr e

/-- R146: the entry a thread names, when it is a lane entry. -/
def TravelSt.laneAt (t : TravelSt) (a : Word) : Option (Nat × Entry) :=
  if a.toInt < 0 then none
  else match t.entries[a.toNat]? with | some e => if e.lane then some (a.toNat, e) else none | none => none

/-- The record of one thread of a HOPL. -/
def laneRecord (e : Env) (i : Nat) (ent : Entry) (t core src die : Nat) : HopRec :=
  { src := src, die := die, entry := i, core := core, lane := true
    v := ssets [] ((List.range ent.vin).map fun n => (128 * n, e.g.regs.vget n t))
    m := [], c := 0, s := [], m0 := 1, depth := e.l.depth, bidx := 0, bidy := 0, bidz := 0, cap := 1 }

/-- HOPL (R146, R152). All threads of one entry go to the same replica; an entry whose segment has none is waited for. -/
def execHopl (f : F3) (s : State) : Outcome :=
  withF3If Env.travel (predPlain .zero (anySrc 1) .zero f) f s fun e s =>
    match e.l.kind with
    | .travel t =>
      let ts := bitsOf (e.g.pred f.pm.toNat)
      let ent (x : Nat) := t.laneAt (e.g.src 0 f.a x)
      let bad := ts.filter fun x => (ent x).isNone
      let big := ts.filter fun x => match ent x with | some y => y.2.vin > e.g.vregs | none => false
      if bad ≠ [] then
        (s.skip 2).takeTrap e.gid { cause := causeHopEntry, pc := e.g.pc, mask := maskOf bad
                                    addr := pair64 (Config.freeWord s.freeCtr) (Config.freeWord (s.freeCtr + 1)) }
      else if big ≠ [] then s.takeTrap e.gid { cause := causeIllegalOperand, pc := e.g.pc, mask := maskOf big, addr := e.word }
      else match s.departWait e with
        | some w => s.waitAt e.gid w
        | none =>
          let lid := e.b.launch
          let go : List (Nat × Nat × Entry) := ts.filterMap fun x => (ent x).map fun y => (x, y.1, y.2)
          let segOf (i : Nat) : Nat := match t.entries[i]? with | some en => en.seg | none => 0
          let ents := (go.map (·.2.1)).eraseDups
          let dest : KMap Nat := ents.zipIdx.filterMap fun x =>
            ({ s with freeCtr := s.freeCtr + 96 * x.2 }.chooseReplica lid e.g.core (segOf x.1)).map fun c => (x.1, c)
          if dest.length < ents.length then s
          else
            let recs := go.map fun x => laneRecord e x.2.1 x.2.2 x.1 ((kget dest x.2.1).getD 0) s.nextId (s.dieOf e.g.core)
            let s := (({ (s.skip (96 * 128)).leave e with nextId := s.nextId + 1 }).modTravel lid fun t =>
              { t with flying := t.flying ++ recs, free := t.free + (e.b.cap - recs.length) }).settlePool lid
            s.checkDone lid
    | _ => s.illegalInstr e

/-- SEGID (R154). -/
def execSegid (f : F3) (s : State) : Outcome :=
  withF3If (fun e => e.travel && opKind f.d = .scalar) (scalarPlain (sDst 1) (sSrc 1) .zero f) f s fun e s =>
    match e.l.kind with
    | .travel t =>
      let a := e.g.s32 f.a
      match (if a.toInt < 0 then none else t.entries[a.toNat]?) with
      | none => s.finishS e f.d 0xFFFFFFFF#32
      | some ent =>
        s.finishS e f.d (BitVec.ofNat 32 ((if ent.lane then 65536 else 0) + 256 * (s.replicas e.b.launch ent.seg).length + ent.seg))
    | _ => s.illegalInstr e

/-! ### Arrival (R145, R147, R149) -/

/-- R147: a thread joins its entry's buffer, or waits in the pool for the next fill (R152). -/
def Assembly.takes (a : Assembly) : Bool := a.threads.length < 128 && a.waiting = []
def Assembly.join (a : Assembly) (w : List Word) : Assembly :=
  if a.takes then { a with threads := a.threads ++ [w], age := if a.threads = [] then 0 else a.age }
  else { a with waiting := a.waiting ++ [w] }

/-- The registers of a shipped thread. -/
def threadWords (vin : Nat) (r : HopRec) : List Word := (List.range vin).map fun n => sget r.v (128 * n)

/-- HOP_ARRIVAL (R147, R149): a record in flight reaches its core, once that holds the segment; those of one HOPL that go to one buffer in ascending
thread index, and no others in an order (R156). While the link retrains none comes from the other die (R29). -/
def execHopArrival (lid idx : Nat) (s : State) : Outcome :=
  let s := s.settlePool lid
  match s.travelOf lid with
  | none => .next s
  | some t => match t.flying[idx]? with
    | none => .next s
    | some r =>
      let here := match (s.core r.core).pinned with | some p => p.launch = lid | none => false
      if !here || (s.link.retraining && r.die ≠ s.dieOf r.core) || (t.flying.take idx).any fun o => o.src = r.src && o.entry = r.entry && o.core = r.core then .next s
      else
        let s := s.setTravel lid { t with flying := t.flying.eraseIdx idx }
        if r.lane then
          let vin := ((t.entries[r.entry]?).map (·.vin)).getD 0
          let waits := match (s.core r.core).pinned with | some p => p.buffers.any fun a => a.entry = r.entry && !a.takes | none => false
          let s := s.modPinned r.core fun p => { p with buffers := p.buffers.map fun a => if a.entry = r.entry then a.join (threadWords vin r) else a }
          .next ((if waits then s.spill lid 1 else s).settlePool lid)
        else .next (s.enqueueArrival lid r.core r)

/-- ASSEMBLY_TIMEOUT (R147, R152): a fill whose first thread came TIMEOUT fabric clocks ago becomes a partial group, with its header. -/
def execAssemblyTimeout (core entry : Nat) (s : State) : Outcome :=
  match (s.core core).pinned with
  | none => .next s
  | some p0 =>
    let s := s.settlePool p0.launch
    match (s.core core).pinned, kget s.launches p0.launch, s.travelOf p0.launch with
    | some p, some l, some t => match p.buffers.find? fun a => a.entry = entry, t.entries[entry]? with
      | some a, some ent =>
        if a.threads = [] || a.age < ent.timeout || !a.header then .next s
        else
          .next (((s.modPinned core fun p => { p with buffers := p.buffers.map fun b => if b.entry = entry then b.nextFill else b }).enqueueArrival
            p.launch core (fillRecord l t core a)).settlePool p.launch)
      | _, _ => .next s
    | _, _, _ => .next s

/-- R145: the registers of a group that arrives. -/
def arrivedRegs (r : HopRec) (ent : Entry) (args : DWord) : Regs :=
  let s := if ent.sin = 0 then sset r.s 0 (lo32 args) else r.s
  let s := if ent.sin ≤ 1 then sset s 1 (hi32 args) else s
  { v := r.v, s := s, m := sset r.m 0 r.m0, c := r.c }

/-- ARRIVAL_ADMIT (R149, R152): the head of a core's arrival queue becomes resident when a slot and its segment's budget are free. -/
def execArrivalAdmit (core : Nat) (s : State) : Outcome :=
  match (s.core core).pinned with
  | none => .next s
  | some p0 =>
    let s := s.settlePool p0.launch
    match (s.core core).pinned, kget s.launches p0.launch, s.travelOf p0.launch with
    | some p, some l, some t => match p.arrivals, t.segs[p.seg]? with
      | r :: rest, some sg => match t.entries[r.entry]? with
        | none => .next s
        | some ent => match if s.usable core then s.tryCore l.ctx core { groups := [(sg.vregs, sg.sregs)] } [] else none with
          | none => .next s
          | some cl =>
            let s := s.modPinned core fun p => { p with arrivals := rest }
            match s.seat l.ctx { id := 0, launch := p.launch, core := core, bidx := r.bidx, bidy := r.bidy, bidz := r.bidz, cap := r.cap
                                 team := 2 ^ 40 + s.nextId } cl
                [{ vregs := sg.vregs, sregs := sg.sregs, pc := sg.code + BitVec.ofNat 64 ent.offset, m0 := r.m0 }] with
            | (s, bid) => .next { s with groups := kmapAll s.groups fun _ g =>
                if g.block = bid then { g with regs := arrivedRegs r ent l.recd.args } else g }
      | _, _ => .next s
    | _, _, _ => .next s

/-! ### Replicas (R150, R151) -/

/-- R150: the busiest replica: the most records queued, a tie going to the lower core. -/
def busiest (l : List (Nat × Pinned)) : Option Nat :=
  (l.foldl (fun (b : Option (Nat × Nat)) e => match b with
    | some o => if e.2.arrivals.length > o.2 then some (e.1, e.2.arrivals.length) else some o
    | none => some (e.1, e.2.arrivals.length)) none).map (·.1)

/-- R150: the spare on which a segment is to be replicated, with the place of its scratchpad; none when it is not due or there is no spare. A core
whose own segment is only pre-empted (R157) is no spare. -/
def State.spareFor (s : State) (lid : Nat) (l : Launch) (t : TravelSt) (seg : Nat) : Option (Nat × Nat) :=
  let reps := s.replicas lid seg
  match busiest reps with
  | none => none
  | some b =>
    if !t.repl || !t.pinned || reps.any fun e => e.2.busy < 4096 then none
    else
      let part := partOfCtx l.ctx
      let spares := ((s.participating part t.cores).filter fun c => (kget l.pins c).isNone).filterMap fun c => (s.eligibleSpm part c l.recd.spm).map fun o => (c, o)
      let near := spares.filter fun c => s.dieOf c.1 = s.dieOf b && s.sectorOf c.1 = s.sectorOf b
      (if near = [] then spares else near).head?

/-- SEGMENT_REPLICATE (R150, R142). -/
def execSegmentReplicate (lid seg : Nat) (s : State) : Outcome :=
  let s := s.settlePool lid
  match kget s.launches lid, s.travelOf lid with
  | some l, some t => match s.spareFor lid l t seg, t.segs[seg]? with
    | some (c, base), some sg =>
      if t.free < t.hrec * (t.laneEntries seg).length then .next s
      else match s.loadCode l.ctx sg with
        | (s, none) => .next s
        | (s, some code) => .next (s.pinSegment lid c l t seg base code)
    | _, _ => .next s
  | _, _ => .next s

/-- R151: whether a replica holds nothing: no resident group, no queued record, no buffered thread. -/
def State.replicaEmpty (s : State) (core : Nat) (p : Pinned) : Bool :=
  p.arrivals = [] && p.buffers.all (fun a => a.threads = [] && a.waiting = []) &&
    !s.blocks.any fun e => e.2.core = core && e.2.launch = p.launch

/-- REPLICA_RETIRE (R151): the replica leaves the choice of R148, and is freed once every hop sent to it has been run. -/
def execReplicaRetire (core : Nat) (s : State) : Outcome :=
  match (s.core core).pinned with
  | none => .next s
  | some p => match s.travelOf p.launch with
    | none => .next s
    | some t =>
      let others := (s.replicas p.launch p.seg).any fun e => e.1 ≠ core
      if !p.retiring && (p.idle < 65536 || !others) then .next s
      else
        let s := s.modPinned core fun p => { p with retiring := true }
        if t.flying.any (fun r => r.core = core) || !s.replicaEmpty core p then .next s
        else
          let heads := (p.buffers.filter (·.header)).length
          .next ((((s.modCore core fun c => { c with pinned := none }).modTravel p.launch fun t =>
            { t with free := t.free + t.hrec * heads })).settlePool p.launch)

/-! ### The placement of blocks (R120, R143, R152) -/

/-- R152: the pool capacity that the replications which are due take before new blocks do. -/
def State.replicationNeed (s : State) (lid : Nat) (l : Launch) (t : TravelSt) : Nat :=
  ((List.range t.segs.length).map fun seg => if (s.spareFor lid l t seg).isSome then t.hrec * (t.laneEntries seg).length else 0).sum

/-- R143, R152: a block of a travelling launch, on a core that holds the segment of its entry, against the pool. -/
def State.placeTravel (s : State) (die lid : Nat) (l : Launch) (t : TravelSt) : State :=
  let need := t.hrec + l.recd.threads
  let seg := ((t.entries.find? fun e => !e.lane && match t.segs[e.seg]? with
    | some sg => l.recd.entry = sg.code + BitVec.ofNat 64 e.offset
    | none => false).map (·.seg)).getD 0
  let cands := (s.candidates (partOfCtx l.ctx)).filter fun c => match (s.core c).pinned with
    | some p => p.launch = lid && p.seg = seg && !p.retiring && p.arrivals = []
    | none => false
  if !t.pinned || t.free < need + s.replicationNeed lid l t then s
  else match s.placeTeam l.ctx 1 l.recd.shape cands ((s.part (partOfCtx l.ctx)).pointer die) with
    | some [cl] =>
      let i := l.recd.blockIdx l.next
      match s.seat l.ctx { id := 0, launch := lid, core := 0, lin := l.next, bidx := BitVec.ofNat 32 i.1, bidy := BitVec.ofNat 32 i.2.1
                           bidz := BitVec.ofNat 32 i.2.2, team := l.next, cap := need } cl (l.recd.starts []) with
      | (s, _) =>
        (s.modPart (partOfCtx l.ctx) fun p => p.setPointer die (cl.core + 1)).modLaunch lid fun l =>
          { l with next := l.next + 1, kind := .travel { t with free := t.free - need } }
    | _ => s

/-- BLOCK_PLACE (R120): the scheduler of a die places the next block or team of a partition's first launch, if it fits. -/
def execBlockPlace (die part : Nat) (s : State) : Outcome :=
  let s := s.offerCores part
  match s.headLaunch die part with
  | none => .next s
  | some (lid, l) => match l.kind with
    | .gfx _ => .next s
    | .travel _ =>
      let s := s.settlePool lid
      match s.travelOf lid with
      | some t => .next (s.placeTravel die lid l t)
      | none => .next s
    | _ => .next (s.placeBlocks die lid l)

end Sys2Proof.Machine
end

