-- ==== Sys2Proof/Machine/Preempt.lean ====
section
/-! DEFINITION. The watchdog, and pre-emption: block records, the saving of a context's work on a core and its restoring (R157, R179,
R282-R288, R486). -/
namespace Sys2Proof.Machine

/-! ### The watchdog (R282-R284) -/

/-- R283: the wait reasons that are watched. -/
def watchdogApplies (code : Nat) : Bool := (1 ≤ code && code ≤ 8) || code = 13

/-- WATCHDOG_EXPIRY (R282, R284). -/
def execWatchdogExpiry (gid : Nat) (s : State) : Outcome :=
  match s.envOf gid 0 with
  | none => .next s
  | some e =>
    let limit := e.ctx.wdog.toNat
    if !watchdogApplies e.g.wait || limit = 0 || e.g.wdog < 65536 * limit then .next s
    else .next ((s.withdraw e).takeTrap gid { cause := causeWatchdog, pc := e.g.pc, addr := BitVec.ofNat 64 e.g.wait })

/-! ### Block records (R287) -/

def zeros (n : Nat) : List Byte := List.replicate n 0

def flagBits (l : List Bool) : Byte := BitVec.ofNat 8 ((l.zipIdx.map fun b => if b.1 then 2 ^ b.2 else 0).sum)

def tagBytes (t : Option (BitVec 8)) : List Byte := match t with | some r => [r, 1] | none => [0, 0]
def tagOf (l : List Byte) : Option (BitVec 8) := if ((l[1]?).getD 0).getLsbD 0 then some ((l[0]?).getD 0) else none

def Group.header (g : Group) : List Byte :=
  leBytes 8 g.pc.toNat ++ [flagBits [g.waitFor = .page, g.awl.isSome, g.ixu], BitVec.ofNat 8 g.wait] ++ zeros 2 ++ leBytes 4 g.repcnt.toNat
    ++ leBytes 8 g.trap.base.toNat ++ leBytes 8 g.trap.pc.toNat ++ leBytes 4 g.trap.cause.toNat ++ leBytes 4 g.fmt.toNat
    ++ leBytes 16 g.trap.mask.toNat ++ leBytes 8 g.trap.addr.toNat ++ (g.trap.iter.flatMap fun w => leBytes 4 w.toNat) ++ leBytes 4 g.pctl.toNat
    ++ (g.pcs.flatMap fun w => leBytes 4 w.toNat) ++ leBytes 4 g.cych.toNat ++ leBytes 4 g.wdog ++ [g.regs.c] ++ zeros 3
    ++ (g.regs.tags.flatMap tagBytes) ++ zeros 20 ++ ((List.range 16).flatMap fun n => leBytes 16 (g.regs.mget n).toNat) ++ zeros 112

/-- The replies that an AMSGW has and still owes. -/
def AwlWait.area (w : AwlWait) : List Byte :=
  (List.range 128).flatMap fun t => match kget w.got t with
    | some r => leBytes 4 r.1.toNat ++ leBytes 4 (r.2 ||| 0x80000000#32).toNat
    | none => zeros 8

def Group.record (g : Group) : List Byte :=
  g.header ++ ((List.range g.sregs).flatMap fun n => leBytes 4 (g.regs.sget n).toNat)
    ++ ((List.range g.vregs).flatMap fun n => (List.range 128).flatMap fun t => leBytes 4 (g.regs.vget n t).toNat)
    ++ match g.awl with | some w => w.area | none => []

/-- The fields of a record of a group that are read back, a reserved bit as zero (R5); the rest of the group is as it was. -/
def Group.fromRecord (g : Group) (l : List Byte) : Group :=
  let w (o : Nat) : Word := word32 ((l.drop o).take 4)
  let d (o : Nat) : DWord := word64 ((l.drop o).take 8)
  let v0 := 512 + 4 * g.sregs
  { g with
    pc := d 0 &&& ~~~7#64, repcnt := w 12, fmt := w 36 &&& 0x3FFF#32, pctl := w 84, pcs := [w 88, w 92, w 96, w 100], cych := w 104, wdog := (w 108).toNat
    trap := { base := d 16 &&& ~~~7#64, pc := d 24, cause := w 32 &&& 0x3FF#32, mask := BitVec.ofNat 128 (field l 40 16), addr := d 56, iter := (List.range 5).map fun i => w (64 + 4 * i) }
    regs := { g.regs with
              v := ssets [] ((List.range g.vregs).flatMap fun n => (List.range 128).map fun t => (128 * n + t, w (v0 + 512 * n + 4 * t)))
              s := ssets [] ((List.range g.sregs).map fun n => (n, w (512 + 4 * n)))
              m := ssets [] ((List.range 16).map fun n => (n, BitVec.ofNat 128 (field l (144 + 16 * n) 16)))
              c := (l[112]?).getD 0, tags := (List.range 4).map fun i => tagOf ((l.drop (116 + 2 * i)).take 2) } }

/-- R443: the 96-byte image of a layout record. -/
def Layout.bytes (l : Layout) : List Byte :=
  leBytes 8 l.base.toNat ++ leBytes 4 l.format.toNat ++ leBytes 4 l.ndim.toNat ++ (l.ext.flatMap fun w => leBytes 4 w.toNat)
    ++ (l.stride.flatMap fun w => leBytes 8 w.toNat) ++ leBytes 4 l.flags.toNat ++ leBytes 4 l.status.toNat ++ l.rsvd.flatMap fun w => leBytes 4 w.toNat

def Copy.record (c : Copy) : List Byte :=
  c.recd.bytes ++ leBytes 4 c.off ++ leBytes 4 c.dval.toNat ++ ((List.range 5).flatMap fun i => leBytes 4 ((c.start[i]?).getD 0))
    ++ [BitVec.ofNat 8 c.k, BitVec.ofNat 8 c.fn] ++ zeros 2

def Block.header (b : Block) (recAddr : DWord) (team : Bool) (ngroups ncopies : Nat) : List Byte :=
  leBytes 8 recAddr.toNat ++ leBytes 4 b.bidx.toNat ++ leBytes 4 b.bidy.toNat ++ leBytes 4 b.bidz.toNat
    ++ [BitVec.ofNat 8 ngroups, flagBits [b.matrix, team], BitVec.ofNat 8 b.rank, BitVec.ofNat 8 ncopies] ++ leBytes 4 b.spmSize
    ++ leBytes 4 b.tcfg.toNat ++ (b.k.flatMap fun k => leBytes 2 k.toNat) ++ [BitVec.ofNat 8 b.batch] ++ zeros 3 ++ leBytes 4 b.astride.toNat
    ++ leBytes 4 b.soff.toNat ++ zeros 148

/-- The words of the tiles, tile-major and row-major, and the bytes of the B-store. -/
def tileWordBytes (t : Sparse 32) : List Byte := (List.range 16384).flatMap fun i => leBytes 4 (sget t i).toNat
def bstoreBytes : Nat := 4194304

/-- The state of the IXU slots that a block's groups hold, whose layout the manual does not give (log 26). -/
def ixuBytes (seed n : Nat) : List Byte := (List.range (16384 * n)).map fun i => (Config.freeWord (seed + i)).setWidth 8

/-- Where the parts of a block's record start after its header: its scratchpad, its copies, its tiles and its B-store. -/
structure RecordMap where
  spm : Nat
  copies : Nat
  tiles : Nat
  bstore : Nat
  stop : Nat

def recordMap (gs : List Group) (b : Block) (ncopies : Nat) : RecordMap :=
  let g := 256 + (gs.map fun g => 512 + 4 * g.sregs + 512 * g.vregs + if g.awl.isSome then 1024 else 0).sum
  let c := g + b.spmSize
  let t := c + 128 * ncopies
  { spm := g, copies := c, tiles := t, bstore := t + 65536, stop := if b.matrix then t + 65536 + bstoreBytes else t }

def State.blockRecord (s : State) (bid : Nat) (b : Block) (l : Launch) (gs : List Group) (copies : List Copy) : List Byte :=
  let c := s.core b.core
  b.header l.recAddr (l.recd.team > 1) gs.length copies.length ++ (gs.flatMap Group.record) ++ s.spmRead (.block bid) 0 b.spmSize
    ++ (copies.flatMap Copy.record) ++ (if b.matrix then tileWordBytes c.tiles ++ bytesAt c.bstore 0 bstoreBytes else [])
    ++ ixuBytes s.freeCtr (gs.filter (·.ixu)).length

/-! ### Saving (R285, R286) -/

/-- The place of a record of a size in a context's save area, beside those already there. -/
def Ctx.savePlace (c : Ctx) (n : Nat) : Option Nat :=
  let hits (a : Nat) : Bool := c.saved.any fun v => a < v.addr.toNat + v.bytes && v.addr.toNat < a + n
  (c.savebase.toNat :: c.saved.map fun v => v.addr.toNat + v.bytes).find? fun a =>
    c.savebase.toNat ≤ a && a + n ≤ c.savebase.toNat + c.savesize.toNat && !hits a

/-- R285: whether a context's work on a core is to stop. -/
def State.stopping (s : State) (part core : Nat) : Bool :=
  (s.part part).paused || ((s.core core).holder = some part && (s.core core).preempting)

/-- R285: whether what a block has issued has completed, so that it can be saved. -/
def State.mayStop (s : State) (core bid : Nat) : Bool :=
  let c := s.core core
  !(c.pipe.any fun o => o.bid = bid) && (c.copyq.all fun o => o.bid ≠ bid || (o.fills = [] && !o.written))
    && (s.groups.all fun e => e.2.block ≠ bid || (e.2.resps = [] && match e.2.waitFor with | .fills _ | .fetch _ => false | _ => true))
    && !s.pendingWrites.any fun w => (w.own && w.core = some core) || s.groups.any fun e => e.2.block = bid && e.2.uid = w.uid

/-- One block leaves its core for its context's save area. A record for which the area has no room is kept all the same (log 26). -/
def State.saveBlock (s : State) (ck bid : Nat) (b : Block) (l : Launch) : State :=
  let gs := s.groupsOf bid
  let c := s.core b.core
  let copies := c.copyq.filter fun o => o.bid = bid
  let data := s.blockRecord bid b l (gs.map (·.2)) (b.stopped ++ copies)
  let s := s.skip (16384 * gs.length)
  let place := (s.ctx ck).savePlace data.length
  let s := match place with | some a => s.putVirt ck (BitVec.ofNat 64 a) data | none => s
  let s := gs.foldl (fun s e => s.dropGroup e.1) s
  let s := s.modCore b.core fun c => { c with copyq := c.copyq.filter fun o => o.bid ≠ bid, codebook := c.codebook.filter fun k => k.kset ≠ b.kset }
  let v : Saved := { addr := BitVec.ofNat 64 (place.getD 0), bytes := if place.isSome then data.length else 0, bid := bid, groups := gs.map (·.2), copies := copies
                     tiles := if b.matrix then c.tiles else [], bstore := if b.matrix then c.bstore else [] }
  (s.modBlock bid fun b => { b with resident := false }).modCtx ck fun c => { c with saved := c.saved ++ [v] }

/-- R157: the arrival buffer's records and the threads of partly filled assembly buffers go to their space in the pool. -/
def State.spillPinned (s : State) (p : Pinned) : State :=
  let s := (p.arrivals.filter (·.inBuf)).foldl (fun s r => s.spill p.launch r.cap) s
  p.buffers.foldl (fun s a => if a.threads = [] then s else s.spill p.launch a.threads.length) s

/-- R157, R179: a pinned segment and the payload rings go with their launches. -/
def State.saveHolds (s : State) (core ck : Nat) : State :=
  let mine (lid : Nat) : Bool := match kget s.launches lid with | some l => l.ctx = ck | none => false
  let c := s.core core
  let s := match c.pinned with
    | some p =>
      if mine p.launch then
        ((s.spillPinned p).modLaunch p.launch fun l =>
          { l with pins := kset l.pins core { p with arrivals := p.arrivals.map fun r => { r with inBuf := false }, busy := 0 } }).modCore core
            fun c => { c with pinned := none }
      else s
    | none => s
  c.rings.foldl (fun s e =>
    if mine e.1 then
      (s.modLaunch e.1 fun l => { l with rings := kset l.rings core { e.2 with holder := none } }).modCore core fun c => { c with rings := kdel c.rings e.1 }
    else s) s

def State.ctxOfBlock (s : State) (b : Block) : Option Nat := (kget s.launches b.launch).map (·.ctx)

/-- R88: whether a pausing partition still has work under way; a launch whose writes are outstanding has, since its completion belongs before the
pause. -/
def State.stillWorking (s : State) (part : Nat) : Bool :=
  let mine (ck : Nat) : Bool := partOfCtx ck = part
  (s.blocks.any fun e => e.2.resident && match s.ctxOfBlock e.2 with | some ck => mine ck | none => false)
    || (s.pendingWrites.any fun w => mine w.ck) || (s.hostCopies.any fun h => mine h.ctx) || (s.awls.any fun e => match e.2.run with | some r => mine r.ev.ctx | none => false)
    || (s.cores.any fun e => e.2.pinned.isSome && match e.2.pinned with
        | some p => (match kget s.launches p.launch with | some l => mine l.ctx | none => false)
        | none => false)
    || (s.cores.any fun e => e.2.rings.any fun r => match kget s.launches r.1 with | some l => mine l.ctx | none => false)
    || s.ctxs.any fun e => mine e.1 && e.2.queue.readySignal.isSome

/-- R88: once all its work is saved, a paused partition holds no core, and event 0x06 says so. -/
def State.settlePause (s : State) (part : Nat) : State :=
  if !(s.part part).pausing || s.stillWorking part then s
  else
    let s := (s.modPart part fun p => { p with pausing := false }).logNow 0 6 0xFFFF 0 (leBytes 4 part)
    { s with cores := kmapAll s.cores fun _ c => if c.holder = some part then { c with holder := none, preempting := false, charged := false } else c }

/-- CONTEXT_PREEMPT (R285): what a context has on a core is saved, once everything issued has completed. -/
def execContextPreempt (part ctx core : Nat) (s : State) : Outcome :=
  let ck := ctxKey part ctx
  if !s.stopping part core then .next s
  else
    let bs := s.blocks.filter fun e => e.2.core = core && e.2.resident && s.ctxOfBlock e.2 = some ck
    if bs.any fun e => !s.mayStop core e.1 then .next s
    else
      let s := bs.foldl (fun s e => match kget s.launches e.2.launch with | some l => s.saveBlock ck e.1 e.2 l | none => s) s
      .next ((s.saveHolds core ck).settlePause part)

/-! ### Restoring (R288) -/

/-- R80, R288: whether a core may take back a block of a partition. -/
def State.mayRestore (s : State) (core part : Nat) : Bool :=
  let p := s.part part
  (p.en || part = 31) && !p.paused && s.usable core && p.coreset.getLsbD core
    && (!p.temporal || ((s.core core).holder = some part && !(s.core core).preempting))

/-- R288: a team resumes in one sector. -/
def State.sectorFits (s : State) (core : Nat) (b : Block) : Bool :=
  s.blocks.all fun e => e.2.launch ≠ b.launch || e.2.team ≠ b.team || !e.2.resident
    || (s.dieOf e.2.core = s.dieOf core && s.sectorOf e.2.core = s.sectorOf core)

/-- The drain reservation that a block runs in (R133). -/
def Launch.reserveOf (l : Launch) (bid : Nat) : Option Claim :=
  match l.kind with
  | .graph g => (g.reserved.find? fun r => r.block = some bid).map (·.claim)
  | _ => none

/-- R195: whether a core's copy queue has room for a saved block's copies. -/
def State.copiesFit (s : State) (core : Nat) (v : Saved) : Bool :=
  let q := (s.core core).copyq
  let resident := (s.blocks.filter fun e => e.2.core = core && e.2.resident).length + 1
  v.copies = [] || (q.length + v.copies.length ≤ Config.copyEntries &&
    ((q ++ v.copies).filter fun c => !c.reserved).length ≤ Config.copyEntries - resident)

/-- R495: the mesh groups of a task group run on its core, so that one with a slot filled resumes where the ring of the slot is. -/
def State.taskSlots (s : State) (b : Block) (r : Ring) : Bool := r.slots.any fun x => match kget s.blocks x.2 with
  | some o => o.launch = b.launch && o.gfx.draw = b.gfx.draw && o.gfx.task = b.gfx.task
  | none => false
def State.taskFits (s : State) (core : Nat) (b : Block) (l : Launch) : Bool :=
  ((kget (s.core core).rings b.launch).any fun r => s.taskSlots b r) || !(s.ringsOf b.launch l).any fun r => s.taskSlots b r

/-- R121, R288: the core with a payload ring for a task block that resumes there; none when its die or its save area has no place for one. -/
def State.ringFor (s : State) (core : Nat) (b : Block) (l : Launch) : Option State :=
  if b.prog ≠ .task || (kget (s.core core).rings b.launch).isSome then some s
  else if (s.ringBack l core).isSome then none
  else (s.tryCore l.ctx core (ringShape l.recd) []).map fun cl => s.modCore core fun c => { c with rings := kset c.rings b.launch { claim := cl } }

/-- Where a saved block would go on a core (R121, R288): the core partition of each group and its scratchpad. -/
def State.restorePlace (s : State) (core : Nat) (b : Block) (l : Launch) (v : Saved) : Option (List Nat × Nat) :=
  let gs := v.groups.map fun g => (g.vregs, g.sregs)
  let fit (gs : List (Nat × Nat)) (spm : Nat) : Option (List Nat × Nat) :=
    ((s.free core).fit core { groups := gs, spm := spm, matrix := b.matrix, sets := if b.prog = .mesh then 0 else 1 }).map fun c =>
      (c.groups.map (·.1), c.spmBase)
  if (v.groups.filter (·.ixu)).length > s.freeIxu core || !s.sectorFits core b || !s.copiesFit core v then none
  else match l.kind with
    | .travel _ => match (s.core core).pinned with
      | some p => if p.launch = b.launch && b.core = core then fit gs 0 else none
      | none => none
    | .gfx _ =>
      if b.prog = .task then (if s.dieOf core = s.dieOf b.core && s.taskFits core b l then fit gs b.spmSize else none)
      else if b.prog = .mesh then
        match kget (s.core core).rings b.launch with
        | none => none
        | some r =>
          if !r.slots.any (·.2 = b.id) then none
          else
            let base := r.claim.spmBase + slotBytes * b.gfx.slot
            match r.holder, r.claim.groups, gs with
            | none, cl :: _, _ :: rest => (fit rest 0).map fun x => (cl.1 :: x.1, base)
            | _, _, _ => (fit gs 0).map fun x => (x.1, base)
      else fit gs b.spmSize
    | _ => match l.reserveOf b.id with
      | some cl => if cl.core = core then some (cl.groups.map (·.1), cl.spmBase) else fit gs b.spmSize
      | none => fit gs b.spmSize

/-- R133, R288: a drain block that resumes elsewhere leaves its node's reservation free. -/
def LaunchKind.leaveReserve (bid core : Nat) : LaunchKind → LaunchKind
  | .graph g => .graph { g with reserved := g.reserved.map fun r => if r.block = some bid && r.claim.core ≠ core then { r with block := none } else r }
  | k => k

/-- The groups of a record, read back in order. -/
def groupsBack (data : List Byte) : Nat → List Group → List Group
  | _, [] => []
  | o, g :: rest =>
    let n := 512 + 4 * g.sregs + 512 * g.vregs + if g.awl.isSome then 1024 else 0
    g.fromRecord ((data.drop o).take n) :: groupsBack data (o + n) rest

/-- A group takes its place on a core again; a repetition's REP word is read again (R329). -/
def State.replaceGroup (s : State) (core cp : Nat) (g : Group) : State × Nat :=
  let slot := s.freeSlot core cp
  let back := { g with core := core, cp := cp, slot := slot, run := 0, age := 0, resumed := g.rep.isSome }
  ({ s with groups := kset s.groups (gidOf core cp slot) back }, gidOf core cp slot)

/-- What a record gives back to its block. -/
def Block.fromRecord (b : Block) (m : RecordMap) (data : List Byte) : Block :=
  { b with tcfg := word32 ((data.drop 28).take 4) &&& 0xFFF#32, batch := if b.batch % 256 = field data 96 1 then b.batch else field data 96 1, astride := word32 ((data.drop 100).take 4)
           soff := word32 ((data.drop 104).take 4), spm := ((data.drop m.spm).take b.spmSize).zipIdx.map fun e => (e.2, e.1) }

/-- R194, R451: the core of a block that comes back. It finds the codebook store empty, unless that is another resident block's: `ksets` are theirs. -/
def Core.takeBack (c : Core) (ck : Nat) (ksets : List Nat) (b : Block) (v : Saved) (copies : List Copy) : Core :=
  let c := { c with l1 := [], copyq := c.copyq ++ copies, codebook := c.codebook.filter fun k => ksets.contains k.kset }
  if b.matrix then { c with tiles := v.tiles, bstore := v.bstore, bstoreCtx := some ck } else c

/-- A saved block with what its record in memory says now. -/
def State.readBack (s : State) (ck : Nat) (b : Block) (v : Saved) : State × Block × Saved :=
  if v.bytes = 0 then (s, b, v)
  else match s.readVirt ck none v.addr v.bytes with
    | (s, .bytes data) =>
      let m := recordMap v.groups b (b.stopped.length + v.copies.length)
      let tiles := if b.matrix then ssets [] ((List.range 16384).map fun i => (i, word32 ((data.drop (m.tiles + 4 * i)).take 4))) else []
      (s, b.fromRecord m data, { v with groups := groupsBack data 256 v.groups, tiles := tiles
                                        bstore := if b.matrix then setBytes [] 0 ((data.drop m.bstore).take bstoreBytes) else [] })
    | (s, _) => (s, b, v)

/-- R211: the groups and copies of a resident block whose page request has failed: a group traps PAGE, a copy stops. -/
def State.settleFailed (s : State) (core bid : Nat) : State :=
  let s := ((s.groupsOf bid).filter (·.2.pageFailed)).foldl (fun s e =>
    (s.modGroup e.1 fun g => { g with pageFailed := false }).takeTrap e.1
      { cause := causePage, pc := e.2.pc, mask := e.2.replay.getD 0, addr := e.2.trap.addr, resume := true }) s
  ((s.core core).copyq.filter fun c => c.bid = bid && c.pageFailed).foldl (fun s c =>
    match (s.core core).copyq.findIdx? fun o => o.issued = c.issued with
    | some i => s.stopCopy core i { c with pageFailed := false } c.fault causePage c.start
    | none => s) s

/-- A saved block resumes at a place; a group whose last reply came meanwhile goes on (R252). -/
def State.restoreBlock (s : State) (ck core : Nat) (b : Block) (v : Saved) (cps : List Nat) (base : Nat) : State :=
  match s.readBack ck b v with
  | (s, b, v) =>
    let ks := s.freeKset core
    let s := s.modBlock v.bid fun _ => { b with core := core, kset := ks, spmBase := base, resident := true }
    let r := (v.groups.zip cps).foldl (fun (r : State × List (Nat × Nat)) x => match r.1.replaceGroup core x.2 x.1 with
      | (s, gid) => (s, r.2 ++ [(x.1.uid, gid)])) (s, [])
    let gidOfUid (uid : Nat) : Nat := ((r.2.find? fun x => x.1 = uid).map (·.2)).getD 0
    let copies := v.copies.map fun c => { c with gid := gidOfUid c.groupUid }
    let others := (r.1.blocks.filter fun e => e.2.core = core && e.2.resident && e.1 ≠ v.bid).map (·.2.kset)
    let s := r.1.modCore core fun c => c.takeBack ck others b v copies
    let s := if b.prog = .mesh then s.modCore core fun c =>
        { c with rings := kmod c.rings b.launch fun k => if k.holder.isNone then { k with holder := (r.2.head?).map (·.2) } else k }
      else s
    let s := s.modLaunch b.launch fun l => { l with kind := l.kind.leaveReserve v.bid core }
    let s := s.modCtx ck fun c => { c with saved := c.saved.filter fun o => o.bid ≠ v.bid }
    (r.2.foldl (fun s x => s.finishReplies x.2) s).settleFailed core v.bid

/-- R157, R179: a launch's segment is back on its core, and a payload ring on a core of its die. -/
def State.restoreHolds (s : State) (core ck : Nat) : State :=
  s.launches.foldl (fun s e =>
    if e.2.ctx ≠ ck then s
    else
      let s := match kget e.2.pins core, (s.core core).pinned with
        | some p, none => match (s.free core).spmBase p.spmSize with
          | some a => (s.modCore core fun c => { c with pinned := some { p with spmBase := a } }).modLaunch e.1 fun l => { l with pins := kdel l.pins core }
          | none => s
        | _, _ => s
      match s.ringBack e.2 core, kget (s.core core).rings e.1 with
      | some (from_, r), none => match (s.free core).fit core (ringShape e.2.recd) with
        | some cl => (s.modCore core fun c => { c with rings := kset c.rings e.1 { r with claim := cl } }).modLaunch e.1 fun l => { l with rings := kdel l.rings from_ }
        | none => s
      | _, _ => s) s

/-- A saved block resumes on a core, when the core can take it. -/
def State.restoreOne (s : State) (ck core : Nat) (v : Saved) : Option State :=
  match kget s.blocks v.bid with
  | none => none
  | some b => match kget s.launches b.launch with
    | none => none
    | some l => (s.ringFor core b l).bind fun s => (s.restorePlace core b l v).map fun p => s.restoreBlock ck core b v p.1 p.2

/-- R2, R288: a saved block resumes on a core together with the saved members of its team, in the same sector; none when not all of them can. -/
def State.restoreTeam (s : State) (part ck core : Nat) (v : Saved) : Option State :=
  let mates := (s.ctx ck).saved.filter fun o => o.bid ≠ v.bid && match kget s.blocks o.bid, kget s.blocks v.bid with
    | some a, some b => a.launch = b.launch && a.team = b.team
    | _, _ => false
  mates.foldl (fun r o => r.bind fun s => (s.candidates part).findSome? fun c => if s.mayRestore c part then s.restoreOne ck c o else none)
    (s.restoreOne ck core v)

/-- CONTEXT_RESTORE (R288): the first of a context's saved blocks, with its team, that a core can take resumes there. -/
def execContextRestore (part ctx core : Nat) (s : State) : Outcome :=
  let ck := ctxKey part ctx
  if !s.mayRestore core part then .next s
  else
    let s := s.restoreHolds core ck
    .next (((s.ctx ck).saved.findSome? (s.restoreTeam part ck core)).getD s)

end Sys2Proof.Machine
end

