-- ==== Sys2Proof/Machine/Migration.lean ====
section
/-! DEFINITION. Block records that were copied into a paused partition's save areas from another device (R89, R287). -/
namespace Sys2Proof.Machine

/-! A block record gives the block's launch record and the block's own state, but not where in a save area records lie, nor what the launch
had left to place. The device takes the records that are well formed by R287 and that came into the area while the partition was paused, at the multiples
of 64 bytes from the area's start, and gives them launches with no other block (log 85). -/

/-- The bytes of a context's memory, or none when they cannot be read. -/
def State.areaBytes (s : State) (ck : Nat) (va : DWord) (n : Nat) : Option (List Byte) :=
  match (s.readVirt ck none va n).2 with
  | .bytes l => some l
  | _ => none

/-- The launch record that a block record names, when it is one of a plain launch (R113, R115). -/
def State.recordLaunch (s : State) (ck : Nat) (va : DWord) : Option LaunchRec :=
  match (s.checkLaunch ck 0 false 0 va).2 with
  | .accept r .plain => some r
  | _ => none

/-- R287: the block of a header, numbered by its launch's linear order. -/
def blockOfHeader (r : LaunchRec) (h : List Byte) : Block :=
  let x := field h 8 4
  let y := field h 12 4
  let z := field h 16 4
  let lin := x + r.nx * (y + r.ny * z)
  { id := 0, launch := 0, core := 0, lin := lin, bidx := BitVec.ofNat 32 x, bidy := BitVec.ofNat 32 y, bidz := BitVec.ofNat 32 z
    ngrp := (r.starts []).length, team := lin / r.team, rank := lin % r.team, matrix := r.matrix, spmSize := r.spm
    k := (List.range 32).map fun i => BitVec.ofNat 16 (field h (32 + 2 * i) 2), resident := false }

/-- R287: whether a header is one of a block of its launch record. -/
def headerFits (r : LaunchRec) (h : List Byte) : Bool :=
  let b := blockOfHeader r h
  field h 8 4 < r.nx && field h 12 4 < r.ny && field h 16 4 < r.nz && field h 20 1 = b.ngrp
    && field h 21 1 = (flagBits [r.matrix, r.team > 1]).toNat && field h 22 1 = b.rank && field h 24 4 = r.spm
    && zeroAt h 97 3 && zeroAt h 108 148 && (r.matrix || zeroAt h 100 8)

/-- R287, R211: a group of a record, from the header of its record; its registers are read when the block resumes. An AMSGW has the replies that
arrived (R252), and its destination from its word. -/
def State.groupOfRecord (s : State) (ck bid idx : Nat) (st : Start) (va : DWord) : Group :=
  let h := (s.areaBytes ck va 512).getD []
  let bit (i : Nat) : Bool := field h 8 1 / 2 ^ i % 2 = 1
  let g := startGroup (s.nextId + 1 + idx) 0 0 0 bid idx 0 st
  let area := (s.areaBytes ck (va + BitVec.ofNat 64 (512 + 4 * st.sregs + 512 * st.vregs)) 1024).getD []
  let word := word64 ((s.areaBytes ck (BitVec.ofNat 64 (field h 0 8)) 8).getD [])
  let got : KMap (Word × Word) := (List.range 128).filterMap fun t =>
    let w := word32 ((area.drop (8 * t + 4)).take 4)
    if w.getLsbD 31 then some (t, word32 ((area.drop (8 * t)).take 4), w &&& 0x7FFFFFFF#32) else none
  { g with waitFor := if bit 0 then .page else .nothing, wait := if bit 0 then field h 9 1 else 0
           replay := if bit 0 then some (BitVec.ofNat 128 (field h 40 16)) else none
           rep := if field h 12 4 = 0 then none else some default, ixu := bit 2
           awl := if bit 1 then some { dst := regOf (word.extractLsb' 22 11), sent := maskOf (kkeys got), owed := 0, got := got } else none }

/-- The groups of a record whose first group lies at an address. -/
def State.groupsOfRecord (s : State) (ck bid : Nat) : Nat → DWord → List Start → List Group
  | _, _, [] => []
  | i, va, st :: rest =>
    let g := s.groupOfRecord ck bid i st va
    g :: s.groupsOfRecord ck bid (i + 1)
      (va + BitVec.ofNat 64 (512 + 4 * st.sregs + 512 * st.vregs + if g.awl.isSome then 1024 else 0)) rest

/-- R287, R443: a stopped copy of a record; the register of its STATUS is not there, so that none is written (R453), and its level descriptor is read
again. -/
def State.copyOfRecord (s : State) (ck bid issued : Nat) (l : List Byte) : Copy :=
  let lay := ({ s := ssets [] ((List.range 24).map fun i => (i, word32 ((l.drop (4 * i)).take 4))) } : Regs).layout 0
  { fn := field l 125 1, ty := 0, bstore := false, k := field l 124 1, bid := bid, gid := 0, groupUid := 0, recd := lay
    off := field l 96 4, dval := word32 ((l.drop 100).take 4), statusReg := 0, start := (List.range 5).map fun i => field l (104 + 4 * i) 4
    desc := if lay.lod then (s.areaBytes ck lay.base 320).getD [] else [], reserved := false, issued := issued }

/-- A record of an area: its launch record, its block, and what it keeps. -/
def State.recordAt (s : State) (ck : Nat) (va : DWord) : Option (LaunchRec × DWord × Block × Saved) :=
  match s.areaBytes ck va 256 with
  | none => none
  | some h => match s.recordLaunch ck (BitVec.ofNat 64 (field h 0 8)) with
    | none => none
    | some r =>
      if !headerFits r h then none
      else
        let b := blockOfHeader r h
        let bid := s.nextId
        let gs := s.groupsOfRecord ck bid 0 (va + 256) (r.starts [])
        let m := recordMap gs b (field h 23 1)
        let issued := bid + 1 + gs.length
        let copies := (List.range (field h 23 1)).map fun i =>
          s.copyOfRecord ck bid (issued + i) ((s.areaBytes ck (va + BitVec.ofNat 64 (m.copies + 128 * i)) 128).getD [])
        some (r, BitVec.ofNat 64 (field h 0 8), { b with openOps := copies.length }, { addr := va, bytes := m.stop, bid := bid, groups := gs, copies := copies })

/-- The places of a context's save area. -/
def Ctx.places (c : Ctx) : List DWord := (List.range (c.savesize.toNat / 64)).map fun i => c.savebase + BitVec.ofNat 64 (64 * i)

/-- R88: the places at which records lie when the partition is paused, which nothing has copied in. -/
def State.noteAreas (s : State) (part : Nat) : State :=
  { s with ctxs := kmapAll s.ctxs fun ck c => if partOfCtx ck = part then { c with area := c.places.filterMap fun a => (s.recordAt ck a).bind fun _ => (s.areaBytes ck a 256).map fun h => (a, h) } else c }

/-- The launch of a record's block: that of a record of the same launch taken before it, or a new one, at a depth that is not in the record. -/
def State.launchFor (s : State) (ck from_ : Nat) (r : LaunchRec) (va : DWord) : State × Nat :=
  match s.launches.find? fun e => from_ ≤ e.1 && e.2.ctx = ck && e.2.recAddr = va with
  | some e => (s, e.1)
  | none =>
    let id := s.nextId
    let l : Launch := { id := id, ctx := ck, recAddr := va, recd := r, home := r.die % 2, depth := Config.freeNat s.freeCtr % 11
                        stamp := (s.ctx ck).frame, order := id, next := r.total }
    ({ s.skip 1 with nextId := id + 1, launches := kset s.launches id l }, id)

/-- R89: one record is taken: its block waits, saved, to be restored (R288). -/
def State.takeRecord (s : State) (ck from_ : Nat) (va : DWord) : State :=
  match s.recordAt ck va with
  | none => s
  | some (r, recAddr, b, v) =>
    let s := { s with nextId := s.nextId + 1 + v.groups.length + v.copies.length }
    match s.launchFor ck from_ r recAddr with
    | (s, lid) => { s with blocks := kset s.blocks v.bid { b with id := v.bid, launch := lid } }.modCtx ck fun c => { c with saved := c.saved ++ [v] }

/-- R89: the records that were copied into a context's save area while its partition was paused. Those that the device has written itself are held as
they are, and records do not overlap. -/
def State.takeArea (s : State) (ck : Nat) : State :=
  let from_ := s.nextId
  (s.ctx ck).places.foldl (fun s a =>
    if (s.ctx ck).area.any (fun x => x.1 = a && s.areaBytes ck a 256 = some x.2) || (s.ctx ck).saved.any (fun v => v.addr.toNat ≤ a.toNat && a.toNat < v.addr.toNat + max v.bytes 1) then s
    else s.takeRecord ck from_ a) s

/-- R89: the save areas of a partition that resumes. -/
def State.takeAreas (s : State) (part : Nat) : State :=
  (kkeys s.ctxs).foldl (fun s ck => if partOfCtx ck = part then s.takeArea ck else s) s

end Sys2Proof.Machine
end

