-- ==== Sys2Proof/Machine/Contexts.lean ====
section
/-! DEFINITION. Contexts and partitions: the release of what is parked, the end of a context's work, FLRs, and the commands CTX, PART_CFG,
INVAL, RES_FENCE and AWL_REG (R50, R54, R55, R71-R75, R87-R89, R209-R211, R237, R242, R243). -/
namespace Sys2Proof.Machine

/-! ### Parked faults (R210, R211) -/

/-- What a completion releases: contexts, and the faulting address and IPA. -/
structure Release where
  ctx : Nat → Bool
  fault : DWord → Option Nat → Bool

/-- R211, R329: a group goes on with the threads that are not finished; a REP word is read again. -/
def Group.unpark (g : Group) : Group :=
  { g with wait := 0, waitFor := .nothing, parkIpa := none, resumed := g.resumed || g.rep.isSome, counted := false, replays := g.replay.isSome }

def Release.group (r : Release) (g : Group) : Group := if g.waitFor = .page && r.fault g.trap.addr g.parkIpa then g.unpark else g
def Release.copy (r : Release) (c : Copy) : Copy := if c.parked && r.fault c.fault c.parkIpa then { c with parked := false, parkIpa := none } else c
def Release.saved (r : Release) (v : Saved) : Saved := { v with groups := v.groups.map r.group, copies := v.copies.map r.copy }

/-- R509: a fixed-function access that waited for what the completion covers goes on. -/
def Release.launch (r : Release) (l : Launch) : Launch :=
  match l.kind with
  | .gfx g => { l with kind := .gfx { g with waits := g.waits.filter fun w => match w.why with | .page ipa => !r.fault w.va ipa | _ => true } }
  | _ => l

/-- R211, R454, R509: the groups, copies and fixed-function accesses covered are released, those of saved blocks too. -/
def State.releaseParked (s : State) (r : Release) : State :=
  let mine (bid : Nat) : Bool := match kget s.blocks bid with
    | some b => (match s.ctxOfBlock b with | some ck => r.ctx ck | none => false)
    | none => false
  { s with groups := kmapAll s.groups fun _ g => if mine g.block then r.group g else g
           cores := kmapAll s.cores fun _ c => { c with copyq := c.copyq.map fun o => if mine o.bid then r.copy o else o }
           launches := kmapAll s.launches fun _ l => if r.ctx l.ctx then r.launch l else l
           ctxs := kmapAll s.ctxs fun ck c => if r.ctx ck then { c with saved := c.saved.map r.saved } else c }

/-- Whether an address lies in `pages` 4 KiB pages from `first`; no pages stand for all. -/
def inPages (first : DWord) (pages : Nat) (a : DWord) : Bool := pages = 0 || (a - first).toNat < 4096 * pages

/-- Whether an access that the contexts' groups or copies have under way, or a write that is not yet acknowledged, used a translation made before. -/
def State.inFlight (s : State) (p : Nat → Bool) : Bool :=
  let mine (bid : Nat) : Bool := match kget s.blocks bid with
    | some b => (match s.ctxOfBlock b with | some ck => p ck | none => false)
    | none => false
  (s.groups.any fun e => mine e.2.block && e.2.resps ≠ [])
    || (s.cores.any fun e => e.2.copyq.any fun c => mine c.bid && (c.written || c.fills ≠ [])) || s.pendingWrites.any fun w => p w.ck

/-- R208, R209: whether a table entry lies in a range of a context or partition. -/
def EntryId.covered (id : EntryId) (stage2 : Bool) (owner first pages : Nat) : Bool :=
  let size := 2 ^ (12 + 9 * id.level)
  id.stage2 = stage2 && id.owner = owner
    && (pages = 0 || (id.index * size < first % 2 ^ 48 + 4096 * pages && first % 2 ^ 48 < (id.index + 1) * size))

/-- R209, R212: what derives from a covered entry is gone. -/
def State.dropTlb (s : State) (gone : EntryId → Bool) : State := { s with tlb := s.tlb.filter fun t => !t.froms.any gone }

/-- INVAL (R209): it starts when no access that used an old entry is under way, so it completes at once (log 5). -/
def execInval (fn ctx : Nat) (s : State) : Outcome :=
  asCommandWhen (fun c s => !s.inFlight (· = c.ck)) 6 1 (some 4) (fun _ => true) (fun c => zeroAt c.bytes 28 36) fn ctx s fun c s =>
    let va := c.addr 16
    let n := c.at 24 4
    if va.toNat % 4096 ≠ 0 then s.refuse c 4 []
    else ((s.dropTlb fun id => id.covered false c.ck va.toNat n).releaseParked { ctx := (· = c.ck), fault := fun a _ => inPages va n a }).done c

/-- R229: the words of a resource's map. -/
def LodDesc.mapWords (d : LodDesc) : Nat := ((List.range d.nlev).map fun j => (d.pages j + 63) / 64).sum

/-- The level descriptor that a core holds, doubleword by doubleword; one that it does not hold is as `now` has it (R225). -/
def Core.heldDesc (k : Core) (ck : Nat) (va : DWord) (now : List Byte) : LodDesc :=
  LodDesc.parse ((List.range 40).flatMap fun i => match kget k.mapCache (hostKey ck (va + BitVec.ofNat 64 (8 * i)).toNat) with
    | some v => leBytes 8 v.toNat
    | none => (now.drop (8 * i)).take 8 ++ List.replicate (8 - ((now.drop (8 * i)).take 8).length) 0)

/-- The addresses of the surface descriptors with LEVELS that a core holds and that name a level descriptor (R225, R464). -/
def Core.heldSurfaces (k : Core) (ck : Nat) (va : DWord) : List DWord :=
  (k.mapCache.filter fun e => e.1 / 2 ^ 64 = ck && e.1 % 64 = 24 && e.2 = va).map fun e => BitVec.ofNat 64 (e.1 - 24)

/-- R237: what a core holds of a resource is gone. -/
def Core.forget (k : Core) (ck : Nat) (va : DWord) (now : List Byte) : Core :=
  let d := k.heldDesc ck va now
  let gone := (va, 320) :: (d.resmap, 8 * d.mapWords) :: (k.heldSurfaces ck va).map fun a => (a, 64)
  let old (key : Nat) : Bool := key / 2 ^ 64 = ck && gone.any fun r => (BitVec.ofNat 64 key - r.1).toNat < r.2
  { k with mapCache := k.mapCache.filter fun e => !old e.1, filter := kdel k.filter d.resid }

/-- R237: whether a copy of the context that has read the resource's map is still under way, on a core or with a block that is switched out. -/
def State.lodCopies (s : State) (ck : Nat) (va : DWord) : Bool :=
  let mine (c : Copy) : Bool := c.recd.lod && c.recd.base = va && c.mapRead &&
    match kget s.blocks c.bid with | some b => s.ctxOfBlock b = some ck | none => false
  (s.cores.any fun e => e.2.copyq.any mine) || (s.ctx ck).saved.any fun v => v.copies.any mine

/-- The keys of the sectors behind a range of a context's memory. -/
def State.sectorKeys (s : State) (ck : Nat) (va : DWord) (n : Nat) : List Nat :=
  (pagePieces va n).flatMap fun p => match (s.access s.freeCtr ck p.1 .read).1 with
    | .dev pa _ => (List.range ((pa % 32 + p.2 + 31) / 32)).map fun i => pa / 32 + i
    | .host k => (List.range ((k % 32 + p.2 + 31) / 32)).map fun i => hostSector (k + 32 * i)
    | _ => []

/-- R237: nobody of a partition reads an old value of some sectors any more. -/
def State.forgetOld (s : State) (part : Nat) (keys : List Nat) : State :=
  let mine (bid : Nat) : Bool := match kget s.blocks bid with
    | some b => (match s.ctxOfBlock b with | some ck => partOfCtx ck = part | none => false)
    | none => false
  let cut (l : List (Nat × BitVec 256)) : List (Nat × BitVec 256) := l.filter fun e => !keys.contains (e.1 % tagUnit)
  let grp (g : Group) : Group := { g with unfenced := cut g.unfenced }
  let cpy (c : Copy) : Copy := { c with unfenced := cut c.unfenced }
  { s with groups := kmapAll s.groups fun _ g => if mine g.block then grp g else g
           cores := kmapAll s.cores fun _ k => { k with copyq := k.copyq.map fun c => if mine c.bid then cpy c else c }
           ctxs := kmapAll s.ctxs fun ck c =>
             if partOfCtx ck = part then { c with saved := c.saved.map fun v => { v with groups := v.groups.map grp, copies := v.copies.map cpy } } else c }

/-- RES_FENCE (R237): it starts when no access or copy that read the map is under way. The old values of the descriptor's and the map's sectors are
gone for every reader (log 58). -/
def execResFence (fn ctx : Nat) (s : State) : Outcome :=
  asCommandWhen (fun c s => !s.inFlight (· = c.ck) && !s.lodCopies c.ck (c.addr 16)) 7 1 (some 4) (fun _ => true) (fun c => zeroAt c.bytes 24 40)
    fn ctx s fun c s =>
    let va := c.addr 16
    if va.toNat % 64 ≠ 0 then s.refuse c 4 []
    else if !s.operandOk c.ck va .read then s.refuse c 3 []
    else
      let (s, now) := match s.readVirt c.ck none va 320 with
        | (s, .bytes l) => (s, l)
        | (s, _) => (s, [])
      let held := s.cores.map fun e => (e.2.heldDesc c.ck va now, e.2.heldSurfaces c.ck va)
      let keys := s.sectorKeys c.ck va 320 ++ ((LodDesc.parse now :: held.map (·.1)).eraseDups.flatMap fun d => s.sectorKeys c.ck d.resmap (8 * d.mapWords))
        ++ (held.flatMap (·.2)).eraseDups.flatMap fun a => s.sectorKeys c.ck a 64
      { s.forgetOld c.part keys with cores := kmapAll (s.forgetOld c.part keys).cores fun _ k => k.forget c.ck va now }.done c

/-! ### The end of a context's work (R36, R55, R243) -/

/-- A launch ends without being saved. -/
def State.killLaunch (s : State) (lid : Nat) : State :=
  let bids := (s.blocks.filter fun e => e.2.launch = lid).map (·.1)
  let s := (s.groups.filter fun e => bids.contains e.2.block).foldl (fun s e => s.dropGroup e.1) s
  { s with
    blocks := s.blocks.filter fun e => e.2.launch ≠ lid
    launches := kdel s.launches lid
    cores := kmapAll s.cores fun _ c => { c.releaseLaunch lid with
      pipe := c.pipe.filter fun o => !bids.contains o.bid, copyq := c.copyq.filter fun o => !bids.contains o.bid } }

/-- R243: a context's awl invocations and queued events end without their abort blocks. -/
def State.killAwls (s : State) (ck : Nat) : State :=
  let s := s.awls.foldl (fun s e =>
    let s := match e.2.run with | some r => if r.ev.ctx = ck then s.endInvocation e.1 r.ev.id else s | none => s
    (e.2.queue.filter fun ev => ev.ctx = ck).foldl (fun s ev =>
      { s with groups := kmapAll s.groups fun _ g => g.release ev.id
               launches := kmapAll s.launches fun _ l => l.release ev.id
               cores := kmapAll s.cores fun _ c => { c with copyq := c.copyq.map fun o => o.release ev.id } }) s) s
  { s with awls := kmapAll s.awls fun _ a => { a with queue := a.queue.filter fun ev => ev.ctx ≠ ck, sramCtx := if a.sramCtx = some ck then none else a.sramCtx
                                                      sram := if a.sramCtx = some ck then [] else a.sram }
           awlMsgs := s.awlMsgs.filter fun m => m.ctx ≠ ck }

/-- R112: an event of the Stitcher. -/
def State.outEvent (s : State) (code ck : Nat) (tag : DWord) (gen : Word) (data : List Byte) : State :=
  s.log (fnOfPart (partOfCtx ck)) code (numOfCtx ck) gen tag data

/-- R112: the output, and the scanout count in the second half. -/
def outData (out extra scan : Nat) : List Byte := [BitVec.ofNat 8 out, 0, 0, 0] ++ leBytes 4 extra ++ leBytes 8 scan

/-- R55, R95, R111: the entries of an output's queues that satisfy `p` are retired, its captures discarded. -/
def State.retirePresents (s : State) (out : Nat) (p : Present → Bool) (event : Bool) : State :=
  let o := s.out out
  let gone := (o.shows.filter p) ++ (o.latched.filter fun l => p l.p).map (·.p)
  let s := if event then gone.foldl (fun s e => s.outEvent 0x11 e.ctx e.tag e.gen (outData out 0 (o.scan - 1))) s else s
  s.modOut out fun o => { o with shows := o.shows.filter (!p ·), captures := o.captures.filter (!p ·), latched := o.latched.filter (!p ·.p)
                                 capturing := o.capturing.filter (!p ·) }

/-- What the cores hold under a context's number. -/
def Core.forgetCtx (c : Core) (ck : Nat) : Core :=
  { c with icache := c.icache.filter fun e => e.1 / 2 ^ 64 ≠ ck, mapCache := c.mapCache.filter fun e => e.1 / 2 ^ 64 ≠ ck
           bstore := if c.bstoreCtx = some ck then [] else c.bstore, bstoreCtx := if c.bstoreCtx = some ck then none else c.bstoreCtx }

/-- R243: a context's lines belong to a removed window no longer. -/
def State.closeWindow (s : State) (ck : Nat) (p : Nat → Bool) : State :=
  { s with lines := kmapAll s.lines fun _ l => if l.ctx = ck && l.window.any p then { l with window := none } else l }

/-- R208: what derives from a context's own tables. -/
def Tlb.ofCtx (ck : Nat) (t : Tlb) : Bool := t.froms.any fun id => !id.stage2 && id.owner = ck

/-- R55: everything a context holds is released, but for its entry. -/
def State.endContext (s : State) (ck : Nat) (event : Bool) : State :=
  let s := (s.launches.filter fun e => e.2.ctx = ck).foldl (fun s e => s.killLaunch e.1) s
  let s := ((s.killAwls ck).releasePins (· = ck)).closeWindow ck fun _ => true
  let s := (List.range 4).foldl (fun s o => s.retirePresents o (fun p => p.ctx = ck) event) s
  { s with
    tlb := s.tlb.filter fun t => !t.ofCtx ck
    hostCopies := s.hostCopies.filter fun h => h.ctx ≠ ck
    cores := kmapAll s.cores fun _ c => c.forgetCtx ck
    parts := kmapAll s.parts fun _ p => { p with grantLog := p.grantLog.map fun g => { g with frames := kdel g.frames ck } } }

/-- VF_FLR (R36, R87): the function's reset generation advances, and the partition's contexts, queues and work are gone; context 0 is as from
the function's reset (R50, R91). -/
def State.flr (s : State) (fn : Nat) : State :=
  let part := partOfFn fn
  let s := s.modFunc fn fun f => { f with gen := f.gen + 1 }
  let s := (s.ctxs.filter fun e => partOfCtx e.1 = part).foldl (fun s e => { s.endContext e.1 false with ctxs := kdel s.ctxs e.1 }) s
  let s := { s with ctxs := (s.ctxs.filter fun e => partOfCtx e.1 ≠ part)
                    cores := kmapAll s.cores fun _ c => if c.holder = some part then { c with holder := none, preempting := false, charged := false } else c }
  { s with ctxs := kset s.ctxs (ctxKey part 0) { allow := (s.part part).allow } }.settlePause part

/-- VF_FLR (R36). -/
def execVfFlr (fn : Nat) (s : State) : Outcome := if 1 ≤ fn && fn ≤ 24 && s.funcHere fn then .next (s.flr fn) else .next s

/-! ### CTX (R54, R55, R91) -/

/-- The fields of a CTX (R54). -/
def ctxOf (c : Cmd) (old : Ctx) : Ctx :=
  { old with strict := c.at 17 1 % 2 = 1, s1root := c.addr 24, pasid := BitVec.ofNat 20 (c.at 32 4), wdog := BitVec.ofNat 16 (c.at 36 2)
             trapbase := c.addr 40, savebase := c.addr 48, savesize := c.addr 56, pinquota := BitVec.ofNat 32 (c.at 64 4) }

/-- R54: the reserved fields, bits [31:20] of PASID among them (log 43). -/
def ctxReserved (c : Cmd) : Bool := c.at 17 1 < 2 && c.at 32 4 < 2 ^ 20 && zeroAt c.bytes 38 2 && zeroAt c.bytes 68 188

/-- R54: the number of a context that a CTX may name. -/
def ctxNumOk (c : Cmd) : Bool := c.at 18 2 ≤ (if c.fn = 0 then 255 else 127) && (c.at 18 2 ≠ 0 || c.at 16 1 = 2)

def ctxFieldsOk (c : Cmd) : Bool :=
  c.at 24 8 % 4096 = 0 && c.at 40 8 % 8 = 0 && c.at 48 8 % 4096 = 0 && c.at 56 8 % 4096 = 0

def brandLegal (b : Nat) : Bool := 1 ≤ b && b ≤ 0xFFEF

/-- R55: whether the tables and the save area lie within the partition. Of S1ROOT a virtual function's stage 2 reads bits [47:12] only (R205), so one
above them is accepted when those bits translate (log 84). -/
def State.ctxInside (s : State) (ck : Nat) (new : Ctx) : Bool :=
  let t := { s with ctxs := kset s.ctxs ck new }
  let part := partOfCtx ck
  (match (s.stage2 s.freeCtr part new.s1root.toNat).1 with | .ok f => s.mayRead part f.pa | .error _ => false)
    && ((new.savebase, 1) :: pagePieces new.savebase new.savesize.toNat).all fun p => t.deviceOk ck p.1 .write true

/-- A CTX's checks of R55, as the status of its refusal. -/
def State.ctxStatus (s : State) (c : Cmd) (new : Ctx) : Nat :=
  let ck := ctxKey c.part (c.at 18 2)
  let act := c.at 16 1
  let exists_ := (kget s.ctxs ck).isSome
  let busy := s.launches.any fun e => e.2.ctx = ck
  let brand := c.at 20 2
  if !ctxNumOk c then 4
  else if act = 0 && (exists_ || !brandLegal brand || (!(s.ctx c.ck).allow.getLsbD 6 && brand ≠ (s.ctx c.ck).brand.toNat)) then 4
  else if act ≠ 0 && !exists_ then 4
  else if act = 1 then 0
  else if !ctxFieldsOk c || (act = 2 && busy) then 4
  else if !s.ctxInside ck new then 3 else 0

/-- A CTX of one action. -/
def ctxCommand (sel : Nat → Bool) (fn ctx : Nat) (s : State) (body : Cmd → Nat → Ctx → State → State) : Outcome :=
  asCommandWhen (fun c s => c.at 16 1 ≠ 1 || !s.hostCopies.any fun h => h.ctx = ctxKey c.part (c.at 18 2)) 11 4 (some 7) (fun c => sel (c.at 16 1))
    ctxReserved fn ctx s fun c s =>
    let ck := ctxKey c.part (c.at 18 2)
    let new := ctxOf c (if c.at 16 1 = 0 then { brand := BitVec.ofNat 16 (c.at 20 2), allow := BitVec.ofNat 16 (c.at 22 2) &&& (s.ctx c.ck).allow } else s.ctx ck)
    let st := if c.at 16 1 > 2 then 4 else s.ctxStatus c new
    if st ≠ 0 then s.refuse c st [] else body c ck new s

/-- CTX_CREATE (R55); an ACTION out of range is refused here. -/
def execCtxCreate (fn ctx : Nat) (s : State) : Outcome :=
  ctxCommand (fun a => a = 0 || a > 2) fn ctx s fun c ck new s => { s with ctxs := kset s.ctxs ck new }.done c

/-- CTX_DESTROY (R55): it starts once the context's host copies are over. -/
def execCtxDestroy (fn ctx : Nat) (s : State) : Outcome :=
  ctxCommand (· = 1) fn ctx s fun c ck _ s => ({ s.endContext ck true with ctxs := kdel s.ctxs ck }).done c

/-- CTX_RECONFIGURE (R55). -/
def execCtxReconfigure (fn ctx : Nat) (s : State) : Outcome :=
  ctxCommand (· = 2) fn ctx s fun c ck new s => { s with ctxs := kset s.ctxs ck new }.done c

/-! ### PART_CFG (R72-R75, R88, R89) -/

/-- A configuration entry as the command's second entry holds it. -/
structure PartEntry where
  en : Bool
  temporal : Bool
  pause : Bool
  weight : BitVec 16
  allow : BitVec 16
  coreset : BitVec 96
  pinquota : Word
  memquota : Word
  colours : DWord

def partEntry (c : Cmd) : PartEntry :=
  let b := c.at 64 1
  { en := b % 2 = 1, temporal := b / 2 % 2 = 1, pause := b / 4 % 2 = 1, weight := BitVec.ofNat 16 (c.at 96 2), allow := BitVec.ofNat 16 (c.at 98 2)
    coreset := BitVec.ofNat 96 (c.at 100 12), pinquota := BitVec.ofNat 32 (c.at 112 4), memquota := BitVec.ofNat 32 (c.at 116 4), colours := c.addr 120 }

def partNum (c : Cmd) : Nat := c.at 16 1 % 32
def partReserved (c : Cmd) : Bool := c.at 16 1 < 32 && zeroAt c.bytes 17 47 && c.at 64 1 < 8 && zeroAt c.bytes 65 31

/-- R75: the frames that the frame ownership table records for a partition. -/
def State.framesOf (s : State) (part : Nat) : Nat :=
  let listed (p : Nat → Bool) : Nat := (s.fot.filter fun e => p (fotOwner (e.2 ^^^ 0x1F#8))).length
  if part = 31 then 2 * (s.stackBytes / 65536) - listed (· ≠ 31) else listed (· = part)

/-- R73: why an entry is refused. -/
def State.entryBad (s : State) (part : Nat) (e : PartEntry) : Bool :=
  let others := s.parts.filter fun o => o.1 ≠ part && (o.2.en || o.1 = 31)
  (e.en || part = 31) &&
    (e.coreset = 0 || (List.range 96).any (fun n => e.coreset.getLsbD n && !s.usable n) || e.colours = 0 || (e.temporal && e.weight = 0)
      || others.any (fun o => o.2.coreset &&& e.coreset ≠ 0 && (!e.temporal || !o.2.temporal))
      || e.memquota.toNat < s.framesOf part || e.pinquota.toNat < s.pinnedByPart part)

/-- R74: a change that an enabled partition does not allow. The first core set of partition 31 is not one (log 39). -/
def changeBad (part : Nat) (p : Part) (e : PartEntry) : Bool :=
  let keeps := part = 31 || (p.en && e.en)
  keeps && !(part = 31 && p.coreset = 0) && (e.coreset ≠ p.coreset || e.colours ≠ p.colours || e.temporal ≠ p.temporal)

/-- R72, R74, R100: the entry is written; context 0's allow-list follows it, but for PF0's (R50). -/
def State.writeEntry (s : State) (part : Nat) (e : PartEntry) : State :=
  let start := part ≠ 31 && e.en && !(s.part part).en
  let s := s.modPart part fun p =>
    { p with en := e.en || part = 31, temporal := e.temporal, weight := e.weight, allow := e.allow, coreset := e.coreset, pinquota := e.pinquota
             memquota := e.memquota, colours := e.colours, grants := if start then [] else p.grants
             grantGens := if start then [] else p.grantGens, grantLog := if start then [] else p.grantLog }
  if part = 31 then s else s.modCtx (ctxKey part 0) fun c => { c with allow := e.allow }

/-- R88, R89: PAUSE from 0 to 1. The saved GEN is the function's own, but in an entry that is enabled with PAUSE set: what GEN came with the
partition from another device, and how, the manual does not say, so it is free (log 85). -/
def State.pausePart (s : State) (part : Nat) (was : Bool) : State :=
  let gen := if was then (s.func (fnOfPart part)).gen else Config.freeWord s.freeCtr
  (((s.noteAreas part).skip 1).modPart part fun p => { p with paused := true, pausing := true, pausedVecs := [], savedGen := gen }).settlePause part

/-- R89: PAUSE from 1 to 0: records that came into the save areas meanwhile are taken, GEN advances, and every vector that owes a signal is signalled
once. -/
def State.resumePart (s : State) (part : Nat) : State :=
  let p := s.part part
  let fn := fnOfPart part
  let g := (s.func fn).gen
  let s := ((s.takeAreas part).modPart part fun p => { p with paused := false, pausing := false, pausedVecs := [] }).modFunc fn fun f =>
    { f with gen := (if g.toNat < p.savedGen.toNat then p.savedGen else g) + 1 }
  p.pausedVecs.foldl (fun s v => s.signal fn v) s

/-- Which of the table's four rows a PART_CFG is. -/
inductive PartKind | write | disable | pause | resume
  deriving DecidableEq, Repr

def partKind (s : State) (c : Cmd) : PartKind :=
  let p := s.part (partNum c)
  let e := partEntry c
  if partNum c = 31 then .write
  else if p.en && !e.en then .disable
  else if p.paused && !e.pause then .resume
  else if !p.paused && e.pause then .pause else .write

/-- A PART_CFG of one kind; every other context than PF0's is refused it (log 39). -/
def partCommand (k : PartKind) (fn ctx : Nat) (s : State) (body : Nat → PartEntry → State → State) : Outcome :=
  asCommand 12 2 (some 8) (fun c => partKind s c = k) partReserved fn ctx s fun c s =>
    let part := partNum c
    let e := partEntry c
    if fn ≠ 0 then s.refuse c 3 []
    else if !partNumbers.contains part || s.entryBad part e || changeBad part (s.part part) e then s.refuse c 4 []
    else (body part e s).done c

/-- PART_CFG (R72). -/
def execPartCfg (fn ctx : Nat) (s : State) : Outcome := partCommand .write fn ctx s fun part e s => s.writeEntry part e
/-- R88, R89: what a change of PAUSE does. -/
def State.pauseChange (s : State) (part : Nat) (old : Part) (pause : Bool) : State :=
  if old.paused && !pause then s.resumePart part else if !old.paused && pause then s.pausePart part old.en else s
/-- PART_CFG_DISABLE (R74): an FLR of the partition's function. -/
def execPartCfgDisable (fn ctx : Nat) (s : State) : Outcome :=
  partCommand .disable fn ctx s fun part e s => ((s.flr (fnOfPart part)).writeEntry part e).pauseChange part (s.part part) e.pause
/-- PART_PAUSE (R88). -/
def execPartPause (fn ctx : Nat) (s : State) : Outcome :=
  partCommand .pause fn ctx s fun part e s => (s.writeEntry part e).pausePart part (s.part part).en
/-- PART_RESUME (R89). -/
def execPartResume (fn ctx : Nat) (s : State) : Outcome := partCommand .resume fn ctx s fun part e s => (s.writeEntry part e).resumePart part

/-! ### AWL_REG (R242, R243) -/

def awlReserved (c : Cmd) : Bool := zeroAt c.bytes 19 1 && zeroAt c.bytes 22 2 && zeroAt c.bytes 52 4 && zeroAt c.bytes 64 64 && (c.at 16 1 = 1 || c.at 18 1 < 16)

/-- R242, R243: the fields of a registration in range, the window free and apart from the others. -/
def awlRangeOk (c : Cmd) (x : Ctx) : Bool :=
  let vb := c.at 24 8
  let vs := c.at 32 8
  let il := c.at 48 4
  c.at 17 1 ≤ 7 && 1 ≤ c.at 20 2 && c.at 20 2 ≤ 1024 && vb % 4096 = 0 && vs % 4096 = 0 && vs ≠ 0 && vb + vs ≤ 2 ^ 64 && c.at 40 8 % 8 = 0
    && il % 4 = 0 && 4 ≤ il && il ≤ 16384 && c.at 56 8 % 64 = 0 && (kget x.windows (c.at 17 1)).isNone
    && x.windows.all fun w => w.2.vbase.toNat + w.2.vsize ≤ vb || vb + vs ≤ w.2.vbase.toNat

/-- AWL_REG_REGISTER (R242, R243): the image is copied; an ACTION out of range is refused here. -/
def execAwlRegRegister (fn ctx : Nat) (s : State) : Outcome :=
  asCommand 8 2 (some 5) (fun c => c.at 16 1 ≠ 1) awlReserved fn ctx s fun c s =>
    if c.at 16 1 > 1 || !awlRangeOk c (s.ctx c.ck) then s.refuse c 4 []
    else if !s.deviceOk c.ck (c.addr 56) .atomic false then s.refuse c 3 []
    else match s.readVirt c.ck (some c.tag) (c.addr 40) (c.at 48 4) with
      | (s, .bytes l) =>
        let w : Window := { triggers := BitVec.ofNat 4 (c.at 18 1), budget := c.at 20 2, vbase := c.addr 24, vsize := c.at 32 8, image := l, logaddr := c.addr 56 }
        (s.modCtx c.ck fun x => { x with windows := kset x.windows (c.at 17 1) w }).done c
      | (s, _) => s.refuse c 3 []

/-- AWL_REG_REMOVE (R243): it starts when no invocation of the window is under way. -/
def execAwlRegRemove (fn ctx : Nat) (s : State) : Outcome :=
  asCommandWhen (fun c s => !s.awls.any fun e => match e.2.run with | some r => r.ev.ctx = c.ck && r.ev.window = c.at 17 1 | none => false)
    8 2 (some 5) (fun c => c.at 16 1 = 1) awlReserved fn ctx s fun c s =>
    if c.at 17 1 > 7 || (kget (s.ctx c.ck).windows (c.at 17 1)).isNone then s.refuse c 4 []
    else ((s.closeWindow c.ck (· = c.at 17 1)).modCtx c.ck fun x => { x with windows := kdel x.windows (c.at 17 1) }).done c

end Sys2Proof.Machine
end

