-- ==== Sys2Proof/Machine/Control.lean ====
section
/-! DEFINITION. NOP, the branches, REP, the group instructions, the cinch counters and the system instructions (R387-R403). KARM is
in Launch.lean. -/
namespace Sys2Proof.Machine

/-- NOP (R387). -/
def execNop (f : F3) (s : State) : Outcome := withF3 (scalarPlain .zero .zero .zero f) f s fun e s => s.advance e.gid

/-! ### Branches (R324, R388) -/

/-- R388, R313: loads an address into PC, or traps at the branch with nothing else changed. -/
def State.jump (s : State) (e : Env) (target : DWord) (r : Regs) : State :=
  match badTarget target with
  | some c => s.trapHere e c target
  | none => s.modGroup e.gid fun g => ({ g with regs := r }).goto target

/-- R324: the target of an FB word. -/
def fbTarget (f : FB) (g : Group) : DWord := g.pc + 8 + 8 * f.disp.signExtend 64

/-- An FB word, whose unused fields are zero. -/
def withFB (mk cc disp : Bool) (f : FB) (s : State) (body : Env → State → State) : Outcome :=
  asGroup s fun e s =>
    if (!mk && f.pm ≠ 0) || (!cc && (f.cc ≠ 0 || f.neg ≠ 0)) || (!disp && f.disp ≠ 0) then s.illegalInstr e else body e s

/-- BRA (R388). -/
def execBra (f : FB) (s : State) : Outcome := withFB false false true f s fun e s => s.jump e (fbTarget f e.g) e.g.regs
/-- BRC (R388). -/
def execBrc (f : FB) (s : State) : Outcome :=
  withFB false true true f s fun e s =>
    if e.g.regs.cget f.cc.toNat != (f.neg = 1#1) then s.jump e (fbTarget f e.g) e.g.regs else s.advance e.gid
/-- BRMZ (R388). -/
def execBrmz (f : FB) (s : State) : Outcome :=
  withFB true false true f s fun e s =>
    if e.g.regs.mget f.pm.toNat &&& e.g.live = 0 then s.jump e (fbTarget f e.g) e.g.regs else s.advance e.gid
/-- BRMNZ (R388). -/
def execBrmnz (f : FB) (s : State) : Outcome :=
  withFB true false true f s fun e s =>
    if e.g.regs.mget f.pm.toNat &&& e.g.live ≠ 0 then s.jump e (fbTarget f e.g) e.g.regs else s.advance e.gid
/-- CALL (R388). -/
def execCall (f : FB) (s : State) : Outcome :=
  withFB false false true f s fun e s => s.jump e (fbTarget f e.g) (e.g.regs.sset64 0 (e.g.pc + 8))
/-- RET (R388). -/
def execRet (f : FB) (s : State) : Outcome :=
  withFB false false false f s fun e s => s.jump e (e.g.regs.sget64 0) e.g.regs
/-- JMPR (R388). -/
def execJmpr (f : F3) (s : State) : Outcome :=
  withF3 (scalarPlain .zero (sReg 2 2) .zero f) f s fun e s => s.jump e (e.g.s64 f.a) e.g.regs
/-- CALLR (R388): the target is read before s0:s1 are written. -/
def execCallr (f : F3) (s : State) : Outcome :=
  withF3 (scalarPlain .zero (sReg 2 2) .zero f) f s fun e s => s.jump e (e.g.s64 f.a) (e.g.regs.sset64 0 (e.g.pc + 8))

/-! ### Repetition (R327-R329, R389) -/

/-- What one of the fields D, A, B of a REP target holds: an operand field, or nothing to step. -/
inductive RepField | operand | other
  deriving DecidableEq, Repr

/-- R328: the fields of a word that may be a target, by OP and FN; none for another word. A mask or a condition is not a register that is
stepped (R321; log 22). -/
def repFields (w : DWord) : Option (RepField × RepField × RepField) :=
  let op := (w.extractLsb' 56 7).toNat
  let fn := (w.extractLsb' 51 5).toNat
  if w.getLsbD 63 then none
  else match op with
    | 0x01 => some (.operand, .operand, if [22, 23, 24].contains fn then .other else .operand)
    | 0x02 | 0x21 => some (.operand, .operand, .other)
    | 0x04 => some (.other, .operand, .operand)
    | 0x05 => some (.other, .operand, .other)
    | 0x06 => some (if fn = 6 then .other else .operand, .operand, if fn = 7 then .other else .operand)
    | 0x07 => some (if 6 ≤ fn && fn ≤ 8 then .operand else .other, if fn = 9 then .operand else .other, .other)
    | 0x20 => some (.operand, .operand, if [21, 22, 23, 27].contains fn then .other else .operand)
    | 0x22 | 0x31 => some (.other, .operand, .operand)
    | 0x23 => some (.other, .operand, .other)
    | 0x24 => some (.operand, .operand, if fn ≤ 2 then .operand else .other)
    | 0x30 => some (.operand, .operand, if fn = 6 || fn = 7 then .other else .operand)
    | 0x32 => some (.operand, .operand, .other)
    | 0x33 => some (.operand, .operand, if fn = 1 || fn = 3 then .operand else .other)
    | 0x40 => some (if fn = 6 then .other else .operand, .operand, if fn = 7 || fn = 8 then .operand else .other)
    | 0x41 => some (.operand, .operand, .other)
    | 0x42 | 0x43 => some (.operand, .operand, .operand)
    | _ => none

/-- Whether a field names a register that is stepped. -/
def repIsReg (k : RepField) (f : BitVec 11) : Bool := k = .operand && (opKind f = .vector || opKind f = .scalar)

/-- A field raised by `by_`; none when the number leaves its kind. -/
def repStep (k : RepField) (f : BitVec 11) (by_ : Int) : Option (BitVec 11) :=
  if !repIsReg k f then some f
  else
    let n := regOf f
    let m := (n : Int) + by_
    if m < 0 || ((if f.getLsbD 10 then 1024 else 256 : Nat) : Int) ≤ m then none else some (BitVec.ofNat 11 (f.toNat - n + m.toNat))

/-- R328: whether a word may follow a REP word. -/
def repTargetOk (r : FR) (w : DWord) : Bool :=
  match repFields w with
  | none => false
  | some (d, a, b) =>
    (r.dinc = 0 || repIsReg d (w.extractLsb' 22 11)) && (r.ainc = 0 || repIsReg a (w.extractLsb' 11 11)) &&
      (r.binc = 0 || repIsReg b (w.extractLsb' 0 11))

/-- R328: the word of repetition j; none when a register number leaves its range. -/
def repWord (r : FR) (w : DWord) (j : Int) : Option DWord :=
  match repFields w with
  | none => none
  | some (d, a, b) =>
    match repStep d (w.extractLsb' 22 11) (j * r.dinc.toInt), repStep a (w.extractLsb' 11 11) (j * r.ainc.toInt),
        repStep b (w.extractLsb' 0 11) (j * r.binc.toInt) with
    | some d', some a', some b' => some (w.extractLsb' 33 31 ++ d' ++ a' ++ b')
    | _, _, _ => none

def repCount (r : FR) : Nat := r.cnt.toNat + 1

/-- REP (R328, R329): the repetitions begin, unless the next word cannot be a target. A target that cannot be fetched yet meets its own fault, and
is checked, when it is. -/
def execRep (f : FR) (s : State) : Outcome :=
  asGroup s fun e s =>
    match s.peekWord e (e.g.pc + 8) with
    | some w =>
      if repTargetOk f w then
        s.modGroup e.gid fun g => { g.advance with repcnt := BitVec.ofNat 32 (repCount f), rep := some f }
      else s.illegalInstr e
    | none => s.modGroup e.gid fun g => { g.advance with repcnt := BitVec.ofNat 32 (repCount f), rep := some f }

/-! ### Group control (R390-R394) -/

/-- YIELD (R392). -/
def execYield (f : F3) (s : State) : Outcome :=
  withF3 (scalarPlain .zero .zero .zero f) f s fun e s =>
    s.modGroup e.gid fun g => { g.advance with run := 0, age := 0 }

/-- R393: arrival at a barrier, a release at block or team scope; the last arrival lets all leave. -/
def barrier (team : Bool) (f : F3) (s : State) : Outcome :=
  withF3 (scalarX 4 .zero .zero .zero f) f s fun e s =>
    if e.travel then s.illegalInstr e
    else if team && s.writesPending e.g.uid then s.waitAt e.gid .writes
    else
      let id := f.x.toNat
      (s.waitAt e.gid (.barrier team id)).tryBarrier e.g.block team id

/-- BAR (R393, R153). -/
def execBar (f : F3) (s : State) : Outcome := barrier false f s
/-- BART (R393, R153). -/
def execBart (f : F3) (s : State) : Outcome := barrier true f s

/-- R394, R185: a write of FMT. -/
def State.writeFmt (s : State) (e : Env) (v : Word) : State :=
  if fmtLegal v then s.modGroup e.gid fun g => ({ g with fmt := v }).advance else s.illegalOperand e
/-- SETFMT (R394). -/
def execSetfmt (f : F3) (s : State) : Outcome :=
  withF3 (scalarPlain .zero (sSrc 1) .zero f) f s fun e s => s.writeFmt e (e.g.s32 f.a)

/-! ### Cinch counters (R395-R398) -/

/-- KSET (R396). -/
def execKset (f : F3) (s : State) : Outcome :=
  withF3 (scalarX 5 .zero (sSrc 1) .zero f) f s fun e s =>
    let a := (e.g.s32 f.a).toNat
    if a ≥ 65536 then s.illegalOperand e else (s.kput e.g.block (knum f) a).advance e.gid

/-- KADD (R396): a sum above 0xFFFF waits for a decrement, one below 0 gives 0. -/
def execKadd (f : F3) (s : State) : Outcome :=
  withF3 (scalarX 5 .zero (sSrc 1) .zero f) f s fun e s =>
    let v : Int := e.b.kval (knum f) + (e.g.s32 f.a).toInt
    if v > 0xFFFF then s.waitAt e.gid (.counterRoom (knum f) (e.g.s32 f.a).toInt.toNat)
    else (s.kput e.g.block (knum f) v.toNat).advance e.gid

/-- R397: the stopped copy counted on a counter that was issued first; stopped copies stand in that order. -/
def Block.stoppedOn (b : Block) (k : Nat) : Option Copy := b.stopped.find? fun c => c.k = k

/-- R397, R279, R290: the trap that a wait on a stopped copy takes. -/
def State.copyTrap (s : State) (e : Env) (c : Copy) : State :=
  s.takeTrap e.gid
    { cause := if c.poison then causePoison else causeAsyncFault, pc := e.g.pc, addr := c.fault, resume := c.poison
      iter := some ((List.range 5).map fun i => BitVec.ofNat 32 ((c.start[i]?).getD 0)) }

/-- KWAIT (R397). -/
def execKwait (f : F3) (s : State) : Outcome :=
  withF3 (scalarX 5 .zero .zero .zero f) f s fun e s =>
    match e.b.stoppedOn (knum f) with
    | some c => s.copyTrap e c
    | none => if e.b.kval (knum f) = 0 then (s.observe e.gid e.g.block (knum f)).advance e.gid
      else s.waitAt e.gid (.counterZero (knum f))

/-- KYIELD (R397): the continuation, at once or when the counter is zero; the latch tags are emptied. -/
def execKyield (f : FI) (s : State) : Outcome :=
  withFI (kyieldSheet f) f s fun e s =>
    let k := (f.d.extractLsb' 0 5).toNat
    let r := { e.g.regs with tags := noTags }
    let target := e.g.pc + 8 + 8 * imm64 f
    match e.b.stoppedOn k with
    | some c => s.copyTrap e c
    | none =>
      if e.b.kval k = 0 || (badTarget target).isSome then (if e.b.kval k = 0 then s.observe e.gid e.g.block k else s).jump e target r
      else (s.waitAt e.gid (.kyield k target)).setRegs e.gid r

/-- KRD (R398). -/
def execKrd (f : F3) (s : State) : Outcome :=
  withF3 (scalarX 5 (sDst 1) .zero .zero f) f s fun e s =>
    let s := if e.b.kval (knum f) = 0 then s.observe e.gid e.g.block (knum f) else s
    s.finishS e f.d (BitVec.ofNat 32 (e.b.kval (knum f)))

/-! ### System (R400-R403) -/

/-- TRAP (R400). -/
def execTrap (f : FI) (s : State) : Outcome :=
  withFI (trapSheet f) f s fun e s => s.takeTrap e.gid { cause := causeSwTrap, pc := e.g.pc + 8, addr := imm64 f }
/-- BRK (R400). -/
def execBrk (f : F3) (s : State) : Outcome :=
  withF3 (scalarPlain .zero .zero .zero f) f s fun e s => s.takeTrap e.gid { cause := causeBreak, pc := e.g.pc + 8 }
/-- TRET (R401). -/
def execTret (f : F3) (s : State) : Outcome :=
  withF3 (scalarPlain .zero .zero .zero f) f s fun e s => s.returnFromTrap e

/-- The segment that a travelling group's core holds (R145, R184). -/
def State.segOf (s : State) (e : Env) : Nat :=
  if e.travel then ((s.core e.g.core).pinned.map (·.seg)).getD 0 else 0

/-- R184, R185: the value of a special register. -/
def State.special (s : State) (e : Env) (i : Nat) : Word :=
  let n (k : Nat) : Word := BitVec.ofNat 32 k
  let g := e.g
  match i with
  | 0 => n g.index
  | 1 => n e.b.ngrp
  | 2 => e.b.bidx | 3 => e.b.bidy | 4 => e.b.bidz
  | 5 => n e.l.recd.nx | 6 => n e.l.recd.ny | 7 => n e.l.recd.nz
  | 8 => n g.core | 9 => n (s.sectorOf g.core) | 10 => n (s.dieOf g.core)
  | 11 => n e.part | 12 => e.ctx.brand.setWidth 32
  | 13 => lo32 (s.core g.core).cycles | 14 => g.cych
  | 15 => g.fmt | 16 => e.b.tcfg | 17 => g.repcnt | 18 => n (s.segOf e) | 19 => 0
  | 20 => lo32 g.trap.base | 21 => hi32 g.trap.base | 22 => lo32 g.trap.pc | 23 => hi32 g.trap.pc
  | 24 => g.trap.cause
  | 25 => g.trap.mask.extractLsb' 0 32 | 26 => g.trap.mask.extractLsb' 32 32
  | 27 => g.trap.mask.extractLsb' 64 32 | 28 => g.trap.mask.extractLsb' 96 32
  | 29 => lo32 g.trap.addr | 30 => hi32 g.trap.addr
  | 31 | 32 | 33 | 34 | 35 => (g.trap.iter[i - 31]?).getD 0
  | 36 => g.pctl | 37 => n e.l.depth | 38 => n g.role
  | _ => 0

/-- SRD (R402): a read of CYCL latches the high word (R186). -/
def execSrd (f : F3) (s : State) : Outcome :=
  withF3 (scalarPlain (sDst 1) (sSrc 1) .zero f) f s fun e s =>
    let i := (e.g.s32 f.a).toNat
    let s := if i = 13 then s.modGroup e.gid fun g => { g with cych := hi32 (s.core e.g.core).cycles } else s
    s.finishS e f.d (s.special e i)

def setLo (v : DWord) (w : Word) : DWord := pair64 w (hi32 v)
def setHi (v : DWord) (w : Word) : DWord := pair64 (lo32 v) w
def setMaskWord (m : Mask) (i : Nat) (w : Word) : Mask :=
  (m &&& ~~~((0xFFFFFFFF#128) <<< (32 * i))) ||| ((w.setWidth 128) <<< (32 * i))

/-- R196: OVF is cleared by ones, the other fields are written. -/
def pctlWrite (old v : Word) : Word := (old &&& ~~~v &&& 0xF0000000#32) ||| (v &&& 0x0FFFFFFF#32)

/-- R185, R402: the trap registers after a write of a special register; none where the write traps ILLEGAL_OPERAND. -/
def Group.writeSpecial (g : Group) (i : Nat) (v : Word) : Option Group :=
  let t := g.trap
  match i with
  | 17 => if v.toNat > 64 then none else some { g with repcnt := v }
  | 20 => if v.extractLsb' 0 3 ≠ 0 then none else some { g with trap := { t with base := setLo t.base v } }
  | 21 => some { g with trap := { t with base := setHi t.base v } }
  | 22 => some { g with trap := { t with pc := setLo t.pc v } }
  | 23 => some { g with trap := { t with pc := setHi t.pc v } }
  | 24 => if v.extractLsb' 10 22 ≠ 0 then none else some { g with trap := { t with cause := v } }
  | 25 | 26 | 27 | 28 => some { g with trap := { t with mask := setMaskWord t.mask (i - 25) v } }
  | 29 => some { g with trap := { t with addr := setLo t.addr v } }
  | 30 => some { g with trap := { t with addr := setHi t.addr v } }
  | 31 | 32 | 33 | 34 | 35 => some { g with trap := { t with iter := t.iter.set (i - 31) v } }
  | 36 => if pctlLegal v then some { g with pctl := pctlWrite g.pctl v } else none
  | _ => none

/-- SWR (R402). -/
def execSwr (f : F3) (s : State) : Outcome :=
  withF3 (scalarPlain .zero (sSrc 1) (sSrc 1) f) f s fun e s =>
    let i := (e.g.s32 f.a).toNat
    let v := e.g.s32 f.b
    if i = 15 then s.writeFmt e v
    else match e.g.writeSpecial i v with
      | some g => s.modGroup e.gid fun _ => g.advance
      | none => s.illegalOperand e

/-- PCTR (R400). -/
def execPctr (f : F3) (s : State) : Outcome :=
  withF3 (scalarPlain (sDst 1) (sSrc 1) .zero f) f s fun e s =>
    let a := (e.g.s32 f.a).toNat
    if a > 3 then s.illegalOperand e else s.finishS e f.d ((e.g.pcs[a]?).getD 0)

/-- R400: EVa, EN bit a and PCa after a PCFG. -/
def Group.configCounter (g : Group) (a : Nat) (b : Word) : Group :=
  let ev := (0x3F#32) <<< (6 * a)
  let en := (1#32) <<< (24 + a)
  let p := (g.pctl &&& ~~~(ev ||| en)) ||| (b <<< (6 * a)) ||| (if b ≠ 0 then en else 0)
  { g with pctl := p, pcs := g.pcs.set a 0 }
/-- PCFG (R400, R196). -/
def execPcfg (f : F3) (s : State) : Outcome :=
  withF3 (scalarPlain .zero (sSrc 1) (sSrc 1) f) f s fun e s =>
    let a := (e.g.s32 f.a).toNat
    let b := e.g.s32 f.b
    if a > 3 || !eventLegal b.toNat then s.illegalOperand e
    else s.modGroup e.gid fun g => (g.configCounter a b).advance

/-- IFLUSH (R403, R315): waits for the group's earlier stores at device scope, then drops the words the core holds; the group's later fetches
find what it sees now. -/
def execIflush (f : F3) (s : State) : Outcome :=
  withF3 (scalarPlain .zero .zero .zero f) f s fun e s =>
    if s.writesPending e.g.uid then s.waitAt e.gid .writes
    else ((s.modCore e.g.core fun c => { c with icache := [] }).modGroup e.gid fun g => { g with flushed := true, uncode := [] }).advance e.gid

end Sys2Proof.Machine
end

