-- ==== Sys2Proof/Machine/Errors.lean ====
section
/-! DEFINITION. Hardware errors: their containment, the error table, self-tests and retirement (R289-R292, R510), and the wrap of a
performance counter (R196). -/
namespace Sys2Proof.Machine

/-! ### Records (R291, R292) -/

/-- R292: MACRO, INDEX and UNIT of a site. How a unit is numbered within its macro is the model's (log 37). -/
def siteCode : ErrSite → Nat × Nat × Nat
  | .vreg core cp row => (1, core, 512 * cp + row)
  | .sreg core row => (2, core, row)
  | .mask gid => (3, coreOfGid gid, gid % 64)
  | .spm core off => (4, core, off / 4)
  | .tile core word => (5, core, word)
  | .bstore core off => (6, core, off / 4)
  | .l1 core line => (7, core, line)
  | .istore core line => (8, core, line)
  | .l2 pa => (9, sliceOf pa, setOf pa)
  | .hbm pa => (10, pa % 2 ^ 36 / 65536, pa / 128 % 512)
  | .awl slice => (11, slice, 0)
  | .bridle => (12, 0, 0)

def State.siteDie (s : State) (e : ErrSite) : Nat :=
  match e with
  | .l2 pa | .hbm pa => pa / 2 ^ 36 % 2
  | .awl n => n / 24
  | .bridle => 0
  | .mask gid => s.dieOf (coreOfGid gid)
  | .vreg c .. | .sreg c _ | .spm c _ | .tile c _ | .bstore c _ | .l1 c _ | .istore c _ => s.dieOf c

/-- R291, R292: a record of an error, with PF0's vector 8. -/
def State.appendErr (s : State) (e : ErrSite) (unc : Bool) (part : Nat) : State :=
  let c := (siteCode e)
  let r : ErrRec := { number := s.errNext, die := s.siteDie e, macroCode := c.1, index := c.2.1, unit := c.2.2, uncorrectable := unc
                      outcome := 0, part := part, lost := 0, bcyc := s.plat.bridleCycles }
  let l := s.errTable ++ [r]
  { s with errTable := l.drop (l.length - 4096), errNext := s.errNext + 1 }.signal 0 8

/-- R30, R85, R289: a fatal device error is raised to PF0. The value that names its source is not given (log 37). -/
def State.fatalError (s : State) : State :=
  ({ s with link := { s.link with fatal := true } }.skip 1).logNow 0 7 0xFFFF 0 [(Config.freeWord s.freeCtr).setWidth 8]

/-! ### Containment (R289, R290, R510) -/

/-- R510: a group is to take a machine check at its next instruction boundary. -/
def State.checkGroup (s : State) (gid : Nat) (rows : Bool) (addr : DWord) : State := s.modGroup gid fun g => { g with mcheck := some (rows, addr) }

/-- R510: the registers of a core partition's groups, each with its group. -/
def State.vectorRows (s : State) (core cp : Nat) : List (Nat × Nat) :=
  (s.groups.filter fun e => e.2.core = core && e.2.cp = cp).flatMap fun e => (List.range e.2.vregs).map fun n => (e.1, n)
def State.scalarRows (s : State) (core : Nat) : List (Nat × Nat) :=
  (s.groups.filter fun e => e.2.core = core).flatMap fun e => (List.range (e.2.sregs / 64)).map fun n => (e.1, 64 * n)

def State.partOfGroup (s : State) (gid : Nat) : Nat := match s.envOf gid 0 with | some e => e.part | none => 31
def State.partOfBlock (s : State) (bid : Nat) : Nat :=
  match kget s.blocks bid with
  | some b => (match kget s.launches b.launch with | some l => partOfCtx l.ctx | none => 31)
  | none => 31

/-- R289, R510: a lost row; what it held, if anything, is a free choice. Answers the partition affected. -/
def State.loseVectorRow (s : State) (core cp : Nat) : State × Nat :=
  match (s.vectorRows core cp)[Config.freeNat s.freeCtr % 512]? with
  | none => (s.skip 1, 31)
  | some (gid, n) =>
    (((s.skip 1).modGroup gid fun g => { g with regs := { g.regs with v := g.regs.v.filter fun e => e.1 / 128 ≠ n } }).checkGroup gid true (BitVec.ofNat 64 n),
      s.partOfGroup gid)
def State.loseScalarRow (s : State) (core : Nat) : State × Nat :=
  match (s.scalarRows core)[Config.freeNat s.freeCtr % 512]? with
  | none => (s.skip 1, 31)
  | some (gid, n) =>
    (((s.skip 1).modGroup gid fun g => { g with regs := { g.regs with s := g.regs.s.filter fun e => e.1 / 64 ≠ n / 64 } }).checkGroup gid true (BitVec.ofNat 64 (1024 + n)),
      s.partOfGroup gid)

def freeMask (n : Nat) : Mask := (Config.freeWord n ++ Config.freeWord (n + 1) ++ Config.freeWord (n + 2) ++ Config.freeWord (n + 3) : BitVec 128)

/-- R289: an error in mask, condition or latch storage; which of them it hit and what it then holds is free (log 37). -/
def State.loseMask (s : State) (gid : Nat) : State × Nat :=
  let n := Config.freeNat s.freeCtr % 18
  let hit (r : Regs) : Regs :=
    if n < 16 then r.mset n (freeMask (s.freeCtr + 1)) else if n = 16 then { r with c := (Config.freeWord (s.freeCtr + 1)).setWidth 8 } else { r with tags := noTags }
  (((s.skip 8).modGroup gid fun g => { g with regs := hit g.regs }).checkGroup gid false (pair64 (Config.freeWord (s.freeCtr + 5)) (Config.freeWord (s.freeCtr + 6))),
    s.partOfGroup gid)

/-- R289: every group of a block is to take a machine check. -/
def State.checkBlock (s : State) (bid : Nat) : State :=
  (s.groups.filter fun e => e.2.block = bid).foldl (fun s e => s.checkGroup e.1 false (pair64 (Config.freeWord s.freeCtr) (Config.freeWord (s.freeCtr + 1)))) s

/-- The resident blocks whose scratchpad holds an address of their core. -/
def State.spmOwners (s : State) (core off : Nat) : List Nat :=
  (s.blocks.filter fun e => e.2.core = core && e.2.resident && e.2.spmBase ≤ off && off < e.2.spmBase + e.2.spmSize).map (·.1)

/-- R289: a scratchpad word; what it then holds is free. A segment's scratchpad is owned by every group on the core (R143). -/
def State.loseSpm (s : State) (core off : Nat) : State × Nat :=
  let word := leBytes 4 (Config.freeWord s.freeCtr).toNat
  let s := s.skip 1
  match s.spmOwners core off, (s.core core).pinned with
  | b :: _, _ => ((((s.spmOwners core off).foldl (fun s bid => s.checkBlock bid) s).spmWriteRaw (.block b) ((off - ((kget s.blocks b).map (·.spmBase)).getD 0) / 4 * 4) word).skip 2,
      s.partOfBlock b)
  | [], some p =>
    if p.spmBase ≤ off && off < p.spmBase + p.spmSize then
      let bs := s.blocks.filter fun e => e.2.launch = p.launch && e.2.core = core && e.2.resident
      (((bs.foldl (fun s e => s.checkBlock e.1) s).spmWriteRaw (.segment core) ((off - p.spmBase) / 4 * 4) word).skip 2,
        match kget s.launches p.launch with | some l => partOfCtx l.ctx | none => 31)
    else (s, 31)
  | [], none => (s, 31)

/-- R289: a word of the tiles or the B-store; the block that holds the matrix array owns both. -/
def State.loseMatrix (s : State) (core : Nat) (f : Word → Core → Core) : State × Nat :=
  let w := Config.freeWord s.freeCtr
  let s := (s.skip 1).modCore core (f w)
  match s.blocks.find? fun e => e.2.core = core && e.2.resident && e.2.matrix with
  | some (bid, _) => ((s.checkBlock bid).skip 2, s.partOfBlock bid)
  | none => (s, 31)

/-- R290: the line, or without reliable mode the frame, is poisoned. -/
def State.poisonLine (s : State) (pa : Nat) : State :=
  if s.poisoned.contains (lineOf pa) then s else { s with poisoned := s.poisoned ++ [lineOf pa] }
def State.poisonFrame (s : State) (pa : Nat) : State := s.setFot (pa / 65536) (s.fotEntry (pa / 65536) ||| 0x80#8)

/-- R289: what an uncorrectable error does. Answers the partition affected. -/
def State.contain (s : State) (e : ErrSite) : State × Nat :=
  match e with
  | .vreg core cp _ => s.loseVectorRow core cp
  | .sreg core _ => s.loseScalarRow core
  | .mask gid => s.loseMask gid
  | .spm core off => s.loseSpm core off
  | .tile core word => s.loseMatrix core fun w c => { c with tiles := sset c.tiles word w }
  | .bstore core off => s.loseMatrix core fun w c => { c with bstore := setBytes c.bstore (off / 4 * 4) (leBytes 4 w.toNat) }
  | .l1 core line => (s.modCore core fun c => { c with l1 := c.l1.filter fun x => x.1 / 4 ≠ line }, 31)
  | .istore core _ => (s.modCore core fun c => { c with icache := [] }, 31)
  | .l2 pa => match s.line? pa with
    | some l => if l.dirty then (s.poisonLine pa, fotOwner (s.fotEntry (pa / 65536))) else (s, 31)
    | none => (s, 31)
  | .hbm pa => ((if s.plat.reliable then s.poisonLine pa else s.poisonFrame pa), fotOwner (s.fotEntry (pa / 65536)))
  | .awl slice => match (s.awl slice).run with
    | some r => (s.abortAwl { slice := slice, a := s.awl slice, r := r, before := s } abortException, partOfCtx r.ev.ctx)
    | none => (s, 31)
  | .bridle => (s.fatalError, 31)

/-- UNCORRECTABLE_ERROR (R289, R291): the error is contained and recorded, and a self-test of the macro is due. -/
def execUncorrectableError (e : ErrSite) (s : State) : Outcome :=
  match s.contain e with
  | (s, part) => .next { s.appendErr e true part with selfTests := s.selfTests ++ [e] }

/-! ### Corrected errors and self-tests (R291) -/

/-- R13: Bridle clocks in a second. -/
def bridleHz : Nat := 1500000000

/-- CORRECTED_ERROR (R289, R291): the sixteenth in one macro within 1 s makes a self-test due. -/
def execCorrectedError (e : ErrSite) (s : State) : Outcome :=
  let s := s.appendErr e false 31
  let same (o : ErrSite) : Bool := s.siteDie o = s.siteDie e && (siteCode o).1 = (siteCode e).1 && (siteCode o).2.1 = (siteCode e).2.1
  let l := (s.corrected.filter fun o => (s.plat.bridleCycles - o.2).toNat ≤ bridleHz) ++ [(e, s.plat.bridleCycles)]
  if (l.filter fun o => same o.1).length ≥ 16 then .next { s with corrected := l.filter fun o => !same o.1, selfTests := s.selfTests ++ [e] }
  else .next { s with corrected := l }

/-- R291: a retired way holds no line any more. -/
def State.shrinkSet (s : State) (pa : Nat) : State := if (s.setLines pa).length > s.waysOf pa then (s.makeRoom pa true).1 else s

/-- R180, R291: a retired core leaves every partition's core set. -/
def Part.dropCore (core : Nat) (p : Part) : Part := { p with coreset := p.coreset &&& ~~~((1#96) <<< core) }

/-- R291: what a failed self-test retires, with the bytes of capacity lost. What a core's retirement loses is not given (log 37). -/
def State.retireUnit (s : State) (e : ErrSite) : State × Nat :=
  match e with
  | .vreg core cp _ => ({ s with retiredRows := s.retiredRows ++ [(core, cp)] }, 512)
  | .sreg core _ => ({ s with retiredRows := s.retiredRows ++ [(core, 4)] }, 256)
  | .l2 pa =>
    let k := 2048 * sliceOf pa + setOf pa
    ({ s with retiredWays := kset s.retiredWays k ((kget s.retiredWays k).getD 0 + 1) }.shrinkSet pa, 128)
  | .hbm pa => ({ s.setFot (pa / 65536) 0x9F#8 with retiredFrames := s.retiredFrames ++ [pa / 65536] }, 65536)
  | .spm core _ | .tile core _ | .bstore core _ | .istore core _ =>
    ({ (s.modCore core fun c => { c with retired := true }).skip 1 with parts := kmapAll s.parts fun _ => Part.dropCore core }, (Config.freeWord s.freeCtr).toNat)
  | .mask _ | .l1 .. | .awl _ | .bridle => (s, 0)

/-- The outcome of a self-test goes to the newest record of its site. -/
def noteOutcome (die : Nat) (e : ErrSite) (outcome lost : Nat) : List ErrRec → List ErrRec
  | [] => []
  | r :: rest =>
    let c := (siteCode e)
    if r.die = die && r.macroCode = c.1 && r.index = c.2.1 && r.unit = c.2.2 && r.outcome = 0 then { r with outcome := outcome, lost := lost } :: rest
    else r :: noteOutcome die e outcome lost rest

/-- MACRO_SELF_TEST (R291): a self-test that is due passes or fails. -/
def execMacroSelfTest (e : ErrSite) (pass : Bool) (s : State) : Outcome :=
  if !s.selfTests.contains e then .next s
  else
    let s := { s with selfTests := s.selfTests.erase e }
    match if pass then (s, 0) else s.retireUnit e with
    | (s, lost) => .next { s with errTable := (noteOutcome (s.siteDie e) e (if pass then 1 else 2) lost s.errTable.reverse).reverse }

/-! ### Performance counters (R196) -/

/-- PERF_COUNTER_WRAP (R196): a counter at its end counts one more event of the kinds whose number the manual leaves open, wraps to 0 and
sets OVF. The other kinds are counted where they happen. -/
def execPerfCounterWrap (gid n : Nat) (s : State) : Outcome :=
  match kget s.groups gid with
  | none => .next s
  | some g =>
    let code := (g.pctl.extractLsb' (6 * n) 6).toNat
    if n < 4 && 8 ≤ code && code ≤ 13 && g.pctl.getLsbD (24 + n) && (g.pcs[n]?).getD 0 = 0xFFFFFFFF#32 then
      .next (s.modGroup gid fun g => { g with pcs := g.pcs.set n 0, pctl := g.pctl ||| ((1#32) <<< (28 + n)) })
    else .next s

end Sys2Proof.Machine
end

