-- ==== Sys2Proof/Machine/Graph.lean ====
section
/-! DEFINITION. Work graphs: EMIT, EMITC, RECGET, RECDONE, and the batches (R129-R133, R489-R491, R498-R501). -/
namespace Sys2Proof.Machine

/-- The graph a launch is, if it is one. -/
def State.graphOf (s : State) (lid : Nat) : Option GraphSt := match s.kindOf lid with | .graph g => some g | _ => none
def State.setGraph (s : State) (lid : Nat) (g : GraphSt) : State := s.modLaunch lid fun l => { l with kind := .graph g }

/-- R129: the address of a record. -/
def GraphSt.addrOf (g : GraphSt) (r : Nat) : DWord := g.poolbase + BitVec.ofNat 64 (g.recsz * r)

/-- R130: takes records from the pool; which ones is not stated (log 4). Answers the rest and the records taken. -/
def takeRecords (seed : Nat) : Nat → List Nat → List Nat × List Nat
  | 0, free => (free, [])
  | n + 1, free =>
    match free[if free.length ≤ 1 then 0 else Config.freeNat seed % free.length]? with
    | none => (free, [])
    | some r => match takeRecords (seed + 1) n (free.erase r) with
      | (rest, l) => (rest, r :: l)

/-- Writes a pair for each thread listed, without a shift of the latch tags, and moves on. -/
def State.finishPairs (s : State) (e : Env) (d : BitVec 11) (l : List (Nat × DWord)) : State :=
  let r := e.g.regs
  s.finish e { r with v := ssets r.v (l.flatMap fun x => [(128 * regOf d + x.1, lo32 x.2), (128 * (regOf d + 1) + x.1, hi32 x.2)]) }

/-- R489: whether a group belongs to a GRAPH launch. -/
def Env.inGraph (e : Env) : Bool := match e.l.kind with | .graph _ => true | _ => false

/-- R489: whether an EMIT of `n` records goes on now: those that wait are served in order. -/
def GraphSt.mayEmit (g : GraphSt) (uid n : Nat) : Bool :=
  n ≤ g.free.length && (g.waiting = [] || g.waiting.head? = some uid)

/-- EMIT (R489, R130). -/
def execEmit (f : F3) (s : State) : Outcome :=
  withF3If Env.inGraph (predPlain (vDst 2) .zero .zero f) f s fun e s =>
    match e.l.kind with
    | .graph g =>
      let ts := bitsOf (e.g.pred f.pm.toNat)
      if ts.length > g.pooln then s.illegalOperand e
      else if ts = [] then s.advance e.gid
      else if !g.mayEmit e.g.uid ts.length then
        (if g.waiting.contains e.g.uid then s else s.setGraph e.b.launch { g with waiting := g.waiting ++ [e.g.uid] }).waitAt e.gid (.pool ts.length)
      else match takeRecords s.freeCtr ts.length g.free with
        | (free, recs) =>
          let g := { g with free := free, waiting := g.waiting.filter (· ≠ e.g.uid)
                            taken := recs.foldl (fun m r => kset m r e.g.block) g.taken }
          ((s.skip ts.length).setGraph e.b.launch g).finishPairs e f.d (ts.zip (recs.map g.addrOf))
    | _ => s.illegalInstr e

/-! ### Batches (R131, R132, R499) -/

/-- R132: a ready batch enters its die's queue; batches of one fabric clock stand in ascending node number. -/
def enterReady (b : Nat × Ready) : List (Nat × Ready) → List (Nat × Ready)
  | [] => [b]
  | a :: r => if a.2.stamp > b.2.stamp || (a.2.stamp = b.2.stamp && a.2.node > b.2.node) then b :: a :: r else a :: enterReady b r
def GraphSt.enter (b : Ready) (l : List Ready) : List Ready := (enterReady (0, b) (l.map fun x => (0, x))).map (·.2)

def GraphSt.addReady (g : GraphSt) (die : Nat) (b : Ready) : GraphSt :=
  if die = 0 then { g with ready0 := GraphSt.enter b g.ready0 } else { g with ready1 := GraphSt.enter b g.ready1 }
/-- The key of a die's open batch of a node. -/
def batchKey (die node : Nat) : Nat := 16 * die + node

/-- R131, R499: a committed record joins its node's open batch on a die. -/
def GraphSt.commit (g : GraphSt) (now die node rec : Nat) : GraphSt :=
  let b := (kget g.opened (batchKey die node)).getD { recs := [], age := 0 }
  let b := { b with recs := b.recs ++ [rec] }
  let g := { g with taken := kdel g.taken rec, committed := g.committed ++ [rec] }
  if b.recs.length ≥ ((g.nodes[node]?).map (·.batch)).getD 1 then
    { g with opened := kdel g.opened (batchKey die node) }.addReady die { stamp := now, node := node, recs := b.recs }
  else { g with opened := kset g.opened (batchKey die node) b }

/-- The record that an address names, if it has been taken and not committed. -/
def GraphSt.takenAt (g : GraphSt) (a : DWord) : Option Nat := (kkeys g.taken).find? fun r => g.addrOf r = a

/-- R130: whether a block may commit to a node. -/
def Block.mayCommit (b : Block) (node : Nat) : Bool := match b.node with | some nb => nb.node < node | none => true

/-- EMITC (R489, R130, R131, R499). -/
def execEmitc (f : F3) (s : State) : Outcome :=
  withF3If Env.inGraph (predX 4 .zero (vReg 2 2) .zero f) f s fun e s =>
    match e.l.kind with
    | .graph g =>
      let node := f.x.toNat
      if node ≥ g.nodes.length || !e.b.mayCommit node then s.illegalOperand e
      else if s.writesPending e.g.uid then s.waitAt e.gid .writes
      else
        let r := (bitsOf (e.g.pred f.pm.toNat)).foldl (fun (r : GraphSt × List (Nat × DWord)) t =>
          let a := e.g.src64 f.a t
          match r.1.takenAt a with
          | some i => (r.1.commit (s.plat.fabricCycles (s.dieOf e.g.core)) (s.dieOf e.g.core) node i, r.2)
          | none => (r.1, r.2 ++ [(t, a)])) (g, [])
        (s.setGraph e.b.launch r.1).settle e (badThreads r.2) none
    | _ => s.illegalInstr e

/-- RECGET (R490). -/
def execRecget (f : F3) (s : State) : Outcome :=
  withF3 (predPlain (vDst 2) (anySrc 1) .zero f) f s fun e s =>
    let recs := (e.b.node.map (·.recs)).getD []
    let get (t : Nat) : DWord :=
      match e.l.kind, recs[(e.g.src 0 f.a t).toNat]? with
      | .graph g, some r => g.addrOf r
      | _, _ => pair64 (BitVec.ofNat 32 recs.length) 0x80000000#32
    s.finishPairs e f.d ((bitsOf (e.g.pred f.pm.toNat)).map fun t => (t, get t))

/-- R130, R490: record `i` of a node block goes back to the pool, once. -/
def State.returnRecord (s : State) (lid bid i : Nat) : State :=
  match kget s.blocks bid, s.graphOf lid with
  | some b, some g => match b.node with
    | none => s
    | some nb => match nb.recs[i]? with
      | none => s
      | some r =>
        if nb.returned.contains i then s
        else (s.modBlock bid fun b => { b with node := some { nb with returned := nb.returned ++ [i] } }).setGraph lid
          { g with free := g.free ++ [r], committed := g.committed.filter (· ≠ r) }
  | _, _ => s

/-- RECDONE (R490, R491). -/
def execRecdone (f : F3) (s : State) : Outcome :=
  withF3 (predPlain .zero (anySrc 1) .zero f) f s fun e s =>
    if s.writesPending e.g.uid then s.waitAt e.gid .writes
    else ((bitsOf (e.g.pred f.pm.toNat)).foldl (fun s t => s.returnRecord e.b.launch e.g.block (e.g.src 0 f.a t).toNat) s).advance e.gid

/-- BATCH_TIMEOUT (R131): an open batch whose first record joined TIMEOUT fabric clocks ago is ready. -/
def execBatchTimeout (lid die node : Nat) (s : State) : Outcome :=
  match s.graphOf lid with
  | none => .next s
  | some g => match kget g.opened (batchKey die node), g.nodes[node]? with
    | some b, some n =>
      if b.age < n.timeout then .next s
      else .next (s.setGraph lid ({ g with opened := kdel g.opened (batchKey die node) }.addReady die
        { stamp := s.plat.fabricCycles die, node := node, recs := b.recs }))
    | _, _ => .next s

/-! ### Dispatch (R132, R133) -/

/-- A die's ready queue, over the graph launches whose partitions run: each batch with its launch, in order. -/
def State.readyQueue (s : State) (die : Nat) : List (Nat × Ready) :=
  (s.launches.flatMap fun e => match e.2.kind with
    | .graph g => if (s.part (partOfCtx e.2.ctx)).paused then [] else (g.ready die).map fun b => (e.1, b)
    | _ => []).foldl (fun l x => enterReady x l) []

def GraphSt.dropReady (g : GraphSt) (die : Nat) (b : Ready) : GraphSt :=
  if die = 0 then { g with ready0 := g.ready0.erase b } else { g with ready1 := g.ready1.erase b }

/-- R131, R490: the block of a batch starts on a core; its block index is not stated (log 29). The rotation pointer that it moves is that of its batch's
die (log 96). -/
def State.startNode (s : State) (lid die : Nat) (l : Launch) (g : GraphSt) (n : Node) (b : Ready) (cl : Claim) (drain : Bool) : State :=
  let c := s.freeCtr
  let blk : Block := { id := 0, launch := lid, core := 0, bidx := Config.freeWord c, bidy := Config.freeWord (c + 1)
                       bidz := Config.freeWord (c + 2), node := some { node := b.node, recs := b.recs } }
  match (s.skip 3).seat l.ctx blk cl (n.recd.starts [BitVec.ofNat 32 b.node, BitVec.ofNat 32 b.recs.length]) with
  | (s, bid) => (s.modPart (partOfCtx l.ctx) fun p => p.setPointer die (cl.core + 1)).setGraph lid { g.dropReady die b with
      reserved := if drain then g.reserved.map fun r => if r.node = b.node then { r with block := some bid } else r else g.reserved }

/-- The cores of a die that request the head batch, above a core number (R132). -/
def State.requesting (s : State) (die above : Nat) (l : Launch) (n : Node) : List Claim :=
  ((s.candidates (partOfCtx l.ctx)).filter fun c => s.dieOf c = die && above ≤ c).filterMap fun c => s.tryCore l.ctx c n.recd.shape []

/-- R133: a batch that fits on no core runs in its node's drain reservation, when that is free and its core may take it. -/
def State.drainBatch (s : State) (die lid : Nat) (l : Launch) (g : GraphSt) (n : Node) (b : Ready) : State :=
  match g.reserved.find? fun r => r.node = b.node && r.block.isNone with
  | some r =>
    if (s.candidates (partOfCtx l.ctx)).contains r.claim.core && s.mayAdmit r.claim.core l.ctx (recordBytes n.recd.shape) then s.startNode lid die l g n b r.claim true
    else s
  | none => s

/-- R132, R133: in one fabric clock up to 16 requesting cores receive consecutive batches in ascending CORE number; `above` is the lowest that may
still do so. The queue is served past a batch that fits on no core. -/
def State.dispatch (s : State) (die above : Nat) : Nat → List (Nat × Ready) → State
  | 0, _ => s
  | _, [] => s
  | fuel + 1, (lid, b) :: rest => match kget s.launches lid, s.graphOf lid with
    | some l, some g => match g.nodes[b.node]? with
      | none => s.dispatch die above (fuel + 1) rest
      | some n => match s.requesting die above l n with
        | cl :: _ => (s.startNode lid die l g n b cl false).dispatch die (cl.core + 1) fuel rest
        | [] =>
          if s.requesting die 0 l n ≠ [] then s
          else (s.drainBatch die lid l g n b).dispatch die above (fuel + 1) rest
    | _, _ => s.dispatch die above (fuel + 1) rest

/-- BATCH_DISPATCH (R132, R133). -/
def execBatchDispatch (die : Nat) (s : State) : Outcome :=
  let s := (s.readyQueue die).foldl (fun s x => match kget s.launches x.1 with | some l => s.offerCores (partOfCtx l.ctx) | none => s) s
  .next (s.dispatch die 0 16 (s.readyQueue die))

/-- R130, R133, R489: what a block's retirement gives back to its graph. -/
def State.retireGraphBlock (s : State) (bid : Nat) (b : Block) (lid : Nat) : State :=
  let n := ((b.node.map (·.recs)).getD []).length
  let s := (List.range n).foldl (fun s i => s.returnRecord lid bid i) s
  match s.graphOf lid with
  | none => s
  | some g =>
    let mine := g.taken.filterMap fun e => if e.2 = bid then some e.1 else none
    s.setGraph lid { g with taken := g.taken.filter fun e => e.2 ≠ bid, free := g.free ++ mine
                            reserved := g.reserved.map fun r => if r.block = some bid then { r with block := none } else r }

end Sys2Proof.Machine
end

