-- ==== Sys2Proof/Machine/HostPort.lean ====
section
/-! DEFINITION. What the host does through its windows: registers, doorbells, the memory window, ATS and PRI; and the commands COPY,
FENCE_WAIT and FENCE_SIGNAL (R22, R23, R38-R45, R52, R53, R66, R83, R84, R211). -/
namespace Sys2Proof.Machine

/-- R21, R37: whether host accesses reach a function's windows. After a failed verification only PF0's control window is there. -/
def State.hostReach (s : State) (fn : Nat) : Bool :=
  s.running && s.funcHere fn && (s.plat.boot = .ready || (s.plat.boot = .failed && fn = 0))

/-- R37: until the firmware reports ready a configuration request is to be retried. In a boot ROM that a reserved strap holds (R35) it never does
(log 86). -/
def State.cfgRetry (s : State) : Bool := s.running && (s.plat.boot = .booting || s.plat.boot = .strapError)

/-- R24: the error status of a function's AER (log 86). -/
def Func.noteError (f : Func) (c : Completion) : Func :=
  match c with
  | .abort => { f with aer := f.aer ||| 0x8000#32 }
  | .unsupported => { f with aer := f.aer ||| 0x100000#32 }
  | _ => f

/-- A host access completes. -/
def State.complete (s : State) (fn : Nat) (c : Completion) : State :=
  { s.modFunc fn fun f => f.noteError c with hostCpl := s.hostCpl ++ [c] }

/-! ### The memory window (R22, R40, R41) -/

/-- R21, R41: the sizes of a function's window. -/
def windowMax (fn : Nat) : Nat := if fn = 0 then 37 else 32

/-- BAR_RESIZE (R22, R41): the new size waits until decoding is next enabled, and EN clears at the request (log 50). -/
def execBarResize (fn log2 : Nat) (s : State) : Outcome :=
  if s.cfgRetry then .next (s.complete fn .retry)
  else if s.hostReach fn && 28 ≤ log2 && log2 ≤ windowMax fn then .next (s.modFunc fn fun f => { f with wsizeNext := log2, wen := false }) else .next s

/-- WCTL_WRITE (R41). -/
def execWctlWrite (fn : Nat) (v : Word) (s : State) : Outcome :=
  if !s.hostReach fn then .next s
  else .next (s.modFunc fn fun f => { f with wen := v.getLsbD 0 && (f.wen || f.wbase.toNat % 2 ^ f.wsize = 0) })

/-- R40: where a piece of a window access goes: its physical address, or the address that its event names. That of a failed stage-2 translation is the
IPA, and an entry that is only pending fails too (log 50). -/
def State.windowPa (s : State) (fn a n : Nat) (write : Bool) : Except Nat Nat :=
  match (s.stage2 s.freeCtr (partOfFn fn) a).1 with
  | .ok f =>
    if if write then f.wr && s.mayWrite (partOfFn fn) f.pa else f.rd && s.mayRead (partOfFn fn) f.pa then
      match s.firstPoison f.pa n with
      | some o => .error (f.pa + o)
      | none => .ok f.pa
    else .error f.pa
  | .error _ => .error a

/-- The pieces of a window access, each in one page. -/
def State.windowPieces (s : State) (fn a n : Nat) (write : Bool) : Except Nat (List (Nat × Nat)) :=
  (pagePieces (BitVec.ofNat 64 a) n).foldl (fun r p => match r with
    | .error e => .error e
    | .ok l => match s.windowPa fn p.1.toNat p.2 write with | .ok pa => .ok (l ++ [(pa, p.2)]) | .error e => .error e) (.ok [])

/-- Bytes written to ranges one after another. -/
def State.storeParts (s : State) : List (Nat × Nat) → List Byte → State
  | [], _ => s
  | p :: rest, l => (s.storeDone p.1 (l.take p.2)).storeParts rest (l.drop p.2)

/-- WINDOW_ACCESS (R22, R40, R41): a host access through a memory window; a write when it carries bytes. It waits for a line that an awl holds
(R246), and for the link (R29). -/
def execWindowAccess (fn off : Nat) (write : Option (List Byte)) (len : Nat) (s : State) : Outcome :=
  let f := s.func fn
  let n := match write with | some l => l.length | none => len
  if !(s.hostReach fn && s.plat.boot = .ready && f.decodeOn && f.wen && off + n ≤ 2 ^ f.wsize) then .next (s.complete fn .unsupported)
  else match s.windowPieces fn (f.wbase.toNat + off) n write.isSome with
    | .error a => .next ((s.logNow fn 4 0xFFFF 0 (leBytes 8 a)).complete fn .abort)
    | .ok ps =>
      if ps.any fun p => s.cut p.1 p.2 then .next s
      else match write with
        | none => .next (s.complete fn (.success (ps.flatMap fun p => s.readMem p.1 p.2)))
        | some l => .next ((s.storeParts ps l).complete fn (.success []))

/-! ### Doorbells (R42-R45) -/

/-- R44, R45: the doorbell page of a context of a function that is there. -/
def State.doorbell (s : State) (fn ctx : Nat) (f : Queue → Queue) : State :=
  if s.hostReach fn then s.modQueue (ctxKey (partOfFn fn) ctx) f else s

def logszLegal (n : Nat) : Bool := 6 ≤ n && n ≤ 16

/-- R43: the fields of QCTL that a write sets while EN is 0. -/
def Queue.setCtl (q : Queue) (v : Word) : Queue := { q with logsz := (v.extractLsb' 0 5).toNat, hostmem := v.getLsbD 6 }

/-- QCTL_ENABLE (R43): EN is refused while LOGSZ is illegal. -/
def execQctlEnable (fn ctx : Nat) (v : Word) (s : State) : Outcome :=
  .next (s.doorbell fn ctx fun q =>
    if q.en || !v.getLsbD 7 then q
    else
      let q := q.setCtl v
      if logszLegal q.logsz then { q with en := true, wptr := 0, rptr := 0, err := 0, halt := false, hold := none, parked := none } else q)

/-- R43, R52: a queue that stops gives up what held it. A PRESENT that holds it for a full queue is dropped without a completion (log 91). -/
def Queue.stop (q : Queue) : Queue :=
  { q with en := false, hold := none, parked := none
           opened := match q.hold with
             | some (.wait _ _ _ n) | some (.present _ n) => q.opened.filter fun o => o.seq ≠ n
             | none => q.opened }

/-- QCTL_DISABLE (R43). -/
def execQctlDisable (fn ctx : Nat) (v : Word) (s : State) : Outcome :=
  .next (s.doorbell fn ctx fun q => if v.getLsbD 7 then q else if q.en then q.stop else q.setCtl v)

/-- QWPTR_WRITE (R45). -/
def execQwptrWrite (fn ctx : Nat) (v : Word) (s : State) : Outcome :=
  let ck := ctxKey (partOfFn fn) ctx
  let q := s.queue ck
  if !s.hostReach fn || (kget s.ctxs ck).isNone || !q.en || q.halt then .next s
  else if (v - q.rptr).toNat > 2 ^ q.logsz then .next (s.haltQueue fn ctx ck 1)
  else .next (s.modQueue ck fun q => { q with wptr := v })

/-- ELCTL_WRITE (R84). -/
def execElctlWrite (fn : Nat) (v : Word) (s : State) : Outcome :=
  let paused := (s.part (partOfFn fn)).paused
  if !s.hostReach fn then .next s
  else .next (s.modFunc fn fun f =>
    let old := f.elctl
    let size := if old.getLsbD 8 then old.extractLsb' 0 5 else v.extractLsb' 0 5
    let en := v.getLsbD 8 && (old.getLsbD 8 || logszLegal size.toNat)
    let ovf := old.getLsbD 9 && !v.getLsbD 9
    let f := { f with elctl := size.setWidth 32 ||| (if en then 0x100#32 else 0) ||| (if ovf then 0x200#32 else 0) ||| (v &&& 0xFC00#32) }
    if en && !old.getLsbD 8 && !paused then { f with elwptr := 0, elrptr := 0, elovf := 0 } else f)

/-! ### Other registers (R38, R39, R41, R42, R66, R83) -/

/-- R83: the event-log registers but ELCTL. -/
def Func.writeLog (f : Func) (off : Nat) (v : Word) (paused : Bool) : Func :=
  let en := f.elctl.getLsbD 8
  match off with
  | 0x100 => if en then f else { f with elbase := pair64 (v &&& 0xFFFFF000#32) (hi32 f.elbase) }
  | 0x104 => if en then f else { f with elbase := pair64 (lo32 f.elbase) v }
  | 0x10C => if paused then { f with elwptr := v } else f
  | 0x110 => { f with elrptr := v }
  | 0x114 => if paused then { f with elovf := v } else f
  | _ => f

/-- R41. -/
def Func.writeWindow (f : Func) (off : Nat) (v : Word) : Func :=
  if f.wen then f
  else match off with
    | 0 => { f with wbase := pair64 v (hi32 f.wbase) }
    | 4 => { f with wbase := pair64 (lo32 f.wbase) v }
    | _ => f

/-- R42. -/
def Queue.writeBase (q : Queue) (off : Nat) (v : Word) : Queue :=
  if q.en then q
  else match off with
    | 0 => { q with base := pair64 (v &&& 0xFFFFF000#32) (hi32 q.base) }
    | 4 => { q with base := pair64 (lo32 q.base) v }
    | _ => q

/-- R66: the mailbox's registers; only GO is seen while a request is under way. -/
def Mailbox.write (m : Mailbox) (off : Nat) (v : Word) : Mailbox :=
  if m.go then m
  else match off with
    | 0x000 => { m with req := v }
    | 0x004 => { m with go := v.getLsbD 0 }
    | 0x008 => { m with arg := pair64 v (hi32 m.arg) }
    | 0x00C => { m with arg := pair64 (lo32 m.arg) v }
    | 0x010 => { m with argLen := v }
    | 0x014 => { m with res := pair64 v (hi32 m.res) }
    | 0x018 => { m with res := pair64 (lo32 m.res) v }
    | 0x01C => { m with resLen := v }
    | _ => m

/-- R86: a word of a function's MSI-X table: four words a vector, of which bit 0 of the last masks it (log 14). A vector that is pending when
its mask clears is signalled. -/
def State.writeMsix (s : State) (fn word : Nat) (v : Word) : State :=
  let vec := word / 4
  let s := s.modFunc fn fun f => { f with msixTable := sset f.msixTable word v }
  if word % 4 ≠ 3 then s
  else if v.getLsbD 0 then s.modFunc fn fun f => { f with msixMask := f.msixMask ||| ((1#64) <<< vec) }
  else
    let pend := (s.func fn).msixPend.getLsbD vec
    let s := s.modFunc fn fun f => { f with msixMask := f.msixMask &&& ~~~((1#64) <<< vec), msixPend := f.msixPend &&& ~~~((1#64) <<< vec) }
    if pend then s.signal fn vec else s

/-- What configuration requests reach stands past the windows, at these offsets (log 14): memory-space decoding of a function (R22), PF0's SR-IOV enable
(R21), a function's AER status and PF0's ACS control (R24). -/
def decodeOffset : Nat := 2 ^ 32 + 4
def sriovOffset : Nat := 2 ^ 32 + 8
def aerOffset : Nat := 2 ^ 32 + 12
def acsOffset : Nat := 2 ^ 32 + 16
def isConfig (off : Nat) : Bool := off = decodeOffset || off = sriovOffset || off = aerOffset || off = acsOffset

/-- R22, R41: the size that a resize asked for is current when decoding is next enabled. An EN that has been set since the request stays set (log 50). -/
def Func.setDecode (f : Func) (on : Bool) : Func := { f with decodeOn := on, wsize := if on && !f.decodeOn then f.wsizeNext else f.wsize }

/-- R21, R22, R24: a configuration write. A status bit clears when 1 is written to it. -/
def State.configWrite (s : State) (fn off : Nat) (v : Word) : State :=
  if off = decodeOffset then s.modFunc fn fun f => f.setDecode (v.getLsbD 1)
  else if off = aerOffset then s.modFunc fn fun f => { f with aer := f.aer &&& ~~~v }
  else if fn ≠ 0 then s
  else if off = sriovOffset then { s with plat := { s.plat with sriov := v.getLsbD 0 } }
  else { s with plat := { s.plat with acs := v } }

/-- REGISTER_WRITE (R38, R39): a host write of a word of a control window; the registers with a row of their own are not written so, and
reserved offsets discard it. -/
def execRegisterWrite (fn off : Nat) (v : Word) (s : State) : Outcome :=
  let paused := (s.part (partOfFn fn)).paused
  let msix := if fn = 0 then 0x20000 else 0x1000
  let wctl := if fn = 0 then 0x30000 else 0x2000
  let bells := if fn = 0 then 0x100000 else 0x10000
  let nctx := if fn = 0 then 256 else 128
  let nvec := if fn = 0 then 64 else 8
  if !s.hostReach fn then .next (if s.cfgRetry && isConfig off then s.complete fn .retry else s)
  else if isConfig off then .next (s.configWrite fn off v)
  else if off % 4 ≠ 0 then .next s
  else if off < 0x1000 then .next (s.modFunc fn fun f => f.writeLog off v paused)
  else if fn = 0 && 0x10000 ≤ off && off < 0x12000 then .next { s with mbox := s.mbox.write (off - 0x10000) v }
  else if msix ≤ off && off < msix + 16 * nvec then .next (s.writeMsix fn ((off - msix) / 4) v)
  else if wctl ≤ off && off < wctl + 8 then .next (s.modFunc fn fun f => f.writeWindow (off - wctl) v)
  else if bells ≤ off && off < bells + 4096 * nctx then .next (s.doorbell fn ((off - bells) / 4096) fun q => q.writeBase (off % 4096) v)
  else .next s

/-! ### Reads (R5, R38, R39, R41-R44, R66, R83) -/

/-- R83: the event-log registers; of the rest of the identification page the layout is not given. -/
def Func.readLog (fn : Nat) (f : Func) (off : Nat) : Option Word :=
  match off with
  | 0x100 => some (lo32 f.elbase)
  | 0x104 => some (hi32 f.elbase)
  | 0x108 => some f.elctl
  | 0x10C => some f.elwptr
  | 0x110 => some f.elrptr
  | 0x114 => some f.elovf
  | 0x118 => some f.gen
  | 0x11C => some (if fn = 0 then f.dropgen else 0)
  | _ => none

/-- R41. -/
def Func.readWindow (f : Func) (off : Nat) : Word :=
  match off with
  | 0x0 => lo32 f.wbase
  | 0x4 => hi32 f.wbase
  | 0x8 => if f.wen then 1 else 0
  | 0xC => BitVec.ofNat 32 f.wsize
  | _ => 0

/-- R42-R44; QWPTR is only written. -/
def Queue.read (q : Queue) (off : Nat) : Option Word :=
  match off with
  | 0x000 => some (lo32 q.base)
  | 0x004 => some (hi32 q.base)
  | 0x008 => some (BitVec.ofNat 32 ((if q.en then 128 else 0) + (if q.hostmem then 64 else 0) + q.logsz))
  | 0x010 => none
  | 0x014 => some q.rptr
  | 0x018 => some (BitVec.ofNat 32 (256 * q.err.toNat + if q.halt then 1 else 0))
  | _ => some 0

/-- R66. -/
def Mailbox.read (m : Mailbox) (off : Nat) : Word :=
  match off with
  | 0x000 => m.req
  | 0x004 => if m.go then 1 else 0
  | 0x008 => lo32 m.arg
  | 0x00C => hi32 m.arg
  | 0x010 => m.argLen
  | 0x014 => lo32 m.res
  | 0x018 => hi32 m.res
  | 0x01C => m.resLen
  | 0x020 => m.stat
  | 0x024 => m.resOut
  | _ => 0

/-- What a word at an aligned offset reads as: `some none` where the manual does not say, none where it is reserved. -/
def State.wordAt (s : State) (fn off : Nat) : Option (Option Word) :=
  let msix := if fn = 0 then 0x20000 else 0x1000
  let nmsix := if fn = 0 then 0x10000 else 0x1000
  let wctl := if fn = 0 then 0x30000 else 0x2000
  let bells := if fn = 0 then 0x100000 else 0x10000
  let nctx := if fn = 0 then 256 else 128
  let nvec := if fn = 0 then 64 else 8
  let f := s.func fn
  if off = decodeOffset then some (some (if f.decodeOn then 2 else 0))
  else if off = aerOffset then some (some f.aer)
  else if off = sriovOffset then some (some (if fn = 0 && s.plat.sriov then 1 else 0))
  else if off = acsOffset then some (some (if fn = 0 then s.plat.acs else 0))
  else if off < 0x1000 then some (f.readLog fn off)
  else if fn = 0 && 0x10000 ≤ off && off < 0x10100 then some (some (s.mbox.read (off - 0x10000)))
  else if msix ≤ off && off < msix + 16 * nvec then
    let word := (off - msix) / 4
    let v := sget f.msixTable word
    some (some (if word % 4 = 3 then (v &&& 0xFFFFFFFE#32) ||| (if f.msixMask.getLsbD (word / 4) then 1 else 0) else v))
  else if msix ≤ off && off < msix + nmsix then some none
  else if wctl ≤ off && off < wctl + 0x10 then some (some (f.readWindow (off - wctl)))
  else if bells ≤ off && off < bells + 4096 * nctx then
    match kget s.ctxs (ctxKey (partOfFn fn) ((off - bells) / 4096)) with
    | some x => if off % 4096 < 0x1C then some (x.queue.read (off % 4096)) else none
    | none => some none
  else none

/-- What an offset of a function's control window reads as; none where the manual does not say: the identification page outside the event log, the
place of the pending-bit array, QWPTR, the doorbell page of a context that is not there, and what is no aligned word of a register (log 14).
Reserved offsets read as zero. -/
def State.registerAt (s : State) (fn off : Nat) : Option Word :=
  match s.wordAt fn (off / 4 * 4) with
  | none => some 0
  | some v => if off % 4 = 0 then v else none

/-- A host read of a word of a control window: it completes with the register's value, a free value where the manual gives none. -/
def State.hostRead (s : State) (fn off : Nat) : State :=
  if !s.running then s
  else if s.hostReach fn then
    ({ s with freeCtr := s.freeCtr + 1 }).complete fn (.success (leBytes 4 ((s.registerAt fn off).getD (Config.freeWord s.freeCtr)).toNat))
  else s.complete fn (if s.cfgRetry && isConfig off then .retry else .unsupported)

/-! ### Host pages (R23, R207, R211) -/

def State.pasidOf (s : State) (ck : Nat) : Nat := (s.ctx ck).pasid.toNat
def onPage (page : Nat) (a : DWord) : Bool := a.toNat / 4096 = page

/-- Whether an access of a group to a host page is still under way. -/
def State.hostInFlight (s : State) (pasid page : Nat) : Bool :=
  s.groups.any fun e => e.2.resps.any fun r => r.items.any fun i => match i with
    | .host _ _ a .. => a / 2 ^ 64 = pasid && a % 2 ^ 64 / 4096 = page
    | _ => false

/-- ATS_INVALIDATION (R23): the cached translation of a page is dropped, once no access that used it is under way; `absent` is whether the
host then has no translation of it. -/
def execAtsInvalidation (pasid page : Nat) (absent : Bool) (s : State) : Outcome :=
  if s.hostInFlight pasid page then .next s
  else .next { s with hostAbsent := if absent then (if s.hostAbsent.contains (pasid, page) then s.hostAbsent else s.hostAbsent ++ [(pasid, page)])
                                    else s.hostAbsent.filter (· ≠ (pasid, page)) }

/-- R53: the transfers of a host copy that a piece of memory belongs to, and what an access of one side is. -/
def State.hostSide (s : State) (ck : Nat) (host : Bool) (va : DWord) (n : Nat) (k : Access) : DWord × Acc :=
  if host then
    (va, if s.hostAbsent.contains (s.pasidOf ck, va.toNat / 4096) then .park 0 true else .host (hostKey (s.pasidOf ck) va.toNat))
  else match s.accessOf s.freeCtr ck va n k with | (a, r, _) => (a, r)

/-- Whether an access of a context to an address waits for a page request. -/
def State.asksPage (s : State) (ck : Nat) (host : Bool) (va : DWord) (k : Access) : Bool :=
  match (s.hostSide ck host va 1 k).2 with | .park _ true => true | _ => false

/-- Where a range that waits for a host page touches it. -/
def State.rangeAsks (s : State) (ck page : Nat) (host : Bool) (va : DWord) (n : Nat) (k : Access) : Option DWord :=
  let a := BitVec.ofNat 64 (max va.toNat (4096 * page))
  if va.toNat / 4096 ≤ page && page ≤ (va.toNat + n - 1) / 4096 && s.asksPage ck host a k then some a else none

/-- R211: a failed page request: the groups parked on the page trap PAGE, the copies parked there stop, and a fixed-function access there fails (R509);
what is switched out does so when it comes back. -/
def State.failPage (s : State) (pasid page : Nat) : State :=
  let mine (bid : Nat) : Bool := match kget s.blocks bid with
    | some b => (match s.ctxOfBlock b with | some ck => s.pasidOf ck = pasid | none => false)
    | none => false
  let grp (g : Group) : Group := { g with pageFailed := g.pageFailed || (g.waitFor = .page && g.parkIpa.isNone && onPage page g.trap.addr) }
  let cpy (c : Copy) : Copy := { c with pageFailed := c.pageFailed || (c.parked && c.parkIpa.isNone && onPage page c.fault) }
  let gfx (g : GfxSt) : GfxSt := { g with waits := g.waits.map fun w => if w.why = .page none && onPage page w.va then { w with why := .failed } else w }
  let s : State := { s with
    groups := kmapAll s.groups fun _ g => if mine g.block then grp g else g
    cores := kmapAll s.cores fun _ c => { c with copyq := c.copyq.map fun o => if mine o.bid then cpy o else o }
    launches := kmapAll s.launches fun _ l => if s.pasidOf l.ctx = pasid then (match l.kind with | .gfx g => { l with kind := .gfx (gfx g) } | _ => l) else l
    ctxs := kmapAll s.ctxs fun ck c =>
      if s.pasidOf ck = pasid then { c with saved := c.saved.map fun v => { v with groups := v.groups.map grp, copies := v.copies.map cpy } } else c }
  (s.blocks.filter fun e => e.2.resident).foldl (fun s e => s.settleFailed e.2.core e.1) s

/-- R46, R52: a failed page request halts the queue that waits for it: at an entry, a FENCE_WAIT or a FENCE_SIGNAL. -/
def State.failQueue (s : State) (page ck : Nat) : State :=
  let q := s.queue ck
  let held : Option Nat := match q.hold with
    | some (.wait a _ host seq) => if onPage page a && s.asksPage ck host a .read then some seq else none
    | _ => none
  let signal := match q.readySignal with | some g => if onPage page g.addr && s.asksPage ck g.host g.addr .write then some g.seq else none | none => none
  let entry := q.parked.any (onPage page)
  if !entry && held.isNone && signal.isNone then s
  else
    let gone (n : Nat) : Bool := held = some n || signal = some n
    (s.modQueue ck fun q => { q with hold := if held.isSome then none else q.hold, parked := none, signals := q.signals.filter fun g => !gone g.seq
                                     opened := q.opened.filter fun o => !gone o.seq }).haltQueue (fnOfPart (partOfCtx ck)) (numOfCtx ck) ck 3

/-- R53: a failed page request stops the host copies that wait for it. -/
def State.failHostCopies (s : State) (pasid page : Nat) : State :=
  s.hostCopies.foldl (fun t h =>
    if s.pasidOf h.ctx ≠ pasid then t
    else match s.rangeAsks h.ctx page h.srcHost h.src h.bytes .read <|> s.rangeAsks h.ctx page h.dstHost h.dst h.bytes .write with
      | some a => ({ t with hostCopies := t.hostCopies.filter fun o => o.id ≠ h.id }.logTagged h.ctx (t.tagOf h.ctx h.seq) a causePage false).completeCmd h.ctx h.seq
      | none => t) s

/-- PRI_RESPONSE (R46, R52, R53, R211): the host answers a page request. -/
def execPriResponse (pasid page : Nat) (ok : Bool) (s : State) : Outcome :=
  if !s.hostAbsent.contains (pasid, page) then .next s
  else if ok then
    .next ({ s with hostAbsent := s.hostAbsent.filter (· ≠ (pasid, page))
                    ctxs := kmapAll s.ctxs fun ck c => if s.pasidOf ck = pasid then { c with queue := { c.queue with parked := c.queue.parked.filter fun a => !onPage page a } } else c
           }.releaseParked { ctx := fun ck => s.pasidOf ck = pasid, fault := fun a ipa => ipa.isNone && onPage page a })
  else
    let s := ((kkeys s.ctxs).filter fun ck => s.pasidOf ck = pasid).foldl (fun s ck => s.failQueue page ck) (s.failPage pasid page)
    .next (s.failHostCopies pasid page)

/-! ### COPY (R53) -/

def hostRangeOk (s : State) (ck : Nat) (host : Bool) (va : DWord) (k : Access) : Bool := host || s.operandOk ck va k

/-- COPY (R53). Of each range the first address is checked before it starts, and the others where the transfer reaches them (log 84). -/
def execCopy (fn ctx : Nat) (s : State) : Outcome :=
  asCommand 2 1 (some 1) (fun _ => true) (fun c => c.at 40 1 < 4 && zeroAt c.bytes 41 23) fn ctx s fun c s =>
    let n := c.at 32 8
    let fl := c.at 40 1
    let h : HostCopy := { id := s.nextId, ctx := c.ck, src := c.addr 16, dst := c.addr 24, bytes := n, srcHost := fl % 2 = 1, dstHost := fl / 2 = 1, seq := c.seq }
    if n = 0 || n > 2 ^ 40 then s.refuse c 4 []
    else if !hostRangeOk s c.ck h.srcHost h.src .read || !hostRangeOk s c.ck h.dstHost h.dst .write then s.refuse c 3 []
    else { s.openCmd c with nextId := s.nextId + 1, hostCopies := s.hostCopies ++ [h] }

def State.readSide (s : State) (a : Acc) (n : Nat) : List Byte := (s.bytesOf a n).getD []
def State.writeSide (s : State) (a : Acc) (l : List Byte) : State :=
  match a with | .dev pa _ => s.storeDone pa l | .host k => s.writeHost k l | _ => s
/-- R246, R29: whether a side of a transfer waits, for a page, for a line that an awl holds, or for the link. -/
def State.sideWaits (s : State) (a : Acc) (n : Nat) : Bool :=
  match a with | .park .. => true | .dev pa _ => s.cut pa n | _ => false

/-- The pieces of a transfer, none of which crosses a page on either side. -/
def copyPieces (src dst : DWord) (n : Nat) : List (DWord × DWord × Nat) :=
  (pagePieces src n).flatMap fun p =>
    (pagePieces (dst + (p.1 - src)) p.2).map fun q => (src + (q.1 - dst), q.1, q.2)

/-- R53: the bytes that reach the destination. Where the ranges overlap each is one of those that the source held. -/
def copiedBytes (seed : Nat) (overlap : Bool) (all l : List Byte) : List Byte :=
  if !overlap then l else l.zipIdx.map fun e => oneOf (seed + e.2) e.1 all

/-- A piece of a transfer: its addresses, its bytes, and where each side goes. -/
structure CopyPiece where
  bytes : Nat
  src : DWord × Acc
  dst : DWord × Acc

/-- R53: why a piece cannot be moved: the address and the cause, with the stage of a failed walk. -/
def CopyPiece.bad (p : CopyPiece) : Option (DWord × Nat × Bool) :=
  match p.src.2, p.dst.2 with
  | .stop c st, _ => some (p.src.1, c, st.getD false)
  | _, .stop c st => some (p.dst.1, c, st.getD false)
  | _, _ => none

def State.copyParts (s : State) (h : HostCopy) : List CopyPiece :=
  (copyPieces h.src h.dst h.bytes).map fun p =>
    { bytes := p.2.2, src := s.hostSide h.ctx h.srcHost p.1 p.2.2 .read, dst := s.hostSide h.ctx h.dstHost p.2.1 p.2.2 .write }

/-- HOST_COPY_COMPLETE (R53): the transfer moves its bytes, or stops at an unresolvable fault, in which case any of the other pieces may have
been moved. A page that is not there holds it. One that stops completes as one that does not, so that FLAGS bit 8 gives event 0x01 (log 90). -/
def execHostCopyComplete (id : Nat) (s : State) : Outcome :=
  match s.hostCopies.find? fun h => h.id = id with
  | none => .next s
  | some h =>
    let ps := s.copyParts h
    if ps.any fun p => s.sideWaits p.src.2 p.bytes || s.sideWaits p.dst.2 p.bytes then .next s
    else
      let bad := ps.findSome? CopyPiece.bad
      let overlap := h.srcHost = h.dstHost && h.src.toNat < h.dst.toNat + h.bytes && h.dst.toNat < h.src.toNat + h.bytes
      let all := ps.flatMap fun p => s.readSide p.src.2 p.bytes
      let good := ps.zipIdx.filter fun x => x.1.bad.isNone && (bad.isNone || Config.freeBool (s.freeCtr + x.2))
      let data := good.map fun x => (x.1.dst.2, copiedBytes (s.freeCtr + 4096 * x.2) overlap all (s.readSide x.1.src.2 x.1.bytes))
      let s' := data.foldl (fun t x => t.writeSide x.1 x.2) (s.skip (4096 * (ps.length + 1)))
      let s' := { s' with hostCopies := s'.hostCopies.filter fun o => o.id ≠ id }
      let s' := match bad with | some (a, c, st) => s'.logTagged h.ctx (s.tagOf h.ctx h.seq) a c st | none => s'
      .next ((s'.completeCmd h.ctx h.seq).settlePause (partOfCtx h.ctx))

/-! ### FENCE_WAIT and FENCE_SIGNAL (R52) -/

def fenceReserved (c : Cmd) : Bool := c.at 32 1 < 2 && zeroAt c.bytes 33 31
def fenceStatus (s : State) (c : Cmd) (k : Access) : Nat :=
  if c.at 16 8 % 8 ≠ 0 then 4 else if !hostRangeOk s c.ck (c.at 32 1 = 1) (c.addr 16) k then 3 else 0

/-- The 64-bit value at a fence's address. -/
inductive FenceRead | value (v : DWord) | wait | fault (cause : Nat) (walk : Option Bool)

def State.fenceRead (s : State) (ck : Nat) (host : Bool) (a : DWord) : FenceRead :=
  let r := (s.hostSide ck host a 8 .read).2
  if s.sideWaits r 8 then .wait else match r with | .stop c st => .fault c st | _ => .value (word64 (s.readSide r 8))

/-- R52: an unresolvable fault on a fence's address is recorded when a walk failed, and halts the queue; the command is over. -/
def State.fenceFault (s : State) (fn num ck seq : Nat) (a : DWord) (cause : Nat) (walk : Option Bool) : State :=
  let s := match walk with | some st => s.logTagged ck (s.tagOf ck seq) a cause st | none => s
  (s.modQueue ck fun q => { q with opened := q.opened.filter fun o => o.seq ≠ seq }).haltQueue fn num ck 3

/-- The Bridle reads the value that a queue waits for; when it is there the queue goes on. -/
def State.recheck (s : State) (fn num ck : Nat) : State :=
  match (s.queue ck).hold with
  | some (.wait a v host seq) =>
    let free (s : State) : State := s.modQueue ck fun q => { q with hold := none }
    match s.fenceRead ck host a with
    | .value w => if w.toNat ≥ v.toNat then (free s).completeCmd ck seq else s
    | .wait => s
    | .fault c st => (free s).fenceFault fn num ck seq a c st
  | _ => s

/-- FENCE_WAIT (R52): the queue is held until the value read is at least the operand; it is read at once. -/
def execFenceWait (fn ctx : Nat) (s : State) : Outcome :=
  asCommand 3 1 (some 2) (fun _ => true) fenceReserved fn ctx s fun c s =>
    let st := fenceStatus s c .read
    if st ≠ 0 then s.refuse c st []
    else ((s.openCmd c).modQueue c.ck fun q => { q with hold := some (.wait (c.addr 16) (c.addr 24) (c.at 32 1 = 1) c.seq) }).recheck fn ctx c.ck

/-- FENCE_WAIT_RECHECK (R52). -/
def execFenceWaitRecheck (fn ctx : Nat) (s : State) : Outcome :=
  let ck := ctxKey (partOfFn fn) ctx
  if s.running && (s.queue ck).en && !(s.part (partOfFn fn)).paused then .next (s.recheck fn ctx ck) else .next s

/-- R52: a signal's store, with a release at system scope. -/
def State.fireSignal (s : State) (fn num ck : Nat) (g : Signal) : State :=
  let drop (s : State) : State := s.modQueue ck fun q => { q with signals := q.signals.filter fun o => o.seq ≠ g.seq }
  let r := (s.hostSide ck g.host g.addr 8 .write).2
  if s.sideWaits r 8 then s
  else match r with
    | .stop c st => (drop s).fenceFault fn num ck g.seq g.addr c st
    | _ => ((drop s).writeSide r (leBytes 8 g.value.toNat)).completeCmd ck g.seq

/-- FENCE_SIGNAL (R52, R88): a signal that waited and may go is written, which may end a pause; otherwise the next one is fetched. -/
def execFenceSignal (fn ctx : Nat) (s : State) : Outcome :=
  let ck := ctxKey (partOfFn fn) ctx
  match (s.queue ck).readySignal with
  | some g =>
    let p := s.part (partOfFn fn)
    if p.paused && !p.pausing then .next s else .next ((s.fireSignal fn ctx ck g).settlePause (partOfFn fn))
  | none =>
    asCommand 4 1 (some 2) (fun _ => true) fenceReserved fn ctx s fun c s =>
      let st := fenceStatus s c .write
      if st ≠ 0 then s.refuse c st []
      else
        let s := (s.openCmd c).modQueue c.ck fun q =>
          { q with signals := q.signals ++ [{ addr := c.addr 16, value := c.addr 24, host := c.at 32 1 = 1, seq := c.seq }] }
        match (s.queue ck).readySignal with
        | some g => s.fireSignal fn ctx ck g
        | none => s

end Sys2Proof.Machine
end

