-- ==== Sys2Proof/Machine/Texture.lean ====
section
/-! DEFINITION. The texture instructions SAMPLE, SAMPLEL, SAMPLEG, TFETCH, GATHER4, IMGLD, IMGST and QLOD, the consent they need, and the
brand rule (R92-R94, R100-R103, R464-R472). -/
namespace Sys2Proof.Machine

/-! ### Consent (R102, R103) -/

/-- R102: the grants of a context's partition as a launch with a stamp sees them. -/
def State.grantsSeen (s : State) (ck stamp : Nat) : List Grant :=
  let p := s.part (partOfCtx ck)
  let late (c : GrantChange) : Bool := match kget c.frames ck with | some f => stamp ≤ f | none => false
  ((kkeys p.grants ++ p.grantLog.map (·.slot)).eraseDups).filterMap fun i =>
    match p.grantLog.find? fun c => c.slot = i && late c with
    | some c => c.before
    | none => kget p.grants i

/-- R103: whether a grant lets a brand see the texels of level 0 or the pixel in a rectangle. -/
def Grant.allows (g : Grant) (capture : Bool) (out : Nat) (owner brand : BitVec 16) (x0 y0 x1 y1 : Nat) : Bool :=
  g.grantor = owner && g.grantee = brand && g.x0 ≤ x0 && g.y0 ≤ y0 && x1 ≤ g.x1 && y1 ≤ g.y1 &&
    (if capture then g.kind = 1 && g.out = out && g.rights.getLsbD 1 else g.kind = 0 && g.rights.getLsbD 0)

/-- What a TEX instruction reads: its surface and, with LEVELS, the level descriptor. -/
structure Tex where
  surf : Surf
  lod : Option LodDesc
  brand : BitVec 16
  grants : List Grant

def Tex.nlev (t : Tex) : Nat := match t.lod with | some d => d.nlev | none => 1
def Tex.addr (t : Tex) (lv x y : Nat) : DWord :=
  (match t.lod with | some d => d.baseOf lv | none => t.surf.base) + BitVec.ofNat 64 (t.surf.texelOff lv x y)
/-- R226, R466. -/
def Tex.page (t : Tex) (lv x y : Nat) : Nat × Nat := (lv, t.surf.texelOff lv x y / 65536)

/-- R103: whether a texel of an owner is allowed. -/
def Tex.allowed (t : Tex) (owner : BitVec 16) (lv x y : Nat) : Bool :=
  let f := t.surf
  owner = 0 || owner = t.brand || t.grants.any fun g =>
    if f.capture then g.allows true f.out owner t.brand (f.vx0 + x) (f.vy0 + y) (f.vx0 + x + 1) (f.vy0 + y + 1)
    else g.allows false 0 owner t.brand (x * 2 ^ lv) (y * 2 ^ lv) (min ((x + 1) * 2 ^ lv) f.width) (min ((y + 1) * 2 ^ lv) f.height)

/-- R92, R464, R466: the owner of a texel. -/
def Rd.owner (x : Rd) (t : Tex) (tx ty : Nat) : Rd × Res (BitVec 16) :=
  if !t.surf.capture then (x, .ok t.surf.brand)
  else andThen (x.read (t.surf.brandplane + BitVec.ofNat 64 (ty * (t.surf.pitch / 2) + 2 * tx)) 2) fun x l => (x, .ok (BitVec.ofNat 16 (leNat l)))

/-- A texel of a level. -/
structure Texel where
  lv : Nat
  x : Nat
  y : Nat
  deriving DecidableEq, Repr

/-- R103: whether every texel of a footprint is allowed. -/
def Rd.consent (x : Rd) (t : Tex) : List Texel → Rd × Res Bool
  | [] => (x, .ok true)
  | a :: rest => andThen (x.owner t a.x a.y) fun x o => if t.allowed o a.lv a.x a.y then x.consent t rest else (x, .ok false)

/-- The bytes of a texel, and its components (R465). -/
def Rd.texelBytes (x : Rd) (t : Tex) (a : Texel) : Rd × Res (List Byte) := x.read (t.addr a.lv a.x a.y) (formatBytes t.surf.format)

def zero4 : List Word := [0, 0, 0, 0]

/-- The components of a footprint's texels; one outside a level under border is zero. -/
def Rd.texels (x : Rd) (t : Tex) : List (Option Texel) → Rd × Res (List (List Word))
  | [] => (x, .ok [])
  | none :: rest => andThen (x.texels t rest) fun x l => (x, .ok (zero4 :: l))
  | some a :: rest => andThen (x.texelBytes t a) fun x b =>
      andThen (x.texels t rest) fun x l => (x, .ok (pixelRead t.surf.format b :: l))

/-! ### The descriptor (R464) -/

/-- R464, R225: the surface descriptor of an instruction; none when it is not legal. One with LEVELS may be one that the core still holds. -/
def Rd.surf (x : Rd) (va : DWord) : Rd × Res (Option Surf) :=
  if va.toNat % 64 ≠ 0 then (x, .ok none)
  else andThen (x.read va 64) fun x now =>
    let r : Rd × List Byte := if (Surf.parse now).levels then x.descBytes va now else (x, now)
    (r.1, .ok (if r.1.s.surfOk r.2 then some (Surf.parse r.2) else none))

/-- What a TEX instruction reads, or the address of the descriptor that is not legal: one with LEVELS breaks R464 when it names a level descriptor of
KIND 1. -/
def Rd.tex (x : Rd) (e : Env) (va : DWord) : Rd × Res (Except DWord Tex) :=
  andThen (x.surf va) fun x f =>
    match f with
    | none => (x, .ok (.error va))
    | some f =>
      let t : Tex := { surf := f, lod := none, brand := e.ctx.brand, grants := x.s.grantsSeen e.ck e.l.stamp }
      if !f.levels then (x, .ok (.ok t))
      else andThen (x.desc f.leveldesc) fun x d =>
        match d with
        | some d => if d.precision then (x, .ok (.error va)) else (x, .ok (.ok { t with lod := some d }))
        | none => (x, .ok (.error f.leveldesc))

/-! ### The level (R469) -/

def two (w : Nat) : Val := Val.ofInt w

/-- R469: the squared length of a gradient in level-0 texels. -/
def gradSq (w h : Nat) (gu gv : Word) : Word :=
  let p := f32 (toF32 .rne ((f32 gu).mul (two w)))
  let q := f32 (toF32 .rne ((f32 gv).mul (two h)))
  toF32 .rne (sumVals .rne [p.mul p, f32 (toF32 .rne (q.mul q))])

/-- R469: λ from two gradients, a NaN taken as +∞ (for what QLOD writes: log 76). -/
def lambdaOf (w h : Nat) (gx gy : Word × Word) : Word :=
  let m := toF32 .rne (maxNumber (f32 (gradSq w h gx.1 gx.2)) (f32 (gradSq w h gy.1 gy.2)))
  let l := toF32 .rne ((f32 (vtrans 4 m)).mul (.fin false 1 (-1)))
  if (f32 l).isNan then 0x7F800000#32 else l

/-- R469: the implicit gradients of a thread, from the neighbours of its quad. -/
def quadGrad (g : Group) (a t k : Nat) : Word × Word :=
  let n := t / 4 * 4 + (t % 4) ^^^ k
  let d (r : Nat) : Word := if g.live.getLsbD n then f32Sub (g.regs.vget (a + r) n) (g.regs.vget (a + r) t) else 0
  (d 0, d 1)

/-- R469: the wanted level and, in 256ths, the level fraction. -/
def wanted (filter nlev : Nat) (lam : Word) : Nat × Nat :=
  let top : Int := (nlev : Int) - 1
  match f32 lam with
  | .nan => (nlev - 1, 0)
  | .inf s => (if s then 0 else nlev - 1, 0)
  | v =>
    if filter ≠ 2 then ((clampInt 0 top ((sumVals .rne [v, .fin false 1 (-1)]).toInt .rdn)).toNat, 0)
    else
      let w := clampInt 0 top (v.toInt .rdn)
      let f := ((sumVals .rne [v, Val.ofInt (-w)]).mul (.fin false 1 8)).toInt .rdn
      (w.toNat, (clampInt 0 255 f).toNat)

/-! ### Coordinates (R469) -/

/-- The texel column or row at a normalized coordinate of a level of size `n`, and the fraction in 256ths; a NaN lies outside. An infinite
one under wrap has no stated texel (log 32). -/
def axis (seed address n : Nat) (half : Bool) (c : Val) : Int × Nat :=
  match c with
  | .nan => (-2, 0)
  | .inf s => (if address = 1 then Config.freeNat seed else if s then -2 else (n : Int) + 1, 0)
  | v =>
    let x := sumVals .rne [v.mul (two n), if half then .fin true 1 (-1) else .fin false 0 0]
    let i := x.toInt .rdn
    (i, (((sumVals .rne [x, Val.ofInt (-i)]).mul (.fin false 1 8)).toInt .rdn).toNat)

/-- R469: the address mode applied to an index. -/
def inLevel (address n : Nat) (i : Int) : Option Nat :=
  if 0 ≤ i && i < n then some i.toNat
  else match address with
    | 0 => some (clampInt 0 ((n : Int) - 1) i).toNat
    | 1 => some (i % n).toNat
    | _ => none

/-- The texels around a point of a level, in the order t00, t10, t01, t11, or the nearest one, with the fractions. -/
def Tex.around (t : Tex) (seed lv : Nat) (bilinear : Bool) (u v : Word) : List (Option Texel) × Nat × Nat :=
  let f := t.surf
  let w := f.levelW lv
  let h := f.levelH lv
  let nan := (f32 u).isNan || (f32 v).isNan
  let x := axis seed f.address w bilinear (f32 u)
  let y := axis (seed + 1) f.address h bilinear (f32 v)
  let at_ (i j : Int) : Option Texel :=
    if nan then none
    else match inLevel f.address w i, inLevel f.address h j with | some a, some b => some { lv := lv, x := a, y := b } | _, _ => none
  if bilinear then ([at_ x.1 y.1, at_ (x.1 + 1) y.1, at_ x.1 (y.1 + 1), at_ (x.1 + 1) (y.1 + 1)], x.2, y.2)
  else ([at_ x.1 y.1], 0, 0)

def lerp (a b : Word) (f : Nat) : Word := toF32 .rne (sumVals .rne [(f32 (f32Sub b a)).mul (.fin false f (-8)), f32 a])
def lerp4 (a b : List Word) (f : Nat) : List Word := (List.range 4).map fun i => lerp ((a[i]?).getD 0) ((b[i]?).getD 0) f

/-- R469: the filtered value of the texels around a point. -/
def filtered (l : List (List Word)) (fx fy : Nat) : List Word :=
  match l with
  | [a, b, c, d] => lerp4 (lerp4 a b fx) (lerp4 c d fx) fy
  | a :: _ => a
  | [] => zero4

/-! ### The reading instructions (R469, R470) -/

def somes (l : List (Option Texel)) : List Texel := l.filterMap id

/-- R228: the level that is read: the choice on a surface with levels, level 0 with an empty status otherwise. -/
def Rd.level (x : Rd) (t : Tex) (w : Nat) (foot : Nat → List Texel) : Rd × Res Choice :=
  match t.lod with
  | none => (x, .ok { level := some 0, status := 0 })
  | some d => x.choose d w fun lv => ((foot lv).map fun a => t.page a.lv a.x a.y).eraseDups

def consentBit : Word := 0x800#32

def compWords (d t : Nat) (comps : List Word) (status : Word) : List (Nat × Word) :=
  ((List.range 4).map fun i => (128 * (d + i) + t, (comps[i]?).getD 0)) ++ [(128 * (d + 4) + t, status)]

def accBad (t : Nat) (addr : DWord) (acc : Acc) : ThreadOut := { bad := some { t := t, addr := addr, acc := acc } }

/-- The texels that a thread reads at the level it uses, and what it makes of them. -/
structure Plan where
  foot : List (Option Texel)
  value : List (List Word) → List Word

/-- R103, R228, R470: one thread: its level, consent and texels. -/
def Rd.thread (x : Rd) (t : Tex) (d th w : Nat) (foot : Nat → List Texel) (plan : Nat → Plan) : Rd × ThreadOut :=
  match x.level t w foot with
  | (x, .acc a acc) => (x, accBad th a acc)
  | (x, .ok ch) => match ch.level with
    | none => (x, { words := compWords d th zero4 ch.status, status := ch.status, wants := ch.wants })
    | some lv =>
      let p := plan lv
      match x.consent t (somes p.foot) with
      | (x, .acc a acc) => (x, accBad th a acc)
      | (x, .ok false) =>
        (x, { words := compWords d th zero4 (ch.status ||| consentBit), status := ch.status ||| consentBit, wants := ch.wants })
      | (x, .ok true) => match x.texels t p.foot with
        | (x, .acc a acc) => (x, accBad th a acc)
        | (x, .ok l) => (x, { words := compWords d th (p.value l) ch.status, status := ch.status, wants := ch.wants })

/-- R468, R472: a TEX instruction that reads. -/
def texInstr (sh : Sheet) (f : F3) (s : State) (per : Env → Tex → Nat → Rd → Rd × ThreadOut) : Outcome :=
  withF3 sh f s fun e s =>
    let ts := bitsOf (e.g.pred f.pm.toNat)
    let va := e.g.regs.sget64 (regOf f.b)
    if ts = [] then s.advance e.gid
    else match (e.texRd s).tex e va with
      | (x, .acc a acc) => (x.s.countFree e.gid 12).finishReads e none (ts.map fun t => accBad t a acc)
      | (x, .ok (.error a)) => x.s.badDesc e (maskOf ts) a
      | (x, .ok (.ok t)) => match eachThread x (fun x th => per e t th { x with s := x.s.skip 16 }) ts with
        | (x, outs) => e.heldOr s 0 x (x.s.outLines e t.lod outs) fun s => s.finishReads e t.lod outs

/-- R469: the texels that a sample's footprint holds at a level: with trilinear both levels at the wanted one. -/
def Tex.sampleFoot (t : Tex) (seed w : Nat) (u v : Word) (lv : Nat) : List Texel :=
  let bil := t.surf.filter ≠ 0
  somes (t.around seed lv bil u v).1 ++
    if t.surf.filter = 2 && lv = w && lv + 1 < t.nlev then somes (t.around seed (lv + 1) bil u v).1 else []

/-- R469: how a sample filters at the level it uses. -/
def Tex.samplePlan (t : Tex) (seed w frac : Nat) (u v : Word) (lv : Nat) : Plan :=
  let bil := t.surf.filter ≠ 0
  let a := t.around seed lv bil u v
  if t.surf.filter = 2 && lv = w && lv + 1 < t.nlev then
    let b := t.around seed (lv + 1) bil u v
    { foot := a.1 ++ b.1, value := fun l => lerp4 (filtered (l.take 4) a.2.1 a.2.2) (filtered (l.drop 4) b.2.1 b.2.2) frac }
  else { foot := a.1, value := fun l => filtered l a.2.1 a.2.2 }

/-- A filtered sample at a λ. -/
def sampleAt (f : F3) (e : Env) (t : Tex) (th : Nat) (lam : Word) (x : Rd) : Rd × ThreadOut :=
  let u := e.g.regs.vget (regOf f.a) th
  let v := e.g.regs.vget (regOf f.a + 1) th
  let w := wanted t.surf.filter t.nlev lam
  let seed := x.s.freeCtr - 16
  x.thread t (regOf f.d) th w.1 (t.sampleFoot seed w.1 u v) (t.samplePlan seed w.1 w.2 u v)

/-- R469: the implicit λ of a thread. -/
def implicitLambda (f : F3) (e : Env) (t : Tex) (th : Nat) : Word :=
  lambdaOf t.surf.width t.surf.height (quadGrad e.g (regOf f.a) th 1) (quadGrad e.g (regOf f.a) th 2)

/-- SAMPLE (R469). -/
def execSample (f : F3) (s : State) : Outcome :=
  texInstr (texSheet (.dst true false 5 4) (vReg 2 2) 0 f) f s fun e t th x => sampleAt f e t th (implicitLambda f e t th) x
/-- SAMPLEL (R469): a NaN λ is taken as +∞. -/
def execSamplel (f : F3) (s : State) : Outcome :=
  texInstr (texSheet (.dst true false 5 4) (vReg 3 4) 0 f) f s fun e t th x =>
    let l := e.g.regs.vget (regOf f.a + 2) th
    sampleAt f e t th (if (f32 l).isNan then 0x7F800000#32 else l) x
/-- SAMPLEG (R469). -/
def execSampleg (f : F3) (s : State) : Outcome :=
  texInstr (texSheet (.dst true false 5 4) (vReg 6 2) 0 f) f s fun e t th x =>
    let r (i : Nat) : Word := e.g.regs.vget (regOf f.a + i) th
    sampleAt f e t th (lambdaOf t.surf.width t.surf.height (r 2, r 3) (r 4, r 5)) x

/-- R470: the texel at a level coarser by `k` than the one its coordinates name. -/
def shifted (lv k : Nat) (x y : Word) : Texel := { lv := lv, x := x.toNat / 2 ^ k, y := y.toNat / 2 ^ k }
def insideLevel (t : Tex) (lv : Nat) (x y : Word) : Bool :=
  0 ≤ x.toInt && x.toInt < t.surf.levelW lv && 0 ≤ y.toInt && y.toInt < t.surf.levelH lv

/-- TFETCH (R470). -/
def execTfetch (f : F3) (s : State) : Outcome :=
  texInstr (texSheet (.dst true false 5 4) (vReg 2 2) 4 f) f s fun e t th x =>
    let w := min (f.x.extractLsb' 0 4).toNat (t.nlev - 1)
    let cx := e.g.regs.vget (regOf f.a) th
    let cy := e.g.regs.vget (regOf f.a + 1) th
    if !insideLevel t w cx cy then (x, { words := compWords (regOf f.d) th zero4 0 })
    else x.thread t (regOf f.d) th w (fun lv => [shifted lv (lv - w) cx cy]) fun lv =>
      { foot := [some (shifted lv (lv - w) cx cy)], value := fun l => (l[0]?).getD zero4 }

/-- GATHER4 (R470). -/
def execGather4 (f : F3) (s : State) : Outcome :=
  texInstr (texSheet (.dst true false 5 4) (vReg 2 2) 2 f) f s fun e t th x =>
    let u := e.g.regs.vget (regOf f.a) th
    let v := e.g.regs.vget (regOf f.a + 1) th
    let w := (wanted t.surf.filter t.nlev (implicitLambda f e t th)).1
    let seed := x.s.freeCtr - 16
    let c (l : List (List Word)) (i : Nat) : Word := ((l[i]?).bind fun (p : List Word) => p[(f.x.extractLsb' 0 2).toNat]?).getD 0
    x.thread t (regOf f.d) th w (fun lv => somes (t.around seed lv true u v).1) fun lv =>
      { foot := (t.around seed lv true u v).1, value := fun l => [c l 2, c l 3, c l 1, c l 0] }

/-- R470: a texel's bytes as words, zero beyond them. -/
def rawWords (l : List Byte) : List Word := (List.range 4).map fun i => word32 ((l.drop (4 * i)).take 4)

/-- One thread of IMGLD. -/
def imgldThread (d : Nat) (t : Tex) (th : Nat) (cx cy : Word) (x : Rd) : Rd × ThreadOut :=
  if !insideLevel t 0 cx cy then (x, { words := compWords d th zero4 0 })
  else match x.level t 0 fun lv => [shifted lv lv cx cy] with
    | (x, .acc a acc) => (x, accBad th a acc)
    | (x, .ok ch) => match ch.level with
      | none => (x, { words := compWords d th zero4 ch.status, status := ch.status, wants := ch.wants })
      | some lv => match x.consent t [shifted lv lv cx cy] with
        | (x, .acc a acc) => (x, accBad th a acc)
        | (x, .ok false) =>
          (x, { words := compWords d th zero4 (ch.status ||| consentBit), status := ch.status ||| consentBit, wants := ch.wants })
        | (x, .ok true) => match x.texelBytes t (shifted lv lv cx cy) with
          | (x, .acc a acc) => (x, accBad th a acc)
          | (x, .ok l) => (x, { words := compWords d th (rawWords l) ch.status, status := ch.status, wants := ch.wants })

/-- IMGLD (R470). -/
def execImgld (f : F3) (s : State) : Outcome :=
  texInstr (texSheet (.dst true false 5 4) (vReg 2 2) 0 f) f s fun e t th x =>
    imgldThread (regOf f.d) t th (e.g.regs.vget (regOf f.a) th) (e.g.regs.vget (regOf f.a + 1) th) x

/-- QLOD (R470): λ and the status word, with no texel read and nothing appended. -/
def execQlod (f : F3) (s : State) : Outcome :=
  texInstr (texSheet (vDst 2) (vReg 2 2) 0 f) f s fun e t th x =>
    let u := e.g.regs.vget (regOf f.a) th
    let v := e.g.regs.vget (regOf f.a + 1) th
    let lam := implicitLambda f e t th
    let w := (wanted t.surf.filter t.nlev lam).1
    match x.level t w (t.sampleFoot (x.s.freeCtr - 16) w u v) with
    | (x, .acc a acc) => (x, accBad th a acc)
    | (x, .ok ch) => (x, { words := [(128 * regOf f.d + th, lam), (128 * (regOf f.d + 1) + th, ch.status)], status := ch.status })

/-! ### IMGST (R471, R93, R94) -/

/-- R93, R94: suppressed writes are counted for the frame. -/
def State.countSuppressed (s : State) (ck n : Nat) : State := s.modCtx ck fun c => { c with suppressed := c.suppressed + n }

/-- The pixel a thread stores. -/
def imgstData (f : F3) (g : Group) (format t : Nat) : List Byte :=
  let w := (List.range 4).map fun i => g.regs.vget (regOf f.d + i) t
  if f.x.getLsbD 0 then (w.flatMap fun v => leBytes 4 v.toNat).take (formatBytes format) else pixelWrite format w

/-- R93, R94, R471: the stores of the threads listed, under the brand rule. -/
def State.imgStore (s : State) (e : Env) (f : F3) (surf : Surf) (l : List (Nat × DWord)) : State :=
  let acc := s.classify e.ck .write 1 l
  let s := (s.afterThreads e.ck acc).countFree e.gid 12
  let ok (a : ThreadAcc) : Bool := match a.acc with | .dev .. | .host _ => true | _ => false
  if surf.brand = e.ctx.brand then
    match s.touchAll e 0 true acc with
    | (s, fills) =>
      let devs := acc.filterMap fun a => match a.acc with | .dev pa _ => some (pa, imgstData f e.g surf.format a.t) | _ => none
      let hosts := acc.filterMap fun a => match a.acc with | .host k => some (k, imgstData f e.g surf.format a.t) | _ => none
      let items := (winners s.freeCtr devs).map fun x => RespItem.texel x.1 x.2
      let hw := winners (s.freeCtr + 128) hosts
      let s := hw.foldl (fun s x => s.texStore e.gid (hostSector x.1) x.1 x.2 (sectorBits (bytesAt s.hostMem (x.1 / 32 * 32) 32)) fun s => s.writeHost x.1 x.2) s
      ((s.skip 256).issueItems e.gid false { items := items, fills := fills }).settle e acc none
  else
    let s := s.countSuppressed e.ck (acc.filter ok).length
    s.settle e (if e.ctx.strict then acc.map fun a => if ok a then { a with acc := .stop causeAccess none } else a else acc) none

/-- IMGST (R471). -/
def execImgst (f : F3) (s : State) : Outcome :=
  withF3 (texSheet (vReg 4 4) (vReg 2 2) 1 f) f s fun e s =>
    let ts := bitsOf (e.g.pred f.pm.toNat)
    let va := e.g.regs.sget64 (regOf f.b)
    if ts = [] then s.advance e.gid
    else match (e.texRd s).surf va with
      | (x, .acc a acc) => (x.s.countFree e.gid 12).finishReads e none (ts.map fun t => accBad t a acc)
      | (x, .ok none) => x.s.badDesc e (maskOf ts) va
      | (x, .ok (some surf)) =>
        let t : Tex := { surf := surf, lod := none, brand := e.ctx.brand, grants := [] }
        if surf.levels || surf.capture then x.s.badDesc e (maskOf ts) va
        else e.heldOr s 0 x [] fun s =>
          let co (th : Nat) : Word × Word := (e.g.regs.vget (regOf f.a) th, e.g.regs.vget (regOf f.a + 1) th)
          s.imgStore e f surf ((ts.filter fun th => insideLevel t 0 (co th).1 (co th).2).map fun th =>
            (th, t.addr 0 (co th).1.toNat (co th).2.toNat))

end Sys2Proof.Machine
end

