-- ==== Sys2Proof/Machine/Stitcher.lean ====
section
/-! DEFINITION. The Stitcher: consent grants, ownership maps, presents, latch points and scanouts (R34, R90-R112). -/
namespace Sys2Proof.Machine

/-! ### GRANT (R100-R102) -/

/-- R100: the fields of a GRANT. -/
def grantOf (c : Cmd) : Grant :=
  { rights := BitVec.ofNat 2 (c.at 17 1), grantor := BitVec.ofNat 16 (c.at 22 2), grantee := BitVec.ofNat 16 (c.at 24 2), kind := c.at 26 1
    out := c.at 27 1, x0 := c.at 28 2, y0 := c.at 30 2, x1 := c.at 32 2, y1 := c.at 34 2 }

def grantReserved (c : Cmd) : Bool := c.at 17 1 < 4 && zeroAt c.bytes 36 92

/-- R101: whether the fields are legal. OUTNUM is checked whatever the KIND (log 94). -/
def State.grantOk (s : State) (part : Nat) (g : Grant) : Bool :=
  g.kind ≤ 1 && g.out ≤ 3 && g.grantor ≠ g.grantee && brandLegal g.grantor.toNat && brandLegal g.grantee.toNat && g.x0 < g.x1 && g.y0 < g.y1
    && (g.kind = 0 || (s.out g.out).part = part)

/-- R101, R102: the slot's new contents, its generation, and what launches of frames under way go on to see. -/
def State.setGrant (s : State) (part slot : Nat) (g : Option Grant) : State :=
  let frames := (s.ctxs.filter fun e => partOfCtx e.1 = part).map fun e => (e.1, e.2.frame)
  s.modPart part fun p =>
    { p with grants := (match g with | some g => kset p.grants slot g | none => kdel p.grants slot)
             grantGens := kset p.grantGens slot ((kget p.grantGens slot).getD 0 + 1)
             grantLog := p.grantLog ++ [{ slot := slot, before := kget p.grants slot, after := g, frames := frames }] }

/-- A GRANT of one action, with what the slot must be and whether it is free afterwards. Its fields are checked whatever the action (R101). -/
def grantCommand (sel : Nat → Bool) (occupied withdraw : Bool) (fn ctx : Nat) (s : State) : Outcome :=
  asCommand 9 2 (some 6) (fun c => sel (c.at 16 1)) grantReserved fn ctx s fun c s =>
    let slot := c.at 18 2
    let p := s.part c.part
    let g := grantOf c
    if c.at 16 1 > 2 || slot > 255 || c.at 20 2 ≠ ((kget p.grantGens slot).getD 0).toNat || (kget p.grants slot).isSome ≠ occupied
      || !s.grantOk c.part g then s.refuse c 4 []
    else (s.setGrant c.part slot (if withdraw then none else some g)).done c

/-- GRANT_CREATE (R101); an ACTION out of range is refused here. -/
def execGrantCreate (fn ctx : Nat) (s : State) : Outcome := grantCommand (fun a => a = 0 || a > 2) false false fn ctx s
/-- GRANT_CHANGE (R101). -/
def execGrantChange (fn ctx : Nat) (s : State) : Outcome := grantCommand (· = 1) true false fn ctx s
/-- GRANT_WITHDRAW (R101). -/
def execGrantWithdraw (fn ctx : Nat) (s : State) : Outcome := grantCommand (· = 2) true true fn ctx s

/-! ### OWNMAP (R95-R99, R104) -/

/-- R96: tiles of an active extent. -/
def tilesOf (n : Nat) : Nat := (n + 15) / 16
/-- The key of a tile entry. -/
def mapKey (tx ty : Nat) : Nat := 1024 * ty + tx

def ownReserved (c : Cmd) : Bool :=
  zeroAt c.bytes 19 1 && zeroAt c.bytes 64 64 && (c.at 16 1 ≠ 3 || (zeroAt c.bytes 46 2 && zeroAt c.bytes 56 8))

/-- An OWNMAP of action 0, 1 or 3, checked as R98 says; `body` answers the write or the status of its refusal. -/
def ownCommand (sel : Nat → Bool) (fn ctx : Nat) (s : State) (body : Cmd → Out → State → State × Except Nat MapWrite) : Outcome :=
  asCommand 10 2 (some 6) (fun c => sel (c.at 16 1)) ownReserved fn ctx s fun c s =>
    let n := c.at 17 1
    if c.at 16 1 > 3 || n > 3 then s.refuse c 4 []
    else if (s.out n).part ≠ c.part then s.refuse c 3 []
    else match body c (s.out n) s with
      | (s, .error st) => s.refuse c st []
      | (s, .ok w) => (s.modOut n fun o => { o with pendingMaps := o.pendingMaps ++ [w] }).done c

/-- R96, R98: whether a tile entry is legal. -/
def tileLegal (e : Word) : Bool :=
  e.extractLsb' 16 15 = 0 && if e.getLsbD 31 then e.extractLsb' 0 16 < 4096#16 else e.extractLsb' 0 16 < 0xFFF0#16

/-- Elements of `k` bytes. -/
def unpack (k : Nat) (l : List Byte) : List Nat := (List.range (l.length / k)).map fun i => field l (k * i) k

/-- OWNMAP_TILES (R97, R98); an ACTION out of range is refused here. -/
def execOwnmapTiles (fn ctx : Nat) (s : State) : Outcome :=
  ownCommand (fun a => a = 0 || a > 3) fn ctx s fun c o s =>
    let x0 := c.at 20 2
    let y0 := c.at 22 2
    let w := c.at 24 2
    let h := c.at 26 2
    if c.at 18 1 > 1 || x0 + w > tilesOf o.cfg.hactive || y0 + h > tilesOf o.cfg.vactive then (s, .error 4)
    else match s.readVirt c.ck (some c.tag) (c.addr 32) (4 * w * h) with
      | (s, .bytes l) =>
        let es := (unpack 4 l).map (BitVec.ofNat 32)
        (s, if es.all tileLegal then .ok (.tiles (c.at 18 1 = 1) x0 y0 w h es) else .error 4)
      | (s, _) => (s, .error 3)

/-- OWNMAP_BLOCKS (R97, R98). -/
def execOwnmapBlocks (fn ctx : Nat) (s : State) : Outcome :=
  ownCommand (· = 1) fn ctx s fun c _ s =>
    let first := c.at 20 2
    let n := c.at 24 2
    if c.at 18 1 > 1 || first + n > 4096 then (s, .error 4)
    else match s.readVirt c.ck (some c.tag) (c.addr 32) (512 * n) with
      | (s, .bytes l) =>
        let bs := unpack 2 l
        (s, if bs.all (· < 0xFFF0) then .ok (.blocks (c.at 18 1 = 1) first (bs.map (BitVec.ofNat 16))) else .error 4)
      | (s, _) => (s, .error 3)

/-- R104: the fields of an effect region. -/
def regionOf (c : Cmd) : Region :=
  { effect := c.at 41 1, kernel := c.at 42 1, amount := c.at 43 1, front := BitVec.ofNat 16 (c.at 44 2)
    x0 := c.at 48 2, y0 := c.at 50 2, x1 := c.at 52 2, y1 := c.at 54 2 }

/-- OWNMAP_REGION (R104): the rectangle lies within the active area (log 40). -/
def execOwnmapRegion (fn ctx : Nat) (s : State) : Outcome :=
  ownCommand (· = 3) fn ctx s fun c o s =>
    let r := regionOf c
    (s, if c.at 40 1 > 15 || r.effect > 3 || r.kernel > 3 || r.x1 > o.cfg.hactive || r.y1 > o.cfg.vactive then .error 4 else .ok (.region (c.at 40 1) r))

/-- R95: the kind-1 grants of an output are gone, for the frames under way too. -/
def Part.dropOutGrants (p : Part) (out : Nat) : Part :=
  let keep (g : Grant) : Bool := !(g.kind = 1 && g.out = out)
  { p with grants := p.grants.filter fun e => keep e.2
           grantLog := p.grantLog.map fun c => { c with before := c.before.filter keep, after := c.after.filter keep } }

/-- R95: the output is the partition's at once, and the entries that wait are retired; its map, its regions and the frames it reads go with the
next latch point (R99, log 40). Capture entries go without an event, and event 0x11 of an entry that no scanout has read has the count of the last
scanout (log 93). -/
def State.assignOut (s : State) (n part : Nat) : State :=
  let o := s.out n
  let s := o.shows.foldl (fun s e => s.outEvent 0x11 e.ctx e.tag e.gen (outData n 0 (o.scan - 1))) s
  let s := s.modOut n fun o => { o with part := part, shows := [], captures := [], pendingMaps := o.pendingMaps ++ [.assign] }
  { s with parts := kmapAll s.parts fun _ p => p.dropOutGrants n }

/-- OWNMAP_ASSIGN (R95, R98). -/
def execOwnmapAssign (fn ctx : Nat) (s : State) : Outcome :=
  asCommand 10 2 (some 6) (fun c => c.at 16 1 = 2) ownReserved fn ctx s fun c s =>
    if fn ≠ 0 then s.refuse c 3 []
    else if c.at 17 1 > 3 || !partNumbers.contains (c.at 28 4) then s.refuse c 4 []
    else (s.assignOut (c.at 17 1) (c.at 28 4)).done c

/-! ### PRESENT (R107, R108) -/

/-- R106: whether a surface may take a capture of an output. -/
def captureOk (o : Out) (n : Nat) (f : Surf) : Bool :=
  f.capture && f.out = n && f.vx0 = 0 && f.vy0 = 0 && formatBytes f.format = 4 && f.width = o.cfg.hactive && f.height = o.cfg.vactive

/-- R107, log 40: the status of a PRESENT's refusal once its descriptor is read, or 0. -/
def State.presentStatus (s : State) (c : Cmd) (l : List Byte) : Nat :=
  let f := Surf.parse l
  let n := c.at 24 1
  let bad := !s.surfOk l || f.brand ≠ (s.ctx c.ck).brand || c.at 26 1 = 0 || c.at 26 1 > 8 || c.at 25 1 > 1
    || (c.at 25 1 = 1 && !captureOk (s.out n) n f)
  if bad then 4 else 0

def presentReserved (c : Cmd) : Bool := zeroAt c.bytes 27 1 && zeroAt c.bytes 36 28

/-- R108: the entries of a context's queue for an output. -/
def Out.queued (o : Out) (ck : Nat) (capture : Bool) : List Present := (if capture then o.captures else o.shows).filter fun p => p.ctx = ck

def Out.push (o : Out) (p : Present) : Out :=
  if p.capture then { o with captures := o.captures ++ [p] } else { o with shows := o.shows ++ [p] }

/-- R108: a PRESENT that holds its queue goes on when there is room. When the output has meanwhile been given to another partition it is refused
(log 40). -/
def State.retryPresent (s : State) (ck : Nat) (capture : Bool) : State :=
  match (s.queue ck).hold with
  | some (.present p seq) =>
    if p.capture ≠ capture then s
    else
      let free (s : State) : State := s.modQueue ck fun q => { q with hold := none }
      if (s.out p.out).part ≠ partOfCtx ck then
        let s := (free s).modQueue ck fun q => { q with opened := q.opened.filter fun o => o.seq ≠ seq }
        s.log (fnOfPart (partOfCtx ck)) 2 (numOfCtx ck) p.gen p.tag [3]
      else if ((s.out p.out).queued ck capture).length ≥ 4 then s
      else ((free s).modOut p.out fun o => o.push p).completeCmd ck seq
  | _ => s

/-- R94, R102: a PRESENT ends its context's frame; the number has 32 bits. -/
def State.endFrame (s : State) (c : Cmd) : State :=
  let x := s.ctx c.ck
  let s := if x.suppressed = 0 then s else s.outEvent 0x13 c.ck c.tag c.gen (leBytes 4 x.suppressed ++ leBytes 4 x.frame)
  s.modCtx c.ck fun x => { x with frame := (x.frame + 1) % 2 ^ 32, suppressed := 0 }

/-- A PRESENT that passed its checks. -/
def State.present (s : State) (c : Cmd) (p : Present) : State :=
  let s := s.endFrame c
  if ((s.out p.out).queued c.ck p.capture).length < 4 then (s.modOut p.out fun o => o.push p).done c
  else (s.openCmd c).modQueue c.ck fun q => { q with hold := some (.present p c.seq) }

/-- A PRESENT of one kind (R107). -/
def presentCommand (sel : Nat → Bool) (capture : Bool) (fn ctx : Nat) (s : State) : Outcome :=
  let ck := ctxKey (partOfFn fn) ctx
  if (s.queue ck).hold.isSome then .next (if (s.part (partOfFn fn)).paused then s else s.retryPresent ck capture)
  else asCommand 5 1 (some 3) (fun c => sel (c.at 25 1)) presentReserved fn ctx s fun c s =>
    let n := c.at 24 1
    if n > 3 then s.refuse c 4 []
    else if (s.out n).part ≠ c.part then s.refuse c 3 []
    else if c.at 16 8 % 64 ≠ 0 then s.refuse c 4 []
    else match s.readVirt c.ck (some c.tag) (c.addr 16) 64 with
      | (s, .bytes l) =>
        let st := s.presentStatus c l
        if st ≠ 0 then s.refuse c st []
        else s.present c { ctx := c.ck, surf := Surf.parse l, out := n, capture := c.at 25 1 = 1, ratediv := c.at 26 1, ox := c.at 28 2, oy := c.at 30 2
                           fill := BitVec.ofNat 32 (c.at 32 4), stamp := (s.ctx c.ck).frame, tag := c.tag, gen := c.gen, need := c.seq }
      | (s, _) => s.refuse c 3 []

/-- PRESENT_SHOW (R107); a KIND out of range is refused here. -/
def execPresentShow (fn ctx : Nat) (s : State) : Outcome := presentCommand (· ≠ 1) false fn ctx s
/-- PRESENT_CAPTURE (R106, R107). -/
def execPresentCapture (fn ctx : Nat) (s : State) : Outcome := presentCommand (· = 1) true fn ctx s

/-! ### The latch point (R34, R99, R109) -/

/-- R95: both planes are of brand 0x0000, and no region has an effect. -/
def Out.clearMap (o : Out) : Out := { o with front := [], back := [], regions := [] }

/-- R34: an accepted OUTSET takes effect. -/
def State.applyOutset (s : State) (n : Nat) : State :=
  match (s.out n).pending with
  | none => s
  | some c =>
    let old := (s.out n).cfg
    let s := if old.en && !c.en then s.retirePresents n (fun _ => true) true else s
    s.modOut n fun o =>
      let o := { o with cfg := c, pending := none, scan := if c.en && !old.en then 0 else o.scan }
      if old.en && (c.hactive ≠ old.hactive || c.vactive ≠ old.vactive) then o.clearMap else o

/-- R99: one OWNMAP applies. -/
def Out.applyMap (o : Out) : MapWrite → Out
  | .assign => o.clearMap
  | .tiles back x0 y0 w _ es =>
    let put (m : Sparse 32) : Sparse 32 := ssets m (es.zipIdx.map fun e => (mapKey (x0 + e.2 % w) (y0 + e.2 / w), e.1))
    if back then { o with back := put o.back } else { o with front := put o.front }
  | .blocks back first bs =>
    let put (m : Sparse 16) : Sparse 16 := ssets m (bs.zipIdx.map fun e => (256 * first + e.2, e.1))
    if back then { o with poolBack := put o.poolBack } else { o with poolFront := put o.poolFront }
  | .region slot r => { o with regions := kset o.regions slot r }

/-- R95, R99: the OWNMAPs that completed before the latch point apply together. -/
def State.applyMaps (s : State) (n : Nat) : State :=
  let ws := (s.out n).pendingMaps
  let o := s.out n
  let s := if ws.contains .assign then
      (o.latched.foldl (fun s l => s.outEvent 0x11 l.p.ctx l.p.tag l.p.gen (outData n 0 (o.scan - 1))) s).modOut n fun o => { o with latched := [] }
    else s
  s.modOut n fun o => { ws.foldl Out.applyMap o with pendingMaps := [] }

/-- R108: whether every command fetched before an entry's PRESENT has completed. -/
def State.finished (s : State) (p : Present) : Bool := !(s.queue p.ctx).opened.any fun o => o.seq < p.need

/-- R109: a context latches its newest finished frame when it has none, or once the divisor of the one it has is reached (log 40). -/
def State.latchShow (s : State) (n ck : Nat) : State :=
  let o := s.out n
  let fin := (o.queued ck false).filter s.finished
  let cur := o.latched.find? fun l => l.p.ctx = ck
  let eligible := match cur with | none => true | some l => l.scan + l.p.ratediv ≤ o.scan
  match fin.getLast? with
  | none => s
  | some p =>
    if !eligible then s
    else
      let s := (fin.filter fun q => q.need ≠ p.need).foldl (fun s q => s.outEvent 0x12 ck q.tag q.gen (outData n 0 o.scan)) s
      let s := match cur with | some l => s.outEvent 0x11 ck l.p.tag l.p.gen (outData n 0 (o.scan - 1)) | none => s
      s.modOut n fun o =>
        { o with shows := o.shows.filter fun q => q.ctx ≠ ck || !fin.any fun f => f.need = q.need
                 latched := (o.latched.filter fun l => l.p.ctx ≠ ck) ++ [{ p := p, scan := o.scan, shown := false }] }

/-- R109: a context's oldest finished capture is latched. -/
def State.latchCapture (s : State) (n ck : Nat) : State :=
  match ((s.out n).queued ck true).find? s.finished with
  | none => s
  | some p => s.modOut n fun o => { o with captures := o.captures.filter fun q => q.ctx ≠ ck || q.need ≠ p.need, capturing := o.capturing ++ [p] }

/-- LATCH_POINT (R109): the start of an output's vertical blanking. -/
def execLatchPoint (out : Nat) (s : State) : Outcome :=
  let o := s.out out
  if !s.running || out > 3 || o.latchedNow || !(o.cfg.en || o.pending.isSome) then .next s
  else
    let s := (s.applyOutset out).applyMaps out
    if !(s.out out).cfg.en then .next s
    else
      let s := (kkeys s.ctxs).foldl (fun s ck => (s.latchShow out ck).latchCapture out ck) s
      .next (s.modOut out fun o => { o with latchedNow := true, old := [] })

/-! ### The scanout (R34, R96, R104-R106, R111, R112) -/

/-- R96: the brand that a plane gives a pixel. -/
def ownerIn (plane : Sparse 32) (pool : Sparse 16) (x y : Nat) : BitVec 16 :=
  let e := sget plane (mapKey (x / 16) (y / 16))
  if e.getLsbD 31 then sget pool (256 * (e.extractLsb' 0 12).toNat + 16 * (y % 16) + x % 16) else e.extractLsb' 0 16

def Out.frontAt (o : Out) (x y : Nat) : BitVec 16 := ownerIn o.front o.poolFront x y
def Out.backAt (o : Out) (x y : Nat) : BitVec 16 := ownerIn o.back o.poolBack x y

def Present.coversAt (p : Present) (x y : Nat) : Bool := p.ox ≤ x && x < p.ox + p.surf.width && p.oy ≤ y && y < p.oy + p.surf.height

/-- R105: the frame that gives an owner's pixel: of those that cover it the latest latched, then of the lowest context. -/
def Out.frameAt (o : Out) (owner : BitVec 16) (x y : Nat) : Option Present :=
  if owner = 0 then none
  else
    let l := o.latched.filter fun l => l.p.surf.brand = owner && l.p.coversAt x y
    (l.foldl (fun (b : Option Latched) l => match b with
      | none => some l
      | some c => if c.scan < l.scan || (c.scan = l.scan && l.p.ctx < c.p.ctx) then some l else b) none).map (·.p)

/-- R464, R466: where level 0 of a frame's surface lies, which for one with LEVELS its level descriptor tells; none when that cannot be read. -/
def State.frameBase (s : State) (p : Present) : Option DWord :=
  if !p.surf.levels then some p.surf.base
  else (s.bytesOf (s.access s.freeCtr p.ctx (p.surf.leveldesc + 64#64) .read).1 8).map word64
def Present.pixelVa (p : Present) (base : DWord) (x y : Nat) : DWord := base + BitVec.ofNat 64 (p.surf.texelOff 0 (x - p.ox) (y - p.oy))

/-- R246, R29: whether a scanout must wait for a line of a latched frame. -/
def State.scanWaits (s : State) (o : Out) : Bool :=
  (s.heldLines ≠ [] || s.link.retraining) && o.latched.any fun l => (s.frameBase l.p).any fun base =>
    (List.range l.p.surf.height).any fun y => s.virtHeld l.p.ctx (l.p.pixelVa base l.p.ox (l.p.oy + y)) (l.p.surf.width * formatBytes l.p.surf.format)

/-- The number of the free values of a pixel of a plane. -/
def pixelSeed (x y plane : Nat) : Nat := 16 * (16384 * y + x) + 4 * plane
def pixelSeeds : Nat := 16 * 16384 * 16384

/-- R111: the bytes of a pixel as they are, or as they were before a write during the scanout. -/
def State.pixelBytes (s : State) (o : Out) (seed : Nat) (a : Acc) (n : Nat) : Option (List Byte) :=
  (s.bytesOf a n).map fun now =>
    let place : Nat × Nat := match a with | .dev pa _ => (pa / 32, pa % 32) | .host k => (hostSector k, k % 32) | _ => (0, 0)
    oneOf seed now (now :: (o.old.filter fun e => e.1 = place.1).map fun e => ((leBytes 32 e.2.toNat).drop place.2).take n)

/-- R105: P, as four components; a pixel that cannot be read is free (log 40). -/
def State.pixelOf (s : State) (o : Out) (plane : Nat) (owner : BitVec 16) (x y : Nat) : List Word :=
  match o.frameAt owner x y with
  | none => [o.cfg.bgR, o.cfg.bgG, o.cfg.bgB, o.cfg.bgA]
  | some p =>
    let seed := s.freeCtr + pixelSeed x y plane
    let read := (s.frameBase p).bind fun base =>
      s.pixelBytes o (seed + 3) (s.access s.freeCtr p.ctx (p.pixelVa base x y) .read).1 (formatBytes p.surf.format)
    match read with
    | some l => pixelRead p.surf.format l
    | none => (List.range 4).map fun i => Config.freeWord (seed + i)

/-- R104: the region that applies to a pixel. -/
def Out.regionAt (o : Out) (x y : Nat) : Option Region :=
  (o.regions.find? fun e =>
    let r := e.2
    r.effect ≠ 0 && (r.front = 0 || r.front = o.frontAt x y) && r.x0 ≤ x && x < r.x1 && r.y0 ≤ y && y < r.y1).map (·.2)

/-- R105: the weights of a kernel and the power of two by which their sum is divided. -/
def kernelOf : Nat → List Nat × Nat
  | 0 => ([1, 2, 1], 2)
  | 1 => ([1, 4, 6, 4, 1], 4)
  | 2 => ([1, 6, 15, 20, 15, 6, 1], 6)
  | _ => ([1, 8, 28, 56, 70, 56, 28, 8, 1], 8)

/-- R105: the places of the taps along one axis, clamped to the region. -/
def tapsAt (k lo hi x : Nat) : List Nat :=
  let n := (kernelOf k).1.length
  (List.range n).map fun i => min (max (x + i - n / 2) lo) (hi - 1)

/-- R105: a weighted sum along one axis, in the order of the taps (log 40). -/
def weigh (k : Nat) (l : List Word) : Word :=
  let r := (((kernelOf k).1.zip l).foldl (fun (a : Option Word) e =>
    let t := f32Mul (f32OfInt e.1) e.2
    match a with | none => some t | some v => some (f32Add v t)) none).getD 0
  f32Div r (f32OfInt (2 ^ (kernelOf k).2))

/-- R105: the blurred component of what lies behind. -/
def State.blurAt (s : State) (o : Out) (r : Region) (x y i : Nat) : Word :=
  weigh r.kernel ((tapsAt r.kernel r.y0 r.y1 y).map fun ty =>
    weigh r.kernel ((tapsAt r.kernel r.x0 r.x1 x).map fun tx => ((s.pixelOf o 1 (o.backAt tx ty) tx ty)[i]?).getD 0))

/-- R105: the composed pixel. The alpha of a pixel with an effect is not stated and is free. -/
def State.compose (s : State) (o : Out) (x y : Nat) : List Word :=
  let pf := s.pixelOf o 0 (o.frontAt x y) x y
  let c (l : List Word) (i : Nat) : Word := (l[i]?).getD 0
  let free := Config.freeWord (s.freeCtr + pixelSeed x y 2)
  match o.regionAt x y with
  | none => pf
  | some r =>
    let a := f32Div (f32OfInt r.amount) (f32OfInt 255)
    if r.effect = 3 then ((List.range 3).map fun i => f32Mul (c pf i) a) ++ [free]
    else
      let t := f32Mul (c pf 3) a
      let behind (i : Nat) : Word := if r.effect = 1 then c (s.pixelOf o 1 (o.backAt x y) x y) i else s.blurAt o r x y i
      ((List.range 3).map fun i => f32Add (f32Mul t (c pf i)) (f32Mul (f32Sub 0x3F800000#32 t) (behind i))) ++ [free]

/-- R106: the brands that contribute to a pixel. -/
def Out.brandsAt (o : Out) (x y : Nat) : List (BitVec 16) :=
  o.frontAt x y :: match o.regionAt x y with
    | none => []
    | some r =>
      if r.effect = 3 then []
      else if r.effect = 1 then [o.backAt x y]
      else (tapsAt r.kernel r.y0 r.y1 y).flatMap fun ty => (tapsAt r.kernel r.x0 r.x1 x).map fun tx => o.backAt tx ty

/-! #### The output format (R34) -/

def f32Num (n d : Nat) : Word := toF32 .rne (divVal (Val.ofInt n) (Val.ofInt d))

/-- R34: BT.709 luma and the colour differences, raised by one half (log 40). -/
def toYcc (l : List Word) : List Word :=
  let c (i : Nat) : Word := (l[i]?).getD 0
  let y := f32Add (f32Add (f32Mul (f32Num 2126 10000) (c 0)) (f32Mul (f32Num 7152 10000) (c 1))) (f32Mul (f32Num 722 10000) (c 2))
  [y, f32Add (f32Div (f32Sub (c 2) y) (f32Num 18556 10000)) (f32Num 1 2), f32Add (f32Div (f32Sub (c 0) y) (f32Num 15748 10000)) (f32Num 1 2)]

/-- R34: the pixels whose chroma samples are averaged with a pixel's. -/
def OutCfg.chromaOf (c : OutCfg) (x y : Nat) : List (Nat × Nat) :=
  let xs := if c.colour ≥ 2 then [x / 2 * 2, x / 2 * 2 + 1] else [x]
  let ys := if c.colour = 3 then [y / 2 * 2, y / 2 * 2 + 1] else [y]
  (ys.flatMap fun b => xs.map fun a => (a, b)).filter fun q => q.1 < c.hactive && q.2 < c.vactive

def average (l : List Word) : Word := f32Div (l.foldl f32Add 0) (f32OfInt l.length)

/-- R34: the three components sent for a pixel. -/
def OutCfg.sent (c : OutCfg) (px : Nat → Nat → List Word) (x y : Nat) : List Nat :=
  if c.colour = 0 then ((px x y).take 3).map (unormWrite c.bpc)
  else
    let ch (i : Nat) : Word := average ((c.chromaOf x y).map fun q => ((toYcc (px q.1 q.2))[i]?).getD 0)
    [((toYcc (px x y))[0]?).getD 0, ch 1, ch 2].map (unormWrite c.bpc)

def packSent (l : List Nat) : BitVec 48 := BitVec.ofNat 48 (((l[0]?).getD 0) + 2 ^ 16 * ((l[1]?).getD 0) + 2 ^ 32 * ((l[2]?).getD 0))

/-- The pixels of the active area. -/
def OutCfg.pixels (c : OutCfg) : List (Nat × Nat) := (List.range c.vactive).flatMap fun y => (List.range c.hactive).map fun x => (x, y)
def frameKey (x y : Nat) : Nat := 16384 * y + x

/-! #### Captures (R106) -/

/-- R103, R106: whether a capturer may have a pixel. Every brand that contributes is tested at that pixel, a blur tap's too (log 95). -/
def State.mayCapture (s : State) (p : Present) (o : Out) (x y : Nat) : Bool :=
  let brand := (s.ctx p.ctx).brand
  let gs := s.grantsSeen p.ctx p.stamp
  (o.brandsAt x y).all fun b => b = 0 || b = brand || gs.any fun g => g.allows true p.out b brand x y (x + 1) (y + 1)

/-- A write of the Stitcher with the rights of the context; one that fails is dropped, and a failed walk is logged (R206). -/
def State.stitchWrite (s : State) (ck : Nat) (va : DWord) (l : List Byte) : State :=
  let r := s.access s.freeCtr ck va .write
  let s := s.afterAccess ck va r
  match r.1 with
  | .dev pa _ => s.storeDone pa l
  | .host k => s.writeHost k l
  | _ => s

/-- R106: a capture is written, with event 0x14. -/
def State.writeCapture (s : State) (n : Nat) (o : Out) (px : Nat → Nat → List Word) (p : Present) : State :=
  let may := o.cfg.pixels.map fun q => (q, s.mayCapture p o q.1 q.2)
  let s := may.foldl (fun s e =>
    let x := e.1.1
    let y := e.1.2
    let data := if e.2 then pixelWrite p.surf.format (px x y) else leBytes 4 p.fill.toNat
    let s := s.stitchWrite p.ctx (p.surf.base + BitVec.ofNat 64 (y * p.surf.pitch + 4 * x)) data
    s.stitchWrite p.ctx (p.surf.brandplane + BitVec.ofNat 64 (y * (p.surf.pitch / 2) + 2 * x)) (leBytes 2 (o.frontAt x y).toNat)) s
  s.outEvent 0x14 p.ctx p.tag p.gen (outData n (may.filter fun e => !e.2).length o.scan)

/-- R206: the pages of latched frames whose reads fail in a walk, each once a scanout (log 40). -/
def State.logReads (s : State) (o : Out) : State :=
  let reads := o.cfg.pixels.flatMap fun q =>
    ([o.frontAt q.1 q.2] ++ if o.regions = [] then [] else [o.backAt q.1 q.2]).filterMap fun b =>
      (o.frameAt b q.1 q.2).map fun p => (p.ctx, (match s.frameBase p with | some base => p.pixelVa base q.1 q.2 | none => p.surf.leveldesc + 64#64).toNat / 4096)
  reads.eraseDups.foldl (fun s e =>
    let va := BitVec.ofNat 64 (4096 * e.2)
    s.afterAccess e.1 va (s.access s.freeCtr e.1 va .read)) s

/-- SCANOUT (R105): the pixels that the latched state gives, the captures, and event 0x10 for each frame shown for the first time. It waits for lines
that it cannot read yet. -/
def execScanout (out : Nat) (s : State) : Outcome :=
  let o := s.out out
  if !s.running || out > 3 || !o.latchedNow || s.scanWaits o then .next s
  else
    let px (x y : Nat) : List Word := s.compose o x y
    let frame : Sparse 48 := ssets [] (o.cfg.pixels.map fun q => (frameKey q.1 q.2, packSent (o.cfg.sent px q.1 q.2)))
    let s := (s.logReads o).skip pixelSeeds
    let s := (o.latched.filter fun l => !l.shown).foldl (fun s l => s.outEvent 0x10 l.p.ctx l.p.tag l.p.gen (outData out 0 o.scan)) s
    let s := o.capturing.foldl (fun s p => s.writeCapture out o px p) s
    .next (s.modOut out fun o =>
      { o with frame := frame, capturing := [], latched := o.latched.map fun l => { l with shown := true }, scan := o.scan + 1, latchedNow := false, old := [] })

end Sys2Proof.Machine
end

