-- ==== Sys2Proof/Machine/Package.lean ====
section
/-! DEFINITION. The package: resets and secure boot, power and clocks, the Girth link, hot-plug and the window of a frame's traffic
(R11-R19, R24-R30, R33, R35-R37, R57-R62, R219, R291). -/
namespace Sys2Proof.Machine

/-! ### Images (R57-R60, R62) -/

/-- The bytes of a digest. -/
def digestBytes (d : BitVec 384) : List Byte := leBytes 48 d.toNat

/-- The parts of an image (R58, R59). -/
def imageSvn (img : List Byte) : Nat := field img 12 4
def imageBodyLen (img : List Byte) : Nat := field img 16 8
def imageSigs (img : List Byte) : Nat := field img 80 4
def imageHeader (img : List Byte) : List Byte := img.take 128
def imageBody (img : List Byte) : List Byte := (img.drop 128).take (imageBodyLen img)
def sigBytes : Nat := 17056
def imageSig (img : List Byte) (i : Nat) : List Byte := (img.drop (128 + imageBodyLen img + sigBytes * i)).take sigBytes

/-- R58: whether a header's fields are in range and the image holds what they name. -/
def imageInRange (img : List Byte) : Bool :=
  128 ≤ img.length && field img 0 8 = 0x4B524F5749445242 && field img 8 4 = 1 && imageSvn img ≤ 64 && imageBodyLen img % 4096 = 0
    && imageBodyLen img ≤ 1835008 && field img 24 8 < imageBodyLen img && 1 ≤ imageSigs img && imageSigs img ≤ 4
    && 128 + imageBodyLen img + sigBytes * imageSigs img ≤ img.length
def imageWellFormed (img : List Byte) : Bool := imageInRange img && zeroAt img 84 44
/-- R59: the signature blocks of an image. -/
def imageSigList (img : List Byte) : List (List Byte) := (List.range (imageSigs img)).map (imageSig img)

def Sec.slot (c : Sec) : Nat → KeySlot
  | 0 => c.slot0 | 1 => c.slot1 | 2 => c.slot2 | _ => c.slot3

def Sec.setSlot (c : Sec) (n : Nat) (k : KeySlot) : Sec :=
  match n with
  | 0 => { c with slot0 := k } | 1 => { c with slot1 := k } | 2 => { c with slot2 := k } | _ => { c with slot3 := k }

/-- R62: whether a slot is enrolled, not revoked and usable. -/
def Sec.usable (c : Sec) (novendor : Bool) (n : Nat) : Bool :=
  (c.slot n).enrolled && !(c.slot n).revoked && (n ≠ 0 || (!c.vendorOff && !novendor))

/-- R59, R60: whether a signature block passes every test. -/
def Sec.accepts (c : Sec) (novendor : Bool) (img sig : List Byte) : Bool :=
  let n := field sig 0 4
  let modulus := (sig.drop 16).take 384
  let pk := (sig.drop 400).take 48
  n < 4 && Config.sha384 (modulus ++ pk) = (c.slot n).digest && c.usable novendor n
    && Config.rsaVerify modulus (imageHeader img) ((sig.drop 448).take 384) && Config.slhVerify pk (imageHeader img) ((sig.drop 832).take 16224)
    && (img.drop 32).take 48 = digestBytes (Config.sha384 (imageBody img)) && c.minSvn ≤ imageSvn img

/-- R60: the slot that accepts an image, at its first block that passes. -/
def Sec.verify (c : Sec) (novendor : Bool) (img : List Byte) : Option Nat :=
  if !imageWellFormed img then none
  else ((imageSigList img).find? (c.accepts novendor img)).map fun g => field g 0 4

/-- R70: the fuse state as bytes: ENROLLED and REVOKED of each slot, VENDOROFF, the minimum SVN. -/
def Sec.fuses (c : Sec) : List Byte :=
  (List.range 4).flatMap (fun n => [if (c.slot n).enrolled then 1#8 else 0#8, if (c.slot n).revoked then 1#8 else 0#8])
    ++ [if c.vendorOff then 1#8 else 0#8, BitVec.ofNat 8 c.minSvn]

/-! ### Boot (R35, R37, R57) -/

def Sec.area (c : Sec) (b : Bool) : List Byte := if b then c.flashB else c.flashA

/-- R57: the area that is started. -/
def Sec.choose (c : Sec) (novendor : Bool) : Option (Bool × Nat) :=
  let named := c.selector = 0x0B#8
  match c.verify novendor (c.area named) with
  | some n => some (named, n)
  | none => (c.verify novendor (c.area !named)).map fun n => (!named, n)

def Sec.started (c : Sec) (area : Option Bool) (slot : Nat) (digest : BitVec 384) : Sec :=
  { c with bootFuses := c.fuses, runningB := area, runningSlot := slot, runningDigest := digest, slotDigest := (c.slot slot).digest }

def freeDigest (n : Nat) : BitVec 384 := BitVec.ofNat 384 (leNat ((List.range 12).flatMap fun i => leBytes 4 (Config.freeWord (n + i)).toNat))

/-- R37: the functions that are there after a failed verification. -/
def State.bootFailed (s : State) : State :=
  { s with plat := { s.plat with boot := .failed }, funcs := kmapAll s.funcs fun n f => { f with present := n = 0 } }

/-- R35, R37, R57: the boot ROM looks for firmware and verifies it. What a recovery over PCIe loads is not given: it is some image that a slot
accepts (log 41). A reserved strap holds it there, so that no firmware reports ready (log 86). -/
def State.bootRom (s : State) : State :=
  let nv := s.plat.straps.novendor
  match s.plat.straps.bootsrc.toNat with
  | 0 => match s.sec.choose nv with
    | some (b, n) => { s with sec := s.sec.started (some b) n (Config.sha384 (imageHeader (s.sec.area b) ++ imageBody (s.sec.area b))) }
    | none => s.bootFailed
  | 1 => match ((List.range 4).filter (s.sec.usable nv))[Config.freeNat s.freeCtr % 4]? with
    | some n => { s with sec := s.sec.started none n (freeDigest (s.freeCtr + 1)) }.skip 16
    | none => s.bootFailed
  | _ => { s with plat := { s.plat with boot := .strapError } }

/-! ### Resets (R36) -/

/-- R1, R16: the limit that the Bridle sets: that of the package or its board. -/
def Plat.formLimit (p : Plat) : Nat := if p.t64 then 300 else if p.boardForm then 475 else 420

/-- What a reset leaves of the package: what it is, and what its pins say. -/
def Plat.fresh (p : Plat) : Plat := { t64 := p.t64, boardForm := p.boardForm, powerLimitW := p.formLimit, pwrbrake := p.pwrbrake }

def brakeClock (p : Plat) : Plat := if p.pwrbrake then { p with clock0 := 800, clock1 := 800 } else p

/-- R36, R291: a machine as after a reset that keeps what is not the device's state: the pins, the flash, the fuses and the host, and the
records and retirements of the cold reset's life. -/
def State.resetTo (s : State) (p : Plat) (session : Bool) : State :=
  let c := s.sec
  { State.reset with
    agenda := s.agenda, freeCtr := s.freeCtr, nextId := s.nextId, plat := brakeClock p
    sec := { c with session := session, nonce := none, runningB := none, runningSlot := 0, runningDigest := 0, slotDigest := 0, bootFuses := [] }
    irqs := s.irqs, hostCpl := s.hostCpl, hostMem := s.hostMem, hostAbsent := s.hostAbsent
    outs := kmapAll State.reset.outs fun n o => { o with attached := (s.out n).attached } }

/-- R291: what a self-test retired stays retired over a warm reset, and the error table goes on (R292, log 41). -/
def State.keepRetired (s old : State) : State :=
  { old.retiredFrames.foldl (fun s f => s.setFot f 0x9F#8) s with
    errTable := old.errTable, errNext := old.errNext, retiredRows := old.retiredRows, retiredWays := old.retiredWays, retiredFrames := old.retiredFrames
    cores := kmapAll s.cores fun n c => { c with retired := (old.core n).retired } }

/-- COLD_RESET (R11, R35, R36): PWROK rises. A package held by THERMTRIP_N stays so until power is removed (R17). -/
def execColdReset (straps : Straps) (presenceLow reliable : Bool) (s : State) : Outcome :=
  if s.plat.thermtrip then .next s
  else .next ((s.resetTo { s.plat.fresh with reliable := reliable, straps := straps, presenceLow := presenceLow } presenceLow).bootRom)

/-- WARM_RESET (R24, R36). -/
def execWarmReset (s : State) : Outcome :=
  if !s.running then .next s
  else
    let p := s.plat
    .next (((s.resetTo { p.fresh with reliable := p.reliable, straps := p.straps, presenceLow := p.presenceLow } false).keepRetired s).bootRom)

/-- R57, R70: the boot ROM has looked for firmware since the reset; in `State.reset` it has still to. -/
def State.bootLooked (s : State) : State := if s.sec.bootFuses = [] then s.bootRom else s

/-- FIRMWARE_READY (R37, R57): firmware that the boot ROM has verified reports ready. -/
def execFirmwareReady (s : State) : Outcome :=
  if s.running && s.plat.boot = .booting then
    .next (if s.bootLooked.plat.boot = .booting then { s.bootLooked with plat := { s.bootLooked.plat with boot := .ready } } else s.bootLooked)
  else .next s

/-- POWER_REMOVAL (R17, R19, R36): what the device held is gone with the next cold reset. -/
def execPowerRemoval (s : State) : Outcome :=
  .next { s with plat := { s.plat with powered := false, heldInReset := false, thermtrip := false } }

/-! ### Power and clocks (R14-R18) -/

/-- R14: a core clock that the firmware may set, in MHz. -/
def clockLegal (mhz : Nat) : Bool := 800 ≤ mhz && mhz ≤ 2100 && mhz % 25 = 0
def Plat.setClock (p : Plat) (die mhz : Nat) : Plat := if die = 0 then { p with clock0 := mhz } else { p with clock1 := mhz }
def Plat.clock (p : Plat) (die : Nat) : Nat := if die = 0 then p.clock0 else p.clock1

/-- PWRBRAKE_ASSERT (R18). -/
def execPwrbrakeAssert (s : State) : Outcome := .next { s with plat := { s.plat with pwrbrake := true, clock0 := 800, clock1 := 800 } }

/-- PWRBRAKE_RELEASE (R18): the firmware resumes control at clocks of its choice. -/
def execPwrbrakeRelease (mhz0 mhz1 : Nat) (s : State) : Outcome :=
  if s.plat.pwrbrake && clockLegal mhz0 && clockLegal mhz1 then .next { s with plat := { s.plat with pwrbrake := false, clock0 := mhz0, clock1 := mhz1 } }
  else .next s

/-- CORE_CLOCK_CHANGE (R14, R18): nothing else of the state changes. -/
def execCoreClockChange (die mhz : Nat) (s : State) : Outcome :=
  if s.running && die < 2 && clockLegal mhz && (!s.plat.pwrbrake || mhz = 800) then .next { s with plat := s.plat.setClock die mhz } else .next s

/-- THERMAL_THROTTLE (R17): a die's clock goes down by steps of 25 MHz, no lower than R14 allows. -/
def execThermalThrottle (die steps : Nat) (s : State) : Outcome :=
  if s.running && die < 2 then .next { s with plat := s.plat.setClock die (max 800 (s.plat.clock die - 25 * steps)) } else .next s

/-- THERMTRIP (R17): every clock stops until power is removed. -/
def execThermtrip (die : Nat) (s : State) : Outcome :=
  if s.plat.powered && die < 2 then .next { s with plat := { s.plat with thermtrip := true, heldInReset := true } } else .next s

/-- R16: lower clocks, as far as R14 lets them go. -/
def Plat.lowers (p : Plat) (mhz0 mhz1 : Nat) : Bool :=
  clockLegal mhz0 && clockLegal mhz1 && mhz0 ≤ p.clock0 && mhz1 ≤ p.clock1
    && (mhz0 < p.clock0 || mhz1 < p.clock1 || (p.clock0 = 800 && p.clock1 = 800))

/-- POWER_LIMIT_EXCEEDED (R16): the firmware lowers the core clocks. -/
def execPowerLimitExceeded (watts mhz0 mhz1 : Nat) (s : State) : Outcome :=
  let p := s.plat
  if s.running && watts > p.powerLimitW && p.lowers mhz0 mhz1 then
    .next { s with plat := { p with clock0 := mhz0, clock1 := mhz1 } }
  else .next s

/-! ### The Girth link (R25-R30) -/

def Link.modDir (l : Link) (dir : Nat) (f : LinkDir → LinkDir) : Link := if dir = 0 then { l with d0 := f l.d0 } else { l with d1 := f l.d1 }

/-- R28: the flits that a sender has sent and that are not acknowledged. -/
def LinkDir.unacked (d : LinkDir) (f : Nat × Nat) : Bool := (d.acked[f.1]?).getD 0 ≤ f.2

/-- R27-R29: a sender sends one flit of a channel: one that goes again, or a new one, which waits while the oldest that the replay buffer holds is not
acknowledged and the buffer is full, so that no flit is lost. -/
def LinkDir.send (d : LinkDir) (chan : Nat) : LinkDir :=
  match d.resend.find? fun f => f.1 = chan with
  | some f => { d with resend := d.resend.erase f }
  | none =>
    if chan > 3 || (d.buffer.length ≥ 512 && (d.buffer.head?).any d.unacked) then d
    else
      let n := (d.nextSeq[chan]?).getD 0
      let held := d.buffer ++ [(chan, n)]
      { d with buffer := held.drop (held.length - 512), nextSeq := d.nextSeq.set chan (n + 1) }

/-- A flit is sent; while the link retrains every sender stalls (R29). -/
def State.linkSend (s : State) (dir chan : Nat) : State :=
  if s.link.retraining || dir > 1 then s else { s with link := s.link.modDir dir fun d => d.send chan }

/-- R28, R29: the receiver acknowledges the flits of a channel below a number. -/
def LinkDir.ack (d : LinkDir) (chan seq : Nat) : LinkDir :=
  if (d.acked[chan]?).getD 0 ≤ seq && seq ≤ (d.nextSeq[chan]?).getD 0 && !d.resend.any fun f => f.1 = chan && f.2 < seq then
    { d with acked := d.acked.set chan seq }
  else d
def State.linkAck (s : State) (dir chan seq : Nat) : State :=
  if s.link.retraining || dir > 1 then s else { s with link := s.link.modDir dir fun d => d.ack chan seq }

/-- R28: the flits of a channel from a number on that the sender holds go again, in the order sent, with those that had still to go again; `now` is
when. -/
def LinkDir.replay (d : LinkDir) (now : DWord) (chan seq : Nat) : LinkDir :=
  { d with resend := (d.resend.filter fun f => f.1 ≠ chan) ++ d.buffer.filter fun f => f.1 = chan && (seq ≤ f.2 || d.resend.contains f)
           replays := (d.replays.filter fun t => (now - t).toNat ≤ bridleHz / 1000000) ++ [now] }

/-- R29: the link retrains; each direction with the lanes that failed. -/
def Link.retrain (l : Link) (lanes0 lanes1 : Nat) : Link :=
  let f (d : LinkDir) (n : Nat) : LinkDir := { d with failedLanes := d.failedLanes + n, replays := [] }
  { l with retraining := true, d0 := f l.d0 lanes0, d1 := f l.d1 lanes1 }

/-- R29: the replays of the link within the last 1 µs. -/
def Link.recent (l : Link) (now : DWord) : Nat := ((l.d0.replays ++ l.d1.replays).filter fun t => (now - t).toNat ≤ bridleHz / 1000000).length

/-- FLIT_CRC_FAIL (R28, R29): of a flit that was sent and is not acknowledged; more than eight replays of the link within 1 µs make it retrain. -/
def execFlitCrcFail (dir chan seq : Nat) (s : State) : Outcome :=
  let d := if dir = 0 then s.link.d0 else s.link.d1
  if s.running && !s.link.retraining && dir < 2 && d.buffer.contains (chan, seq) && d.unacked (chan, seq) then
    let l := s.link.modDir dir fun d => d.replay s.plat.bridleCycles chan seq
    .next { s with link := if l.recent s.plat.bridleCycles > 8 then l.retrain 0 0 else l }
  else .next s

/-- LINK_RETRAIN (R29): with the lanes of each direction that failed. -/
def execLinkRetrain (lanes0 lanes1 : Nat) (s : State) : Outcome :=
  if !s.running || s.link.retraining then .next s else .next { s with link := s.link.retrain lanes0 lanes1 }

/-- R29, R30: a direction after a retraining: spares for at most four lanes, and the flits of every channel go again from the first that is not
acknowledged. -/
def LinkDir.trained (d : LinkDir) (half : Bool) : LinkDir :=
  { d with sparesUsed := min d.failedLanes 4, half := half, resend := d.buffer.filter d.unacked }

/-- R30: more than four failed lanes of one direction make the whole link half as wide. -/
def Link.trained (l : Link) : Link :=
  let half := l.d0.failedLanes > 4 || l.d1.failedLanes > 4
  { l with retraining := false, attempts := 0, d0 := l.d0.trained half, d1 := l.d1.trained half }

/-- LINK_RETRAIN_END (R29, R30): the third failure in a row is a fatal device error, and the link then stays down. -/
def execLinkRetrainEnd (ok : Bool) (s : State) : Outcome :=
  if !s.running || !s.link.retraining || s.link.fatal then .next s
  else if ok then .next { s with link := s.link.trained }
  else
    let s := { s with link := { s.link with attempts := s.link.attempts + 1 } }
    .next (if s.link.attempts ≥ 3 then s.fatalError else s)

/-! ### Hot-plug and the mode of a frame (R33, R219) -/

/-- HOT_PLUG (R33, R85). -/
def execHotPlug (out : Nat) (attached : Bool) (s : State) : Outcome :=
  if out > 3 then .next s
  else
    let s := s.modOut out fun o => { o with attached := attached }
    .next (if s.running then s.logNow 0 8 0xFFFF 0 [BitVec.ofNat 8 out] else s)

/-- R219: the replicas of a frame are gone. -/
def State.dropReplicas (s : State) (frame : Nat) : State :=
  { s with lines := kmapAll s.lines fun k l => if k / 512 = frame then { l with sharers := l.sharers.filter (· ≠ 3) } else l }

def State.setPmode (s : State) (frame : Nat) (on : Bool) : State :=
  if on then s.setFot frame (s.fotEntry frame ||| 0x40#8) else (s.dropReplicas frame).setFot frame (s.fotEntry frame &&& 0xBF#8)

/-- PMODE_WINDOW_END (R219). -/
def execPmodeWindowEnd (frame : Nat) (s : State) : Outcome :=
  let rr := (kget s.frameReads frame).getD 0
  let wc := (kget s.frameWrites frame).getD 0
  let on := (s.fotEntry frame).getLsbD 6
  if !s.running || !s.backed (65536 * frame) then .next s
  else
    let s := { s with frameReads := kdel s.frameReads frame, frameWrites := kdel s.frameWrites frame }
    if !on && rr ≥ 64 && 16 * wc ≤ rr then .next (s.setPmode frame true)
    else if on && (wc ≥ 64 || 4 * wc ≥ rr) then .next (s.setPmode frame false)
    else .next s

end Sys2Proof.Machine
end

