-- ==== Sys2Proof/Machine/Mailbox.lean ====
section
/-! DEFINITION. The management mailbox and its requests (R34, R61-R67, R75, R209, R212-R214, R291, R292). -/
namespace Sys2Proof.Machine

/-! ### Blocks in host memory (R66) -/

/-- R66, R207: PF0's bus addresses are requests without PASID, a host address space of their own (log 15). -/
def busPasid : Nat := 2 ^ 20

/-- R66, log 42: whether a block of host memory can be reached. -/
def State.busOk (s : State) (a : DWord) (n : Nat) : Bool :=
  a.toNat % 8 = 0 && a.toNat + n ≤ 2 ^ 64 && !(s.hostAbsent.any fun e => e.1 = busPasid && n ≠ 0 && a.toNat / 4096 ≤ e.2 && e.2 ≤ (a.toNat + n - 1) / 4096)

def State.mailArg (s : State) : Option (List Byte) :=
  let n := s.mbox.argLen.toNat
  if n ≤ 2 ^ 21 && s.busOk s.mbox.arg n then some (bytesAt s.hostMem (hostKey busPasid s.mbox.arg.toNat) n) else none

/-- R66: a request completes. -/
def State.mailDone (s : State) (status : Nat) (res : List Byte) : State :=
  let cut := res.take s.mbox.resLen.toNat
  { s.writeHost (hostKey busPasid s.mbox.res.toNat) cut with
           mbox := { s.mbox with go := false, stat := BitVec.ofNat 32 status, resOut := BitVec.ofNat 32 res.length } }.signal 0 9

/-- What a request does: the state it leaves with its result, or the status of its refusal. -/
abbrev Mailed := Except Nat (State × List Byte)

/-- One request (R66, R67): its presence rule, its argument block of at least `size` bytes, its meaning, and its result. -/
def asMailbox (code : Nat) (keySlot : Bool) (size : Nat) (s : State) (body : List Byte → State → Mailed) : Outcome :=
  if !(s.running && s.plat.boot = .ready && s.mbox.go && s.mbox.req.toNat = code) then .next s
  else if keySlot && !s.sec.session then .next (s.mailDone 0x10 [])
  else match s.mailArg with
    | none => .next (s.mailDone 0x13 [])
    | some l =>
      if l.length < size then .next (s.mailDone 4 [])
      else match body l s with
        | .error st => .next (s.mailDone st [])
        | .ok (t, res) => if s.busOk s.mbox.res (min res.length s.mbox.resLen.toNat) || res = [] then .next (t.mailDone 0 res) else .next (s.mailDone 0x13 [])

/-! ### Requests of the security block (R63-R65) -/

/-- NONCE (R67): fresh bytes. -/
def execNonce (s : State) : Outcome :=
  asMailbox 0x01 false 0 s fun _ s =>
    let n := freeDigest s.freeCtr
    .ok ({ s.skip 12 with sec := { s.sec with nonce := some n } }, digestBytes n)

/-- R64: whether ENROLL's two signatures over the nonce verify. -/
def enrollVerifies (c : Sec) (l : List Byte) : Bool :=
  match c.nonce with
  | none => false
  | some n =>
    Config.rsaVerify ((l.drop 16).take 384) (digestBytes n) ((l.drop 448).take 384)
      && Config.slhVerify ((l.drop 400).take 48) (digestBytes n) ((l.drop 832).take 16224)

/-- ENROLL (R64). A slot whose REVOKED fuse is blown is not empty, enrolled or not (log 89). -/
def execEnroll (s : State) : Outcome :=
  asMailbox 0x02 true 17056 s fun l s =>
    let n := field l 0 4
    if !zeroAt l 4 12 then .error 5
    else if n = 0 || n > 3 || (s.sec.slot n).enrolled || (s.sec.slot n).revoked then .error 4
    else if !enrollVerifies s.sec l then .error 0x11
    else .ok ({ s with sec := s.sec.setSlot n { digest := Config.sha384 ((l.drop 16).take 384 ++ (l.drop 400).take 48), enrolled := true } }, [])

/-- R64: whether fuses leave a usable slot and a valid image. -/
def Sec.bootable (c : Sec) (novendor : Bool) : Bool :=
  (List.range 4).any (c.usable novendor) && ((c.verify novendor c.flashA).isSome || (c.verify novendor c.flashB).isSome)

/-- R64: new fuses, refused when they would leave nothing to boot. -/
def State.blow (s : State) (c : Sec) : Mailed := if c.bootable s.plat.straps.novendor then .ok ({ s with sec := c }, []) else .error 4

/-- REVOKE (R64). A slot that is not enrolled may be revoked too (log 89). -/
def execRevoke (s : State) : Outcome :=
  asMailbox 0x03 true 4 s fun l s =>
    let n := field l 0 4
    if n > 3 then .error 4 else s.blow (s.sec.setSlot n { s.sec.slot n with revoked := true })

/-- VENDOROFF (R62, R64). -/
def execVendoroff (s : State) : Outcome := asMailbox 0x04 true 0 s fun _ s => s.blow { s.sec with vendorOff := true }

/-- SVNSET (R61, R64): the fuses only rise. -/
def execSvnset (s : State) : Outcome :=
  asMailbox 0x05 true 4 s fun l s =>
    let n := field l 0 4
    if n > 64 || n < s.sec.minSvn then .error 4 else s.blow { s.sec with minSvn := n }

/-- SEAL (R63). -/
def execSeal (s : State) : Outcome := asMailbox 0x06 false 0 s fun _ s => .ok ({ s with sec := { s.sec with session := false } }, [])

/-- R57: a selector that names area A; its value is not given. -/
def freeSelectorA (n : Nat) : Byte := let v : Byte := (Config.freeWord n).setWidth 8; if v = 0x0B#8 then 0 else v

/-- FWSTAGE (R65, R67): the area not booted; after a recovery it is the one that the selector does not name (log 41). Fields out of range are found first,
then reserved bytes, then what does not verify. -/
def execFwstage (s : State) : Outcome :=
  asMailbox 0x07 false 0 s fun l s =>
    let c := s.sec
    if !imageInRange l || (imageSigList l).any (fun g => 3 < field g 0 4) then .error 4
    else if !zeroAt l 84 44 || (imageSigList l).any (fun g => !zeroAt g 4 12) then .error 5
    else if (c.verify s.plat.straps.novendor l).isNone then .error 0x11
    else
      let toB := !(c.runningB.getD (c.selector = 0x0B#8))
      .ok ({ s.skip 1 with sec := if toB then { c with flashB := l, selector := 0x0B#8 } else { c with flashA := l, selector := freeSelectorA s.freeCtr } }, [])

/-! ### Stage 2 and frames (R212, R214) -/

/-- Whether a partition of a request has a stage 2. -/
def hasStage2 (p : Nat) : Bool := p < 24

/-- R212: what an S2INVAL covers is gone, and what parked on it is released. -/
def State.s2Inval (s : State) (part first pages : Nat) : State :=
  (s.dropTlb fun id => id.covered true part first pages).releaseParked
    { ctx := fun ck => partOfCtx ck = part, fault := fun _ ipa => match ipa with | some i => pages = 0 || (first ≤ i && i < first + 4096 * pages) | none => false }

/-- A request that starts when no access that used an old entry is under way (log 5). -/
def whenQuiet (code : Nat) (p : State → Nat → Bool) (s : State) (go : State → Outcome) : Outcome :=
  if s.mbox.req.toNat = code && s.inFlight (p s) then .next s else go s

/-- The partition that a request's argument names. -/
def State.mailPart (s : State) : Nat := match s.mailArg with | some l => field l 0 4 | none => 0

/-- S2ROOT (R204, R212). A root beyond the 46 bits of R201 is out of range (R67). -/
def execS2root (s : State) : Outcome :=
  whenQuiet 0x10 (fun s ck => partOfCtx ck = s.mailPart) s fun s => asMailbox 0x10 false 16 s fun l s =>
    let p := field l 0 4
    let root := field l 8 8
    if !zeroAt l 4 4 then .error 5
    else if !hasStage2 p || root % 4096 ≠ 0 || 2 ^ 46 ≤ root then .error 4
    else .ok ((s.modPart p fun x => { x with s2root := some (BitVec.ofNat 64 root) }).s2Inval p 0 0, [])

/-- S2INVAL (R212). -/
def execS2inval (s : State) : Outcome :=
  whenQuiet 0x11 (fun s ck => partOfCtx ck = s.mailPart) s fun s => asMailbox 0x11 false 16 s fun l s =>
    let p := field l 0 4
    let first := field l 8 8
    if !hasStage2 p || first % 4096 ≠ 0 then .error 4 else .ok (s.s2Inval p first (field l 4 4), [])

/-- R214: a frame changes its owner. What it held, and the values it held before, are gone for every reader. -/
def State.giveFrame (s : State) (frame : Nat) (e : Byte) : State :=
  let s := s.dropOld fun k => k < 2 ^ 60 && k / 2048 = frame
  { s with
    lines := s.lines.filter fun l => l.1 / 512 ≠ frame
    poisoned := s.poisoned.filter fun l => l / 512 ≠ frame
    mem := s.mem.filter fun c => c.1 / 65536 ≠ frame
    cores := kmapAll s.cores fun _ c => { c with l1 := c.l1.filter fun x => x.1 / 2048 ≠ frame } }.setFot frame e

/-- R214: one frame of a FOTSET. -/
def State.fotOne (s : State) (owner flags frame : Nat) : State :=
  let old := s.fotEntry frame
  let bits : Byte := (if flags % 2 = 1 then 0x20#8 else 0) ||| (if flags / 2 % 2 = 1 then 0x40#8 else 0)
  if fotOwner old ≠ owner then s.giveFrame frame (BitVec.ofNat 8 owner ||| bits)
  else
    let s := if old.getLsbD 6 && !bits.getLsbD 6 then s.dropReplicas frame else s
    s.setFot frame ((old &&& 0x9F#8) ||| bits)

/-- R75: the frames that a FOTSET would give a partition anew, and whether it would then have more than its quota. -/
def State.newFrames (s : State) (owner first n : Nat) : Nat := ((List.range n).filter fun i => fotOwner (s.fotEntry (first + i)) ≠ owner).length
def State.overQuota (s : State) (owner first n : Nat) : Bool :=
  s.newFrames owner first n ≠ 0 && s.framesOf owner + s.newFrames owner first n > (s.part owner).memquota.toNat

/-- FOTSET (R75, R212, R214, R291). -/
def execFotset (s : State) : Outcome :=
  whenQuiet 0x12 (fun _ _ => true) s fun s => asMailbox 0x12 false 16 s fun l s =>
    let first := field l 0 8 / 65536
    let n := field l 8 4
    let owner := field l 12 1
    let flags := field l 13 1
    let fs := (List.range n).map (first + ·)
    if flags ≥ 4 || !zeroAt l 14 2 then .error 5
    else if field l 0 8 % 65536 ≠ 0 || !partNumbers.contains owner
      || fs.any (fun f => !s.backed (65536 * f) || s.inFot (65536 * f) || s.retiredFrames.contains f)
      || s.overQuota owner first n then .error 4
    else .ok (fs.foldl (fun s f => s.fotOne owner flags f) s, [])

/-! ### The error table (R292) -/

def ErrRec.bytes (r : ErrRec) : List Byte :=
  leBytes 4 r.number ++ [BitVec.ofNat 8 r.die, BitVec.ofNat 8 r.macroCode, 0, 0] ++ leBytes 4 r.index ++ leBytes 4 r.unit
    ++ [if r.uncorrectable then 1 else 0, BitVec.ofNat 8 r.outcome, BitVec.ofNat 8 r.part, 0] ++ leBytes 4 r.lost ++ leBytes 8 r.bcyc.toNat

/-- ERRREAD (R292). -/
def execErrread (s : State) : Outcome :=
  asMailbox 0x13 false 8 s fun l s =>
    let rs := (s.errTable.filter fun r => field l 0 4 ≤ r.number).take (field l 4 4)
    .ok (s, leBytes 4 rs.length ++ leBytes 4 0 ++ rs.flatMap ErrRec.bytes)

/-! ### OUTSET (R31, R32, R34) -/

/-- R34: the fields of an OUTSET. -/
def outCfgOf (l : List Byte) : OutCfg :=
  let f := field l 1 1
  let w (o : Nat) : Word := BitVec.ofNat 32 (field l o 4)
  { en := f % 2 = 1, vrr := f / 2 % 2 = 1, dsc := f / 4 % 2 = 1, hpol := f / 8 % 2 = 1, vpol := f / 16 % 2 = 1, bpc := field l 2 1, colour := field l 3 1
    pixclk := field l 4 4, hactive := field l 8 2, hsyncStart := field l 10 2, hsyncEnd := field l 12 2, htotal := field l 14 2, vactive := field l 16 2
    vsyncStart := field l 18 2, vsyncEnd := field l 20 2, vtotal := field l 22 2, vtotalMax := field l 24 2, dscSlices := field l 26 1, lanes := field l 27 1
    dscBpp := field l 28 2, linkRate := field l 30 1, bgR := w 32, bgG := w 36, bgB := w 40, bgA := w 44 }

def colourUnit (w : Word) : Bool := f32Le 0 w && f32Le w 0x3F800000#32

/-- R34: bits of a pixel on the link, in sixteenths. -/
def OutCfg.pixelBits (c : OutCfg) : Nat :=
  if c.dsc then c.dscBpp else c.bpc * (match c.colour with | 2 => 32 | 3 => 24 | _ => 48)

/-- R31: the most that an output's links can carry, in kb/s, where the manual gives a rate; an RBR, HBR, HBR2 or HBR3 rate it only names. -/
def OutCfg.linkTop (n : Nat) (c : OutCfg) : Option Nat :=
  let lane : Option Nat :=
    if n = 3 then [6000000, 3000000, 6000000, 8000000, 10000000, 12000000][c.linkRate]?
    else match c.linkRate with | 4 => some 10000000 | 5 => some 13500000 | 6 => some 20000000 | _ => none
  if n < 3 && c.linkRate = 6 && c.lanes = 4 then some 77400000 else lane.map (· * c.lanes)

/-- R31, R32: whether the pixels fit the link: never beyond its rate, and up to 77.4 Gb/s on four UHBR20 lanes; what the coding of the others leaves is
not given (log 75). -/
def OutCfg.fits (n : Nat) (c : OutCfg) : Bool :=
  let need := c.pixelBits * c.pixclk
  (match c.linkTop n with | some top => need ≤ 16 * top | none => true)
    && ((n < 3 && c.linkRate = 6 && c.lanes = 4) || Config.linkCarries n c.linkRate c.lanes need)

/-- R31, R32, R34: whether a configuration is one that the output supports. -/
def outCfgOk (n : Nat) (c : OutCfg) : Bool :=
  (c.bpc = 8 || c.bpc = 10 || c.bpc = 12) && c.colour ≤ 3 && c.pixclk ≤ 2400000 && 1 ≤ c.hactive && c.hactive ≤ 16384 && 1 ≤ c.vactive && c.vactive ≤ 16384
    && c.hactive < c.hsyncStart && c.hsyncStart < c.hsyncEnd && c.hsyncEnd ≤ c.htotal && c.vactive < c.vsyncStart && c.vsyncStart < c.vsyncEnd
    && c.vsyncEnd ≤ c.vtotal && (if c.vrr then c.vtotal ≤ c.vtotalMax else c.vtotalMax = c.vtotal)
    && (if c.dsc then [1, 2, 4, 8].contains c.dscSlices && c.dscBpp ≠ 0 else c.dscSlices = 0 && c.dscBpp = 0)
    && (if n = 3 then (c.lanes = 3 || c.lanes = 4) && c.linkRate ≤ 5 else [1, 2, 4].contains c.lanes && c.linkRate ≤ 6)
    && colourUnit c.bgR && colourUnit c.bgG && colourUnit c.bgB && colourUnit c.bgA && c.fits n

/-- OUTSET (R34): every block is checked and its link trained, whatever its EN; `trained` is whether the link trains at the rate and lanes given, which
nothing of the state decides (log 41). -/
def execOutset (trained : Bool) (s : State) : Outcome :=
  asMailbox 0x20 false 64 s fun l s =>
    let n := field l 0 1
    let c := outCfgOf l
    if field l 1 1 ≥ 32 || !zeroAt l 31 1 || !zeroAt l 48 16 then .error 5
    else if n > 3 || !outCfgOk n c then .error 4
    else if !trained then .error 0x12
    else .ok (s.modOut n fun o => { o with pending := some c }, [])

/-- R67: the codes of the table. -/
def mailCodes : List Nat := [0x01, 0x02, 0x03, 0x04, 0x05, 0x06, 0x07, 0x10, 0x11, 0x12, 0x13, 0x20]

/-- UNKNOWN_MAILBOX_REQUEST (R67). -/
def execUnknownMailboxRequest (s : State) : Outcome :=
  if !(s.running && s.plat.boot = .ready && s.mbox.go) || mailCodes.contains s.mbox.req.toNat then .next s else .next (s.mailDone 1 [])

end Sys2Proof.Machine
end

