-- ==== Sys2Proof/Machine/Masks.lean ====
section
/-! DEFINITION. MASK: the mask instructions (R386). -/
namespace Sys2Proof.Machine

def mask2 (f : F3) (s : State) (op : Mask → Mask → Mask) : Outcome :=
  withF3 (maskSheet .maskDst .maskSrc .maskSrc 0 f) f s fun e s =>
    s.finishM e f.d (op (e.g.regs.mget (mnum f.a)) (e.g.regs.mget (mnum f.b)))
def mask1 (f : F3) (s : State) (op : Mask → Mask) : Outcome :=
  withF3 (maskSheet .maskDst .maskSrc .zero 0 f) f s fun e s => s.finishM e f.d (op (e.g.regs.mget (mnum f.a)))

/-- MAND (R386). -/
def execMand (f : F3) (s : State) : Outcome := mask2 f s fun a b => a &&& b
/-- MOR (R386). -/
def execMor (f : F3) (s : State) : Outcome := mask2 f s fun a b => a ||| b
/-- MXOR (R386). -/
def execMxor (f : F3) (s : State) : Outcome := mask2 f s fun a b => a ^^^ b
/-- MANDN (R386). -/
def execMandn (f : F3) (s : State) : Outcome := mask2 f s fun a b => a &&& ~~~b
/-- MNOT (R386). -/
def execMnot (f : F3) (s : State) : Outcome := mask1 f s fun a => ~~~a
/-- MMOV (R386). -/
def execMmov (f : F3) (s : State) : Outcome := mask1 f s fun a => a
/-- MPOPC (R386). -/
def execMpopc (f : F3) (s : State) : Outcome :=
  withF3 (maskSheet (sDst 1) .maskSrc .zero 0 f) f s fun e s =>
    s.finishS e f.d (BitVec.ofNat 32 (popCount (e.g.regs.mget (mnum f.a))))
/-- MFIRST (R386). -/
def execMfirst (f : F3) (s : State) : Outcome :=
  withF3 (maskSheet (sDst 1) .maskSrc .zero 0 f) f s fun e s =>
    s.finishS e f.d (match firstBit (e.g.regs.mget (mnum f.a)) with | some i => BitVec.ofNat 32 i | none => 0xFFFFFFFF#32)
/-- MTOS (R386): the word of the mask that X[1:0] names. -/
def execMtos (f : F3) (s : State) : Outcome :=
  withF3 (maskSheet (sDst 1) .maskSrc .zero 2 f) f s fun e s =>
    s.finishS e f.d ((e.g.regs.mget (mnum f.a)).extractLsb' (32 * f.x.toNat) 32)
/-- MFROMS (R386): the other bits of the mask stay. -/
def execMfroms (f : F3) (s : State) : Outcome :=
  withF3 (maskSheet .maskDst (sSrc 1) .zero 2 f) f s fun e s =>
    let sh := 32 * f.x.toNat
    s.finishM e f.d ((e.g.regs.mget (mnum f.d) &&& ~~~((0xFFFFFFFF#128) <<< sh)) ||| (((e.g.s32 f.a).setWidth 128) <<< sh))
/-- MALL (R386). -/
def execMall (f : F3) (s : State) : Outcome :=
  withF3 (maskSheet .maskDst .zero .zero 0 f) f s fun e s => s.finishM e f.d (BitVec.allOnes 128)
/-- MCLEAR (R386). -/
def execMclear (f : F3) (s : State) : Outcome :=
  withF3 (maskSheet .maskDst .zero .zero 0 f) f s fun e s => s.finishM e f.d 0

end Sys2Proof.Machine
end

