-- ==== Sys2Proof/Machine/Matrix.lean ====
section
/-! DEFINITION. The matrix array: TCFG, MMA, MMAZ, MCLR, MLD, MST, MSTV, MFENCE, MBATCH, MWAIT and the finish of an operation
(R192-R194, R305-R311, R457-R463). -/
namespace Sys2Proof.Machine

/-! ### Sums (R308-R310) -/

/-- R308. -/
def expand (f : Fmt) (bits scale : Nat) : Val :=
  if scale = 255 then .nan
  else match f.decode bits with
    | .fin n m e => .fin n m (e + scale - 127)
    | v => v

def isInfOf (neg : Bool) (v : Val) : Bool := v = .inf neg

/-- R309: the sum of a group's addends, in the accumulator's format. -/
def matSum (acc : Fmt) (l : List Val) : Nat :=
  if l.any Val.isNan || (l.any (isInfOf true) && l.any (isInfOf false)) then acc.qnan
  else if l.any (isInfOf true) then acc.infinity true
  else if l.any (isInfOf false) then acc.infinity false
  else
    let nz := l.filter fun v => !v.isZero
    let emax : Int := nz.foldl (fun m v => match v with | .fin _ n e => max m (e + bitLen n - 1) | _ => m) (-4000)
    let lo := emax - 75
    let sum : Int := nz.foldl (fun t v => match v with
      | .fin s n e => let k : Int := roundAt .rtz false n e lo; if s then t - k else t + k
      | _ => t) 0
    acc.encode .rne false (ofScaled (l.all fun v => v.isZero && v.sign) sum lo)

/-- R309: one output element; `a` and `b` give the expanded elements of the row and the column. -/
def mmaFloat (acc : Fmt) (k : Nat) (a b : Nat → Val) (c : Nat) : Nat :=
  (List.range (k / 16)).foldl (fun c g =>
    matSum acc (acc.decode c :: (List.range 16).map fun q => (a (16 * g + q)).mul (b (16 * g + q)))) c

/-- R295: an integer element. -/
def intElem (ty bits : Nat) : Int :=
  if tySigned ty && bits ≥ 2 ^ (elemBits ty - 1) then (bits : Int) - 2 ^ elemBits ty else bits

/-- R310. -/
def mmaInt (k : Nat) (a b : Nat → Int) (c : Word) : Word :=
  c + BitVec.ofInt 32 ((List.range k).map fun i => a i * b i).sum

/-! ### The pipeline -/

def FmtA (fmt : Word) : Nat := (fmt.extractLsb' 0 4).toNat
def FmtB (fmt : Word) : Nat := (fmt.extractLsb' 4 4).toNat
def FmtAcc (fmt : Word) : Nat := (fmt.extractLsb' 8 4).toNat
def FmtScale (fmt : Word) : Nat := (fmt.extractLsb' 12 2).toNat

/-- R457: M and N of a tile configuration image. -/
def tcfgM (w : Word) : Nat := (w.extractLsb' 0 6).toNat + 1
def tcfgN (w : Word) : Nat := (w.extractLsb' 6 5).toNat + 1

/-- R462: whether every operation of a block's batches up to one has finished. -/
def State.batchDone (s : State) (core bid n : Nat) : Bool := !(s.core core).pipe.any fun o => o.bid = bid && o.batch ≤ n

/-- The bytes of an operand in the scratchpad, and in the B-store at a flat address, as the async proxy reads them (R260, R458, R463). -/
def State.matSpm (s : State) (seed : Nat) (o : MatOp) (off n : Nat) : List Byte :=
  s.spmSeen seed o.unfenced [spmKey, ownKey] (.block o.bid) off n
def State.matBstore (s : State) (seed core : Nat) (o : MatOp) (a n : Nat) : List Byte :=
  if o.unfenced = [] then bytesAt (s.core core).bstore a n
  else (List.range n).map fun i =>
    (asyncSector seed o.unfenced [bstoreKey (a + i)] (sectorBits (bytesAt (s.core core).bstore ((a + i) / 32 * 32) 32))).extractLsb' (8 * ((a + i) % 32)) 8

/-- Element `k` of a row of elements. -/
def rowElem (ty : Nat) (l : List Byte) (k : Nat) : Nat :=
  let nb := nibbles ty
  leNat ((l.drop (k * nb / 2)).take ((nb + 1) / 2)) / 16 ^ (k * nb % 2) % 16 ^ nb

/-- R459: K, the scratchpad and slice offsets, and the strides of the scales. -/
def MatOp.k (o : MatOp) : Nat := 16 * ((o.b.extractLsb' 24 8).toNat + 1)
def MatOp.aoff (o : MatOp) : Nat := (o.a.extractLsb' 0 18).toNat
def MatOp.boff (o : MatOp) : Nat := (o.b.extractLsb' 0 17).toNat
def MatOp.aScale (o : MatOp) : Nat := (o.d.extractLsb' 0 18).toNat
/-- R459: the elements of a scale block. -/
def scaleBlock (fmt : Word) : Nat := if FmtScale fmt = 1 then 32 else 16
/-- Half bytes of a scale block of A and of B. -/
def aBlockNib (fmt : Word) : Nat := scaleBlock fmt * nibbles (FmtA fmt)
def bBlockNib (fmt : Word) : Nat := scaleBlock fmt * nibbles (FmtB fmt)

def tileKey (tile i j : Nat) : Nat := 2048 * tile + 32 * i + j

/-- R459: what MMA or MMAZ writes. -/
def State.mmaWords (s : State) (core : Nat) (o : MatOp) : List (Nat × Word) :=
  let seed := s.freeCtr
  let k := o.k
  let fa := FmtA o.fmt
  let fb := FmtB o.fmt
  let acc := FmtAcc o.fmt
  let scaled := FmtScale o.fmt ≠ 0
  let row (i : Nat) : List Byte := s.matSpm seed o (o.aoff + i * o.astride) ((k * nibbles fa + 1) / 2)
  let rowSc (i : Nat) : List Byte :=
    if scaled then s.matSpm seed o (o.aScale + i * (2 * o.astride / aBlockNib o.fmt)) (k / scaleBlock o.fmt) else []
  let col (j : Nat) : List Byte := s.matBstore seed core o (Config.sliceBytes * j + o.boff) ((k * nibbles fb + 1) / 2)
  let colSc (j : Nat) : List Byte :=
    if scaled then s.matBstore seed core o (Config.sliceBytes * j + o.soff + 2 * o.boff / bBlockNib o.fmt) (k / scaleBlock o.fmt) else []
  let sc (l : List Byte) (i : Nat) : Nat := if scaled then ((l[i / scaleBlock o.fmt]?).map (·.toNat)).getD 0 else 127
  let rows := (List.range o.m).map fun i => (i, row i, rowSc i)
  let cols := (List.range o.n).map fun j => (j, col j, colSc j)
  rows.flatMap fun (i, ra, rs) => cols.map fun (j, cb, cs) =>
    let old : Word := if o.fn = 2 then 0 else sget (s.core core).tiles (tileKey o.tile i j)
    (tileKey o.tile i j,
      if acc = 0 then mmaInt k (fun x => intElem fa (rowElem fa ra x)) (fun x => intElem fb (rowElem fb cb x)) old
      else BitVec.ofNat 32 (mmaFloat (fmtOf acc) k (fun x => expand (fmtOf fa) (rowElem fa ra x) (sc rs x))
        (fun x => expand (fmtOf fb) (rowElem fb cb x) (sc cs x)) (if acc = 9 then old.toNat % 2 ^ 16 else old.toNat)))

/-- R461: the element MST writes, none for a pair that it refuses. -/
def mstConvert (acc ty md : Nat) : Option (Word → Nat) :=
  let conv (f : Fmt) (w : Nat) : Nat := (fmtOf ty).encode (convMode md) (4 ≤ md) (f.decode w)
  if acc = 8 then
    if ty = 8 && md = 0 then some (·.toNat) else if [9, 10, 11, 12].contains ty then some fun w => conv fmtF32 w.toNat else none
  else if acc = 9 then
    if ty = 9 && md = 0 then some fun w => w.toNat % 2 ^ 16
    else if ty = 8 && md = 0 then some fun w => conv fmtF16 (w.toNat % 2 ^ 16)
    else if ty = 11 || ty = 12 then some fun w => conv fmtF16 (w.toNat % 2 ^ 16)
    else none
  else if ty = 0 && md = 0 then some (·.toNat)
  else if (ty = 2 || ty = 4) && md = 0 then some fun w => w.toNat % 2 ^ elemBits ty
  else if (ty = 2 || ty = 4) && md = 4 then
    some fun w => (clampInt (-(2 ^ (elemBits ty - 1) : Int)) (2 ^ (elemBits ty - 1) - 1) w.toInt % 2 ^ elemBits ty).toNat
  else none

/-- R463, R505: what an MST makes of the old values of a sector in a list of unfenced writes. A later operation of the pipeline sees the write,
so that each takes its bytes; `keep` keeps the values from before as well, until an MWAIT, for what is no such operation. -/
def mstOver (keep : Option Nat) (a off : Nat) (l : List Byte) (unf : List (Nat × BitVec 256)) : List (Nat × BitVec 256) :=
  unf.flatMap fun x =>
    if mstEntry x || !asyncKeys.any fun k => k a = x.1 % tagUnit then [x]
    else match keep with
      | some batch => [(mstTag batch + x.1 % tagUnit, x.2), (x.1, overSector a off l x.2)]
      | none => [(x.1, overSector a off l x.2)]

/-- R463, R505: a write of an MST. Loads and copies of its group may still read the old bytes until an MWAIT of its batch, and every later operation of
the pipeline sees it (log 6). -/
def State.mstWrite (s : State) (o : MatOp) (off : Nat) (l : List Byte) : State :=
  let sectors := (List.range ((off + l.length - 1) / 32 + 1 - off / 32)).map fun i => 32 * (off / 32 + i)
  let s := sectors.foldl (fun s a =>
    let old := sectorBits (s.spmRead (.block o.bid) a 32)
    let mine (u : Nat) : Bool := u = o.groupUid
    { s with
      groups := kmapAll s.groups fun _ g =>
        if mine g.uid then { g with unfenced := addOld (mstTag o.batch + mstKey a) old (mstOver (some o.batch) a off l g.unfenced) }
        else if g.block = o.bid then { g with unfenced := mstOver none a off l g.unfenced } else g
      cores := kmapAll s.cores fun _ c =>
        { c with copyq := c.copyq.map fun x => if mine x.groupUid then { x with unfenced := addOld (mstKey a) old x.unfenced } else x
                 pipe := c.pipe.map fun x => if x.bid = o.bid then { x with unfenced := mstOver none a off l x.unfenced } else x } }) s
  s.spmWriteRaw (.block o.bid) off l

/-- R459-R461: performs an operation. -/
def State.runMat (s : State) (core : Nat) (o : MatOp) : State :=
  let set (l : List (Nat × Word)) : State := s.modCore core fun c => { c with tiles := ssets c.tiles l }
  let tile (i j : Nat) : Word := sget (s.core core).tiles (tileKey o.tile i j)
  let a := o.a.toNat
  match o.fn with
  | 3 => s.modCore core fun c => { c with tiles := c.tiles.filter fun e => e.1 / 2048 ≠ o.tile }
  | 4 => set ((List.range o.m).flatMap fun i =>
      let r := s.matSpm s.freeCtr o (a + i * o.astride) (4 * o.n)
      (List.range o.n).map fun j => (tileKey o.tile i j, word32 ((r.drop (4 * j)).take 4)))
  | 5 =>
    let conv := (mstConvert (FmtAcc o.fmt) o.ty o.md).getD (·.toNat)
    let w := elemBits o.ty / 8
    (List.range o.m).foldl (fun s i =>
      s.mstWrite o (a + i * o.astride) ((List.range o.n).flatMap fun j => leBytes w (conv (tile i j)))) s
  | 6 =>
    let r := o.b.toNat
    match kget s.groups o.gid with
    | none => s
    | some g =>
      if g.uid ≠ o.groupUid then s
      else s.setRegs o.gid { g.regs with v := ssets g.regs.v ((bitsOf o.live).map fun t => (128 * o.d.toNat + t, tile (r + t / 32) (t % 32))) }
  | _ => set (s.mmaWords core o)

/-- MATRIX_OP_FINISH (R458, R462): the first operation of the pipeline is performed and leaves it. -/
def execMatrixOpFinish (core : Nat) (s : State) : Outcome :=
  match (s.core core).pipe with
  | [] => .next s
  | o :: rest => .next ((((s.modCore core fun c => { c with pipe := rest }).runMat core o)).skip 1)

/-! ### Issue -/

/-- R194: a matrix instruction of a group whose block owns the array. -/
def withMatrix (sh : Sheet) (f : F3) (s : State) (body : Env → State → State) : Outcome :=
  withF3 sh f s fun e s => if !e.ownsMatrix then s.trapWord e causeMatrixOwner else body e s

def State.badOffset (s : State) (e : Env) (w : Nat) : State := s.trapHere e causeIllegalOperand (BitVec.ofNat 64 w)

/-- The operation a group issues now (R307, R458). It finds no value from before an earlier MST (R505). -/
def Env.matOp (e : Env) (fn : Nat) (f : F3) : MatOp :=
  { fn := fn, tile := (f.x.extractLsb' 0 3).toNat, ty := f.ty.toNat, md := f.md.toNat, a := 0, b := 0, d := 0, gid := e.gid
    groupUid := e.g.uid, bid := e.g.block, fmt := e.g.fmt, m := tcfgM e.b.tcfg, n := tcfgN e.b.tcfg, astride := e.b.astride.toNat
    soff := e.b.soff.toNat, live := e.g.live, batch := e.b.batch, unfenced := e.g.unfenced.filter fun x => !mstEntry x }

/-- R458: an operation enters the pipeline, or the group is not ready; it needs a TCFG before it. `bad` is the offset that breaks a bound. -/
def issueMat (fn : Nat) (sh : Sheet) (f : F3) (s : State) (fill : Env → MatOp → MatOp) (bad : Env → MatOp → Option Nat) : Outcome :=
  withMatrix sh f s fun e s =>
    let o := fill e (e.matOp fn f)
    if (s.core e.g.core).pipe.length ≥ Config.matrixDepth then s.waitAt e.gid .matrixRoom
    else if !e.b.tcfg.getLsbD 11 then s.illegalOperand e
    else match bad e o with
      | some w => s.badOffset e w
      | none =>
          let s := if fn = 1 || fn = 2 then
              s.count e.gid 13 (o.k / (16 / max (elemBits (FmtA o.fmt)) (elemBits (FmtB o.fmt))))
            else s.countFree e.gid 13
          (s.modCore e.g.core fun c => { c with pipe := c.pipe ++ [o] }).advance e.gid

/-- R459: the checks of MMA and MMAZ at issue. -/
def mmaBad (e : Env) (o : MatOp) : Option Nat :=
  let k := o.k
  let fa := FmtA o.fmt
  let fb := FmtB o.fmt
  if o.a.extractLsb' 18 14 ≠ 0 || o.aoff % 16 ≠ 0 then some o.a.toNat
  else if o.b.extractLsb' 17 7 ≠ 0 || o.boff % 16 ≠ 0 then some o.b.toNat
  else if o.aoff + (o.m - 1) * o.astride + k * nibbles fa / 2 > e.b.spmSize then some o.aoff
  else if o.boff + k * nibbles fb / 2 > Config.sliceBytes then some o.boff
  else if FmtScale o.fmt = 0 then none
  else
    let bs := scaleBlock o.fmt
    if k % bs ≠ 0 then some o.b.toNat
    else if 2 * o.astride % aBlockNib o.fmt ≠ 0 then some o.astride
    else if 2 * o.boff % bBlockNib o.fmt ≠ 0 then some o.boff
    else if o.aScale + (o.m - 1) * (2 * o.astride / aBlockNib o.fmt) + k / bs > e.b.spmSize then some o.aScale
    else if o.soff + 2 * o.boff / bBlockNib o.fmt + k / bs > Config.sliceBytes then some o.soff
    else none

def mmaFill (f : F3) (e : Env) (o : MatOp) : MatOp := { o with a := e.g.s32 f.a, b := e.g.s32 f.b, d := e.g.s32 f.d }

/-- MMA (R459). -/
def execMma (f : F3) (s : State) : Outcome := issueMat 1 (mtxSheet (sSrc 1) (sSrc 1) (sSrc 1) f) f s (mmaFill f) mmaBad
/-- MMAZ (R459). -/
def execMmaz (f : F3) (s : State) : Outcome := issueMat 2 (mtxSheet (sSrc 1) (sSrc 1) (sSrc 1) f) f s (mmaFill f) mmaBad
/-- MCLR (R460). -/
def execMclr (f : F3) (s : State) : Outcome := issueMat 3 (mtxSheet .zero .zero .zero f) f s (fun _ o => o) fun _ _ => none

/-- R460: the bounds of the rows that MLD reads or MST writes, of elements of `w` bytes. -/
def rowsBad (w : Nat) (e : Env) (o : MatOp) : Option Nat :=
  if o.a.toNat % 4 ≠ 0 || o.a.toNat + (o.m - 1) * o.astride + o.n * w > e.b.spmSize then some o.a.toNat else none

/-- MLD (R460). -/
def execMld (f : F3) (s : State) : Outcome :=
  issueMat 4 (mtxSheet .zero (sSrc 1) .zero f) f s (fun e o => { o with a := e.g.s32 f.a }) (rowsBad 4)
/-- MST (R460, R461): a pair of formats that it refuses traps with the word. -/
def execMst (f : F3) (s : State) : Outcome :=
  issueMat 5 (mstSheet f) f s (fun e o => { o with a := e.g.s32 f.a }) fun e o =>
    if (mstConvert (FmtAcc o.fmt) o.ty o.md).isNone then some e.word.toNat else rowsBad (elemBits o.ty / 8) e o
/-- MSTV (R460). -/
def execMstv (f : F3) (s : State) : Outcome :=
  issueMat 6 (mtxSheet (vDst 1) .zero (sSrc 1) f) f s (fun e o => { o with b := e.g.s32 f.b, d := BitVec.ofNat 32 (regOf f.d) })
    fun _ o => if o.b.toNat % 4 ≠ 0 || o.b.toNat > 60 then some o.b.toNat else none

/-- R457: the values of TCFG. -/
def tcfgOk (m n st so : Nat) : Bool :=
  1 ≤ m && m ≤ 64 && 1 ≤ n && n ≤ 32 && st % 16 = 0 && 16 ≤ st && st ≤ 262144 && so ≤ 131071

/-- TCFG (R457). -/
def execTcfg (f : F3) (s : State) : Outcome :=
  withMatrix (scalarPlain .zero (sReg 4 1) .zero f) f s fun e s =>
    let v (i : Nat) : Word := e.g.regs.sget (regOf f.a + i)
    if !tcfgOk (v 0).toNat (v 1).toNat (v 2).toNat (v 3).toNat then s.illegalOperand e
    else if !s.batchDone e.g.core e.g.block e.b.batch then s.waitAt e.gid (.batch e.b.batch)
    else
      ((s.modBlock e.g.block fun b =>
        { b with tcfg := BitVec.ofNat 32 (2048 + 64 * ((v 1).toNat - 1) + ((v 0).toNat - 1)), astride := v 2, soff := v 3 }).modCore e.g.core
          fun c => { c with tiles := [] }).advance e.gid

/-- MFENCE (R462): later matrix operations read the group's earlier scratchpad writes. -/
def execMfence (f : F3) (s : State) : Outcome :=
  withMatrix (scalarPlain .zero .zero .zero f) f s fun e s =>
    s.modGroup e.gid fun g =>
      { g with unfenced := g.unfenced.map fun (x : Nat × BitVec 256) => if x.1 % tagUnit / 2 ^ 62 = 1 then (x.1 + 2 ^ 62, x.2) else x }.advance

/-- MBATCH (R462). -/
def execMbatch (f : F3) (s : State) : Outcome :=
  withMatrix (scalarPlain (sDst 1) .zero .zero f) f s fun e s =>
    if e.b.batch ≥ 128 && !s.batchDone e.g.core e.g.block (e.b.batch - 128) then s.waitAt e.gid (.batch (e.b.batch - 128))
    else (s.modBlock e.g.block fun b => { b with batch := b.batch + 1 }).finishS e f.d (BitVec.ofNat 32 (e.b.batch % 256))

/-- R462: the closed batch that a number names for a block with `n` closed ones; none when the wait completes at once. -/
def batchNamed (n b : Nat) : Option Nat :=
  let back := (n + 255 - b) % 256
  if back ≥ 128 || back ≥ n then none else some (n - 1 - back)

/-- R463: the group has waited for the batch that a number names: the MSTs of that one, if it is closed, and of those before it are seen. -/
def Group.mwaited (g : Group) (n b : Nat) : Group :=
  { g with unfenced := g.unfenced.filter fun x => !(mstEntry x && x.1 / tagUnit ≤ 2 * (n - (n + 255 - b) % 256)) }

/-- MWAIT (R462, R270). -/
def execMwait (f : F3) (s : State) : Outcome :=
  withMatrix (scalarPlain .zero (sSrc 1) .zero f) f s fun e s =>
    let a := (e.g.s32 f.a).toNat
    let done := (s.acquireBy e.gid e.g.core 1).modGroup e.gid fun g => (g.mwaited e.b.batch a).advance
    if a ≥ 256 then s.illegalOperand e
    else match batchNamed e.b.batch a with
      | none => done
      | some n => if s.batchDone e.g.core e.g.block n then done else s.waitAt e.gid (.batch n)

end Sys2Proof.Machine
end

