-- ==== Sys2Proof/Machine/Scalar.lean ====
section
/-! DEFINITION. The scalar unit's arithmetic: SALU, SALUI, SLI, SADR, SCMP, SCMPI and SFPU (R375-R385). -/
namespace Sys2Proof.Machine

/-- R377: under TY 14 the constant entries from 80 up are refused. -/
def badI64 (f : BitVec 11) : Bool := opKind f = .const && regOf f ≥ 80

/-- R378: two sources in 32 bits, or in 64 where the row has that form. -/
def salu2 (wide : Bool) (f : F3) (s : State) (op : (w : Nat) → BitVec w → BitVec w → BitVec w) : Outcome :=
  withF3 (saluSheet wide 0 true f) f s fun e s =>
    if f.ty = 14 then
      if badI64 f.a || badI64 f.b then s.illegalOperand e
      else s.finishS64 e f.d (op 64 (e.g.s64 f.a) (e.g.s64 f.b))
    else s.finishS e f.d (op 32 (e.g.s32 f.a) (e.g.s32 f.b))

/-- R377: the immediate form. -/
def salu2I (wide : Bool) (f : FI) (s : State) (op : (w : Nat) → BitVec w → BitVec w → BitVec w) : Outcome :=
  withFI (saluiSheet wide f) f s fun e s =>
    if f.ty = 14 then
      if badI64 f.a then s.illegalOperand e else s.finishS64 e f.d (op 64 (e.g.s64 f.a) (imm64 f))
    else s.finishS e f.d (op 32 (e.g.s32 f.a) (imm32 f))

/-- R378: two 32-bit sources. -/
def salu32 (f : F3) (s : State) (op : Word → Word → Word) : Outcome :=
  withF3 (saluSheet false 0 true f) f s fun e s => s.finishS e f.d (op (e.g.s32 f.a) (e.g.s32 f.b))
def salu32I (f : FI) (s : State) (op : Word → Word → Word) : Outcome :=
  withFI (saluiSheet false f) f s fun e s => s.finishS e f.d (op (e.g.s32 f.a) (imm32 f))

/-- SADD (R378). -/
def execSadd (f : F3) (s : State) : Outcome := salu2 true f s fun _ a b => a + b
/-- SSUB (R378). -/
def execSsub (f : F3) (s : State) : Outcome := salu2 true f s fun _ a b => a - b
/-- SAND (R378). -/
def execSand (f : F3) (s : State) : Outcome := salu2 true f s fun _ a b => a &&& b
/-- SOR (R378). -/
def execSor (f : F3) (s : State) : Outcome := salu2 true f s fun _ a b => a ||| b
/-- SXOR (R378). -/
def execSxor (f : F3) (s : State) : Outcome := salu2 true f s fun _ a b => a ^^^ b
/-- SSHL (R378). -/
def execSshl (f : F3) (s : State) : Outcome := salu2 true f s fun _ a b => shl a b
/-- SSHR (R378). -/
def execSshr (f : F3) (s : State) : Outcome := salu2 true f s fun _ a b => shr a b
/-- SSAR (R378). -/
def execSsar (f : F3) (s : State) : Outcome := salu2 true f s fun _ a b => sar a b
/-- SMUL (R378). -/
def execSmul (f : F3) (s : State) : Outcome := salu32 f s fun a b => a * b
/-- SMULHI (R378). -/
def execSmulhi (f : F3) (s : State) : Outcome := salu32 f s fun a b => mulHi a b
/-- SMULHU (R378). -/
def execSmulhu (f : F3) (s : State) : Outcome := salu32 f s fun a b => mulHiU a b
/-- SDIV (R379). -/
def execSdiv (f : F3) (s : State) : Outcome := salu32 f s fun a b => sdiv32 a b
/-- SDIVU (R379). -/
def execSdivu (f : F3) (s : State) : Outcome := salu32 f s fun a b => sdivu32 a b
/-- SREM (R379). -/
def execSrem (f : F3) (s : State) : Outcome := salu32 f s fun a b => srem32 a b
/-- SREMU (R379). -/
def execSremu (f : F3) (s : State) : Outcome := salu32 f s fun a b => sremu32 a b
/-- SMIN (R378). -/
def execSmin (f : F3) (s : State) : Outcome := salu32 f s fun a b => minS a b
/-- SMAX (R378). -/
def execSmax (f : F3) (s : State) : Outcome := salu32 f s fun a b => maxS a b
/-- SMINU (R378). -/
def execSminu (f : F3) (s : State) : Outcome := salu32 f s fun a b => minU a b
/-- SMAXU (R378). -/
def execSmaxu (f : F3) (s : State) : Outcome := salu32 f s fun a b => maxU a b
/-- SSEL (R378): the condition bit that X[2:0] names chooses. -/
def execSsel (f : F3) (s : State) : Outcome :=
  withF3 (saluSheet false 3 true f) f s fun e s =>
    s.finishS e f.d (if e.g.regs.cget f.x.toNat then e.g.s32 f.a else e.g.s32 f.b)
/-- SBFE (R380). -/
def execSbfe (f : F3) (s : State) : Outcome :=
  withF3 (saluSheet false 1 true f) f s fun e s => s.finishS e f.d (bfe (f.x.getLsbD 0) (e.g.s32 f.a) (e.g.s32 f.b))
/-- SBFI (R380): D is also a source. -/
def execSbfi (f : F3) (s : State) : Outcome :=
  withF3 (saluSheet false 0 true f) f s fun e s =>
    s.finishS e f.d (bfi (e.g.regs.sget (regOf f.d)) (e.g.s32 f.a) (e.g.s32 f.b))
/-- SPOPC (R378). -/
def execSpopc (f : F3) (s : State) : Outcome :=
  withF3 (saluSheet false 0 false f) f s fun e s => s.finishS e f.d (popc32 (e.g.s32 f.a))
/-- SCLZ (R378). -/
def execSclz (f : F3) (s : State) : Outcome :=
  withF3 (saluSheet false 0 false f) f s fun e s => s.finishS e f.d (clz32 (e.g.s32 f.a))
/-- SMOV (R378). -/
def execSmov (f : F3) (s : State) : Outcome :=
  withF3 (saluSheet true 0 false f) f s fun e s =>
    if f.ty = 14 then (if badI64 f.a then s.illegalOperand e else s.finishS64 e f.d (e.g.s64 f.a))
    else s.finishS e f.d (e.g.s32 f.a)

/-- SADD with an immediate (R377). -/
def execSaddI (f : FI) (s : State) : Outcome := salu2I true f s fun _ a b => a + b
/-- SSUB with an immediate (R377). -/
def execSsubI (f : FI) (s : State) : Outcome := salu2I true f s fun _ a b => a - b
/-- SAND with an immediate (R377). -/
def execSandI (f : FI) (s : State) : Outcome := salu2I true f s fun _ a b => a &&& b
/-- SOR with an immediate (R377). -/
def execSorI (f : FI) (s : State) : Outcome := salu2I true f s fun _ a b => a ||| b
/-- SXOR with an immediate (R377). -/
def execSxorI (f : FI) (s : State) : Outcome := salu2I true f s fun _ a b => a ^^^ b
/-- SSHL with an immediate (R377). -/
def execSshlI (f : FI) (s : State) : Outcome := salu2I true f s fun _ a b => shl a b
/-- SSHR with an immediate (R377). -/
def execSshrI (f : FI) (s : State) : Outcome := salu2I true f s fun _ a b => shr a b
/-- SSAR with an immediate (R377). -/
def execSsarI (f : FI) (s : State) : Outcome := salu2I true f s fun _ a b => sar a b
/-- SMUL with an immediate (R377). -/
def execSmulI (f : FI) (s : State) : Outcome := salu32I f s fun a b => a * b
/-- SMULHI with an immediate (R377). -/
def execSmulhiI (f : FI) (s : State) : Outcome := salu32I f s fun a b => mulHi a b
/-- SMULHU with an immediate (R377). -/
def execSmulhuI (f : FI) (s : State) : Outcome := salu32I f s fun a b => mulHiU a b
/-- SDIV with an immediate (R377). -/
def execSdivI (f : FI) (s : State) : Outcome := salu32I f s fun a b => sdiv32 a b
/-- SDIVU with an immediate (R377). -/
def execSdivuI (f : FI) (s : State) : Outcome := salu32I f s fun a b => sdivu32 a b
/-- SREM with an immediate (R377). -/
def execSremI (f : FI) (s : State) : Outcome := salu32I f s fun a b => srem32 a b
/-- SREMU with an immediate (R377). -/
def execSremuI (f : FI) (s : State) : Outcome := salu32I f s fun a b => sremu32 a b
/-- SMIN with an immediate (R377). -/
def execSminI (f : FI) (s : State) : Outcome := salu32I f s fun a b => minS a b
/-- SMAX with an immediate (R377). -/
def execSmaxI (f : FI) (s : State) : Outcome := salu32I f s fun a b => maxS a b
/-- SMINU with an immediate (R377). -/
def execSminuI (f : FI) (s : State) : Outcome := salu32I f s fun a b => minU a b
/-- SMAXU with an immediate (R377). -/
def execSmaxuI (f : FI) (s : State) : Outcome := salu32I f s fun a b => maxU a b
/-- SBFE with an immediate, which extends with zeros (R380). -/
def execSbfeI (f : FI) (s : State) : Outcome := salu32I f s fun a b => bfe false a b
/-- SBFI with an immediate (R380). -/
def execSbfiI (f : FI) (s : State) : Outcome :=
  withFI (saluiSheet false f) f s fun e s => s.finishS e f.d (bfi (e.g.regs.sget (regOf f.d)) (e.g.s32 f.a) (imm32 f))

/-- R323: the decode checks of an FL word. -/
def flCause (n : Nat) (f : FL) (g : Group) : Option Nat :=
  if !(sDst n).legal f.d then some causeIllegalInstr else if !ruleFits (sDst n) g f.d then some causeIllegalOperand else none
/-- SLI (R381). -/
def execSli (f : FL) (s : State) : Outcome :=
  asGroup s fun e s => match flCause 1 f e.g with
    | some c => s.trapWord e c
    | none => s.finishS e f.d f.imm
/-- SADR (R381). -/
def execSadr (f : FL) (s : State) : Outcome :=
  asGroup s fun e s => match flCause 2 f e.g with
    | some c => s.trapWord e c
    | none => s.finishS64 e f.d (e.g.pc + f.imm.signExtend 64)

/-! ### Scalar compares -/

/-- R382. Under TY 14 the constants are those of R377 (log 21). -/
def scmp (c : Cond) (f : F3) (s : State) : Outcome :=
  withF3 (scmpSheet f) f s fun e s =>
    if f.ty = 14 then
      if badI64 f.a || badI64 f.b then s.illegalOperand e else s.finishC e f.d (c.holds (e.g.s64 f.a) (e.g.s64 f.b))
    else s.finishC e f.d (c.holds (e.g.s32 f.a) (e.g.s32 f.b))
def scmpI (c : Cond) (f : FI) (s : State) : Outcome :=
  withFI (scmpiSheet f) f s fun e s =>
    if f.ty = 14 then (if badI64 f.a then s.illegalOperand e else s.finishC e f.d (c.holds (e.g.s64 f.a) (imm64 f)))
    else s.finishC e f.d (c.holds (e.g.s32 f.a) (imm32 f))

/-- SCMPEQ (R382). -/
def execScmpeq (f : F3) (s : State) : Outcome := scmp .eq f s
/-- SCMPNE (R382). -/
def execScmpne (f : F3) (s : State) : Outcome := scmp .ne f s
/-- SCMPLT (R382). -/
def execScmplt (f : F3) (s : State) : Outcome := scmp .lt f s
/-- SCMPLE (R382). -/
def execScmple (f : F3) (s : State) : Outcome := scmp .le f s
/-- SCMPLTU (R382). -/
def execScmpltu (f : F3) (s : State) : Outcome := scmp .ltu f s
/-- SCMPLEU (R382). -/
def execScmpleu (f : F3) (s : State) : Outcome := scmp .leu f s
/-- SCMPGT (R382). -/
def execScmpgt (f : F3) (s : State) : Outcome := scmp .gt f s
/-- SCMPGE (R382). -/
def execScmpge (f : F3) (s : State) : Outcome := scmp .ge f s
/-- SCMPGTU (R382). -/
def execScmpgtu (f : F3) (s : State) : Outcome := scmp .gtu f s
/-- SCMPGEU (R382). -/
def execScmpgeu (f : F3) (s : State) : Outcome := scmp .geu f s
/-- SCMPEQ with an immediate (R382). -/
def execScmpeqI (f : FI) (s : State) : Outcome := scmpI .eq f s
/-- SCMPNE with an immediate (R382). -/
def execScmpneI (f : FI) (s : State) : Outcome := scmpI .ne f s
/-- SCMPLT with an immediate (R382). -/
def execScmpltI (f : FI) (s : State) : Outcome := scmpI .lt f s
/-- SCMPLE with an immediate (R382). -/
def execScmpleI (f : FI) (s : State) : Outcome := scmpI .le f s
/-- SCMPLTU with an immediate (R382). -/
def execScmpltuI (f : FI) (s : State) : Outcome := scmpI .ltu f s
/-- SCMPLEU with an immediate (R382). -/
def execScmpleuI (f : FI) (s : State) : Outcome := scmpI .leu f s
/-- SCMPGT with an immediate (R382). -/
def execScmpgtI (f : FI) (s : State) : Outcome := scmpI .gt f s
/-- SCMPGE with an immediate (R382). -/
def execScmpgeI (f : FI) (s : State) : Outcome := scmpI .ge f s
/-- SCMPGTU with an immediate (R382). -/
def execScmpgtuI (f : FI) (s : State) : Outcome := scmpI .gtu f s
/-- SCMPGEU with an immediate (R382). -/
def execScmpgeuI (f : FI) (s : State) : Outcome := scmpI .geu f s

/-! ### Scalar floating point -/

/-- A scalar float source, and a float result's write (R383). -/
def Group.sVal (g : Group) (ty : BitVec 4) (f : BitVec 11) : Val :=
  if ty = 14 then fmtF64.decode (g.sF64 f).toNat else f32 (g.sF f)
def Group.sDval (g : Group) (ty : BitVec 4) (d : BitVec 11) : Val :=
  if ty = 14 then fmtF64.decode (g.regs.sget64 (regOf d)).toNat else f32 (g.regs.sget (regOf d))
def State.finishSF (s : State) (e : Env) (ty : BitVec 4) (d : BitVec 11) (mode : RMode) (v : Val) : State :=
  if ty = 14 then s.finishS64 e d (BitVec.ofNat 64 (fmtF64.round mode v)) else s.finishS e d (toF32 mode v)

/-- R383: two sources and a rounding mode. -/
def sfpu (m : Nat) (f : F3) (s : State) (op : RMode → Val → Val → Val) : Outcome :=
  withF3 (sfpuSheet m f) f s fun e s =>
    let mode := arithMode f.md.toNat
    s.finishSF e f.ty f.d mode (op mode (e.g.sVal f.ty f.a) (e.g.sVal f.ty f.b))

/-- SFADD (R383, R508). -/
def execSfadd (f : F3) (s : State) : Outcome := sfpu 4 f s fun m a b => sumVals m [a, b]
/-- SFSUB (R383, R508). -/
def execSfsub (f : F3) (s : State) : Outcome := sfpu 4 f s fun m a b => sumVals m [a, b.neg]
/-- SFMUL (R383). -/
def execSfmul (f : F3) (s : State) : Outcome := sfpu 4 f s fun _ a b => a.mul b
/-- SFMA (R383): D is the third source. -/
def execSfma (f : F3) (s : State) : Outcome :=
  withF3 (sfpuSheet 4 f) f s fun e s =>
    let mode := arithMode f.md.toNat
    s.finishSF e f.ty f.d mode (sumVals mode [(e.g.sVal f.ty f.a).mul (e.g.sVal f.ty f.b), e.g.sDval f.ty f.d])
/-- SFMIN (R383, R300). -/
def execSfmin (f : F3) (s : State) : Outcome := sfpu 0 f s fun _ a b => minNumber a b
/-- SFMAX (R383, R300). -/
def execSfmax (f : F3) (s : State) : Outcome := sfpu 0 f s fun _ a b => maxNumber a b
/-- SFCMP (R384). -/
def execSfcmp (f : F3) (s : State) : Outcome :=
  withF3 (sfcmpSheet f) f s fun e s =>
    s.finishC e f.d ((fcondOf (f.x.extractLsb' 0 3).toNat).holds (e.g.sVal f.ty f.a) (e.g.sVal f.ty f.b))

/-- R302, R303, R385, R417: a value of type `src` (0 i32, 1 n32, 8 f32, 14 f64) converted to type `dst`. -/
def convert (dst src md : Nat) (x : DWord) : DWord :=
  let v : Val := match src with
    | 0 => Val.ofInt (x.setWidth 32).toInt
    | 1 => Val.ofInt (x.setWidth 32).toNat
    | 8 => f32 (x.setWidth 32)
    | _ => fmtF64.decode x.toNat
  match dst with
  | 0 => (BitVec.ofInt 32 (v.toRange (convMode md) (intLo true 32) (intHi true 32))).setWidth 64
  | 1 => (BitVec.ofInt 32 (v.toRange (convMode md) (intLo false 32) (intHi false 32))).setWidth 64
  | 8 => BitVec.ofNat 64 (fmtF32.encode (convMode md) (4 ≤ md) v)
  | _ => BitVec.ofNat 64 (fmtF64.encode (convMode md) (4 ≤ md) v)

/-- SCVT (R385). -/
def execScvt (f : F3) (s : State) : Outcome :=
  withF3 (scvtSheet f) f s fun e s =>
    let src := (f.x.extractLsb' 0 4).toNat
    let x := if src = 14 then e.g.sF64 f.a else (e.g.src src f.a 0).setWidth 64
    let r := convert f.ty.toNat src f.md.toNat x
    if f.ty = 14 then s.finishS64 e f.d r else s.finishS e f.d (lo32 r)

end Sys2Proof.Machine
end

