-- ==== Sys2Proof/Machine/Spdm.lean ====
section
/-! DEFINITION. The SPDM 1.2 responder (R68-R70). The messages' layouts are SPDM's, taken from outside the manual (log 38). -/
namespace Sys2Proof.Machine

/-! ### Measurements (R70) -/

/-- R72: a configuration entry as its 64 bytes. -/
def Part.bytes (p : Part) : List Byte :=
  let b (x : Bool) (n : Nat) : Nat := if x then n else 0
  [BitVec.ofNat 8 (b p.en 1 + b p.temporal 2 + b p.paused 4)] ++ List.replicate 31 0 ++ leBytes 2 p.weight.toNat ++ leBytes 2 p.allow.toNat
    ++ leBytes 12 p.coreset.toNat ++ leBytes 4 p.pinquota.toNat ++ leBytes 4 p.memquota.toNat ++ leBytes 8 p.colours.toNat

/-- R70: the images of block 7, each after its three numbers. -/
def State.awlImages (s : State) : List Byte :=
  s.ctxs.flatMap fun e => e.2.windows.flatMap fun w => leBytes 4 (partOfCtx e.1) ++ leBytes 4 (numOfCtx e.1) ++ leBytes 4 w.1 ++ w.2.image

def Straps.bytes (t : Straps) (reliable : Bool) : List Byte :=
  [BitVec.ofNat 8 (t.bootsrc.toNat + 4 * t.pciemaxw.toNat + 16 * t.smbaddr.toNat + (if t.novendor then 64 else 0)), if reliable then 1 else 0]

/-- R70: the content of a measurement block, with its kind. -/
def State.measurement (s : State) : Nat → Nat × List Byte
  | 1 => (0, digestBytes (Config.sha384 Config.bootRom))
  | 2 => (1, digestBytes s.sec.runningDigest)
  | 3 => (0x82, leBytes 4 s.sec.runningSlot ++ digestBytes s.sec.slotDigest)
  | 4 => (0x82, s.sec.bootFuses)
  | 5 => (0x82, Straps.bytes s.plat.straps s.plat.reliable)
  | 6 => (3, digestBytes (Config.sha384 (s.parts.flatMap fun p => p.2.bytes)))
  | _ => (3, digestBytes (Config.sha384 s.awlImages))

def State.measurementBlock (s : State) (i : Nat) : List Byte :=
  let m := s.measurement i
  [BitVec.ofNat 8 i, 1] ++ leBytes 2 (m.2.length + 3) ++ [BitVec.ofNat 8 m.1] ++ leBytes 2 m.2.length ++ m.2

/-! ### Messages -/

def spdmHead (code p1 p2 : Nat) : List Byte := [0x12, BitVec.ofNat 8 code, BitVec.ofNat 8 p1, BitVec.ofNat 8 p2]
def spdmError (code : Nat) : List Byte := spdmHead 0x7F code 0
def invalidRequest : Nat := 1
def unexpectedRequest : Nat := 4

/-- A response that joins the transcript. -/
def State.answer (s : State) (req rsp : List Byte) : State :=
  { s with spdm := { s.spdm with response := rsp, transcript := s.spdm.transcript ++ req ++ rsp } }
def State.answerError (s : State) (code : Nat) : State := { s with spdm := { s.spdm with response := spdmError code } }

/-- R68: the codes of the requests that the responder supports. -/
def spdmCodes : List Nat := [0x84, 0xE1, 0xE3, 0x81, 0x82, 0x83, 0xE0]
def unsupportedRequest : Nat := 7
def versionMismatch : Nat := 0x41

/-- One request over Data Object Exchange on PF0 (R24, R68): its code, the length it needs, and what must have gone before. A request with a code that
is not supported, or of another version than 1.2 (1.0 for GET_VERSION), is answered with an error. -/
def asSpdm (code len : Nat) (before : Spdm → Bool) (req : List Byte) (s : State) (body : State → State) : Outcome :=
  if !(s.running && s.plat.boot = .ready) then .next s
  else if !spdmCodes.contains (field req 1 1) then .next (s.answerError unsupportedRequest)
  else if field req 1 1 ≠ code then .next s
  else if field req 0 1 ≠ (if code = 0x84 then 0x10 else 0x12) then .next (s.answerError versionMismatch)
  else if req.length < len then .next (s.answerError invalidRequest)
  else if !before s.spdm then .next (s.answerError unexpectedRequest)
  else .next (body s)

/-- GET_VERSION (R68): SPDM 1.2; it starts the transcript anew. -/
def execGetVersion (req : List Byte) (s : State) : Outcome :=
  asSpdm 0x84 4 (fun _ => true) req s fun s =>
    { s with spdm := { version := true } }.answer req ([0x10, 0x04, 0, 0, 0, 1] ++ leBytes 2 0x1200)

/-- GET_CAPABILITIES (R68): certificates, challenges and signed measurements. -/
def execGetCapabilities (req : List Byte) (s : State) : Outcome :=
  asSpdm 0xE1 4 (fun p => p.version && !p.caps) req s fun s =>
    let rsp := spdmHead 0x61 0 0 ++ [0, (Config.spdmWord 0).setWidth 8, 0, 0] ++ leBytes 4 0x16 ++ leBytes 4 (Config.spdmWord 1).toNat ++ leBytes 4 (Config.spdmWord 2).toNat
    { s with spdm := { s.spdm with caps := true } }.answer req rsp

/-- NEGOTIATE_ALGORITHMS (R68): RSASSA-3072 and SHA-384, as far as the requester offers them. -/
def execNegotiateAlgorithms (req : List Byte) (s : State) : Outcome :=
  asSpdm 0xE3 16 (fun p => p.caps && !p.algs) req s fun s =>
    let pick (o b : Nat) : Nat := if field req o 4 / b % 2 = 1 then b else 0
    let rsp := spdmHead 0x63 0 0 ++ leBytes 2 36 ++ [1, 0] ++ leBytes 4 4 ++ leBytes 4 (pick 8 4) ++ leBytes 4 (pick 12 2) ++ List.replicate 16 0
    { s with spdm := { s.spdm with algs := true } }.answer req rsp

def certDigest : List Byte := digestBytes (Config.sha384 Config.certChain)

/-- GET_DIGESTS (R68): slot 0. -/
def execGetDigests (req : List Byte) (s : State) : Outcome :=
  asSpdm 0x81 4 (·.algs) req s fun s => s.answer req (spdmHead 0x01 0 1 ++ certDigest)

/-- GET_CERTIFICATE (R68): a portion of slot 0's chain. -/
def execGetCertificate (req : List Byte) (s : State) : Outcome :=
  asSpdm 0x82 8 (·.algs) req s fun s =>
    let off := field req 4 2
    if field req 2 1 ≠ 0 || off ≥ Config.certChain.length then s.answerError invalidRequest
    else
      let part := (Config.certChain.drop off).take (field req 6 2)
      s.answer req (spdmHead 0x02 0 0 ++ leBytes 2 part.length ++ leBytes 2 (Config.certChain.length - off - part.length) ++ part)

/-- Fresh bytes of a response. -/
def freeBytes (n k : Nat) : List Byte := (List.range k).map fun i => (Config.freeWord (n + i)).setWidth 8

/-- R69: the signed end of a response: the SLH-DSA signature as opaque data and the RSA signature, both over the digest of the transcript. -/
def signed (transcript : List Byte) : List Byte :=
  let d := Config.sha384 transcript
  leBytes 2 (Config.slhSign d).length ++ Config.slhSign d ++ Config.rsaSign d

/-- CHALLENGE (R68, R69). -/
def execChallenge (req : List Byte) (s : State) : Outcome :=
  asSpdm 0x83 36 (·.algs) req s fun s =>
    if field req 2 1 ≠ 0 then s.answerError invalidRequest
    else
      let summary := if field req 3 1 = 0 then [] else digestBytes (Config.sha384 ((List.range 7).flatMap fun i => s.measurementBlock (i + 1)))
      let rsp := spdmHead 0x03 0 1 ++ certDigest ++ freeBytes s.freeCtr 32 ++ summary
      (s.skip 32).answer req (rsp ++ signed (s.spdm.transcript ++ req ++ rsp))

/-- GET_MEASUREMENTS (R68-R70): the number of blocks, one block or all of them, signed when asked. -/
def execGetMeasurements (req : List Byte) (s : State) : Outcome :=
  asSpdm 0xE0 (if field req 2 1 % 2 = 1 then 37 else 4) (·.algs) req s fun s =>
    let op := field req 3 1
    let ids := if op = 0 then [] else if op = 0xFF then [1, 2, 3, 4, 5, 6, 7] else [op]
    if ids.any (· > 7) then s.answerError invalidRequest
    else
      let recs := ids.flatMap s.measurementBlock
      let rsp := spdmHead 0x60 (if op = 0 then 7 else 0) 0 ++ [BitVec.ofNat 8 ids.length] ++ leBytes 3 recs.length ++ recs ++ freeBytes s.freeCtr 32
      (s.skip 32).answer req (rsp ++ if field req 2 1 % 2 = 1 then signed (s.spdm.transcript ++ req ++ rsp) else leBytes 2 0)

end Sys2Proof.Machine
end

