-- ==== Sys2Proof/Machine/Tiles.lean ====
section
/-! DEFINITION. The tile pass: tile blocks, hierarchical depth, attribute and pixel groups, the PIX instructions, the resolve, and the
retirement of blocks (R124, R165-R174, R391, R467, R473, R476, R509). -/
namespace Sys2Proof.Machine

/-! ### Tiles (R168) -/

/-- R168, R509: the tile buffer as it is loaded; none while a page is pending. -/
def State.loadTile (s : State) (lid ck : Nat) (g : GfxSt) (tile : Nat) : State × Option (KMap Byte) :=
  let zeros : KMap Byte := (List.range (tileBytes g.targets g.depth.isSome)).map fun i => (i, 0)
  ((List.range 5).flatMap (g.rows tile)).foldl (fun r row =>
    match r.2 with
    | none => r
    | some m => match r.1.ffRead lid ck row.va row.bytes with
      | (s, none) => (s, none)
      | (s, some l) => (s, some (l.zipIdx.foldl (fun m x => kset m (row.off + x.2) (x.1.getD 0)) m))) (s, some zeros)

/-- Where a row of a surface lies. -/
def Row.range (r : Row) : DWord × Nat := (r.va, r.bytes)

/-- R168: a tile's block is placed on its die, once a group of the launch would fit beside the tile buffer; its groups start later. -/
def State.placeTile (s : State) (lid : Nat) (l : Launch) (g : GfxSt) (die tile : Nat) : Option State :=
  let sh : Shape := { groups := [(l.recd.vregs, l.recd.sregs)], spm := tileBytes g.targets g.depth.isSome }
  match (s.dieOrder (partOfCtx l.ctx) die).findSome? fun k => s.tryCore l.ctx k sh [] with
  | none => none
  | some cl => match s.loadTile lid l.ctx g tile with
    | (s, none) => some s
    | (s, some buf) =>
      let s := s.ffDone lid (((List.range 5).flatMap (g.rows tile)).map Row.range)
      let blk := { s.gfxBlock lid .tile { tile := tile, todo := (kget g.lists tile).getD [] } with spm := buf }
      match (s.skip 3).seat l.ctx blk { cl with groups := [] } [] with
      | (s, bid) =>
        let s := (s.modBlock bid fun b => { b with ngrp := 1 }).modPart (partOfCtx l.ctx) fun p => p.setPointer die (cl.core + 1)
        some (s.modGfx lid fun g => { g with tiles := g.tiles.filter (· ≠ tile) })

/-- R166, R167: a tile pass is over: the lists are emptied and binning goes on, or nothing is left to place. -/
def State.endPass (s : State) (lid : Nat) (g : GfxSt) : State :=
  if g.last then (s.modGfx lid fun g => { g with placing := false }).checkDone lid
  else if s.blocks.any fun e => e.2.launch = lid && e.2.prog = .tile then s
  else s.modGfx lid fun g => { g with inTiles := false, lists := [], binned := 0 }

/-- TILE_PASS_START (R167, R168): the next tile of one of the dies, in row-major order on each, past one whose load waits (R509); which die's scheduler is
first is free. -/
def execTilePassStart (lid : Nat) (s : State) : Outcome :=
  match kget s.launches lid, s.gfxOf lid with
  | some l, some g =>
    if !g.inTiles || (s.part (partOfCtx l.ctx)).paused then .next s
    else if g.tiles = [] then .next (s.endPass lid g)
    else if !s.gfxTurn lid l then .next s
    else
      let dies := s.gfxDies (partOfCtx l.ctx)
      let order := if Config.freeBool s.freeCtr then [0, 1] else [1, 0]
      let s := (s.skip 1).offerCores (partOfCtx l.ctx)
      .next ((order.findSome? fun die =>
        match g.tiles.find? fun t => tileOwner dies g.width t = die && !g.tileWaits t with
        | some t => s.placeTile lid l g die t
        | none => none).getD s)
  | _, _ => .next s

/-! ### The depth test and the outputs of pixel groups (R170, R473) -/

/-- R170: the depth test applies. -/
def GfxSt.tested (g : GfxSt) (st : Word) : Bool := stDtest st && g.depth.isSome

/-- The bytes of a pixel in a tile buffer. -/
def Block.pixel (b : Block) (g : GfxSt) (rt x y : Nat) : List Byte :=
  (List.range (g.pixelBytes rt)).map fun i => (kget b.spm (g.pixelOff rt x y + i)).getD 0
def Block.setPixel (b : Block) (g : GfxSt) (rt x y : Nat) (l : List Byte) : Block :=
  { b with spm := (l.take (g.pixelBytes rt)).zipIdx.foldl (fun m e => Machine.kset m (g.pixelOff rt x y + e.2) e.1) b.spm }

/-- R170: whether a depth passes at a pixel. -/
def Block.passes (b : Block) (g : GfxSt) (st : Word) (x y : Nat) (z : Word) : Bool :=
  !g.tested st || dfuncPass (stDfunc st) z (word32 (b.pixel g 4 x y))

/-- R170, R473: what one thread of a group that has ended writes. Without NOZOUT it takes the test now, with its pending depth or v2. -/
def Block.commitThread (b : Block) (g : GfxSt) (st : Word) (e : Ended) (t : Nat) : Block :=
  match kget e.gfx.px t with
  | none => b
  | some p =>
    let o := (kget e.gfx.out t).getD {}
    let z := if stNozout st then p.depth else o.depth.getD (sget e.v2 t)
    if p.x ≥ g.width || p.y ≥ g.height || (!stNozout st && !b.passes g st p.x p.y z) then b
    else
      let b := o.colours.foldl (fun b c => match g.surf c.1 with
        | some f => b.setPixel g c.1 p.x p.y (pixelWrite f.format c.2)
        | none => b) b
      if stDwrite st && g.depth.isSome then b.setPixel g 4 p.x p.y (leBytes 4 z.toNat) else b

/-- R473: the outputs of the pixel groups of a tile that have ended reach the tile buffer, in the order of their ends. -/
def State.commitPixels (s : State) (lid bid : Nat) : State :=
  match s.gfxOf lid with
  | none => s
  | some g => s.modBlock bid fun b =>
    let b' := b.gfx.ended.foldl (fun b e =>
      (bitsOf (e.m1 &&& ~~~e.gfx.dropped)).foldl (fun b t => b.commitThread g (((kget g.draws e.gfx.draw).map (·.pstate)).getD 0) e t) b) b
    { b' with gfx := { b'.gfx with ended := [] } }

/-- What the groups of a block that have ended leave behind, in its tile buffer or with its launch. -/
def State.settleEnded (s : State) (lid bid : Nat) : State :=
  match kget s.blocks bid with
  | none => s
  | some b => if b.prog = .tile then s.commitPixels lid bid else if b.prog = .compute then s else s.collect b bid

/-! ### Hierarchical depth (R171-R173) -/

/-- The address of the entry of the 8×8 block that holds a pixel. -/
def GfxSt.hizAddr (g : GfxSt) (bx by_ : Nat) : DWord := g.hiz + BitVec.ofNat 64 (8 * (by_ * ((g.width + 7) / 8) + bx))

/-- The entries of the 8×8 blocks of a tile. -/
def GfxSt.hizRanges (g : GfxSt) (tile : Nat) : List (DWord × Nat) :=
  (List.range 4).map fun i => (g.hizAddr (4 * g.tileX tile) (4 * g.tileY tile + i), 32)

/-- R509: the bounds of a block; none while a page is pending. -/
def State.hizRead (s : State) (lid ck : Nat) (g : GfxSt) (bx by_ : Nat) : State × Option (Word × Word) :=
  match s.ffRead lid ck (g.hizAddr bx by_) 8 with
  | (s, none) => (s, none)
  | (s, some l) => match allSome l with
    | some l => (s, some (word32 (l.take 4), word32 (l.drop 4)))
    | none => (s, some (0x7F800000#32, 0xFF800000#32))

/-- The covered pixels of a triangle in an 8×8 block that are kept, and the bounds that an early update writes there. -/
structure HizBlock where
  bx : Nat
  by_ : Nat
  pixels : List (Nat × Nat)
  update : Option (Word × Word) := none
  deriving DecidableEq, Repr

/-- The covered pixels of one 8×8 block, and how many pixels of the render area it has. -/
def GfxSt.coverBlock (g : GfxSt) (p : Prim) (bx by_ : Nat) : List (Nat × Nat) × Nat :=
  let all := (List.range 64).filterMap fun i =>
    let x := 8 * bx + i % 8
    let y := 8 * by_ + i / 8
    if x < g.width && y < g.height then some (x, y) else none
  (all.filter fun c => p.covers g.width g.height c.1 c.2, all.length)

/-- R171-R173: the blocks of a tile in which a triangle keeps covered pixels; none while a page of the buffer is pending. -/
def State.keepBlocks (s : State) (lid ck : Nat) (g : GfxSt) (st : Word) (p : Prim) (tile : Nat) : State × Option (List HizBlock) :=
  let fn := stDfunc st
  (List.range 16).foldl (fun r i =>
    match r.2 with
    | none => r
    | some acc =>
      let bx := 4 * g.tileX tile + i % 4
      let by_ := 4 * g.tileY tile + i / 4
      match g.coverBlock p bx by_ with
      | (px, n) =>
        if px = [] then r
        else if !g.tested st then (r.1, some (acc ++ [{ bx := bx, by_ := by_, pixels := px }]))
        else match r.1.hizRead lid ck g bx by_ with
          | (s, none) => (s, none)
          | (s, some (far, near)) =>
            let range := depthRange (p.corners g.width g.height (8 * bx) (8 * by_) (min (8 * bx + 8) g.width) (min (8 * by_ + 8) g.height))
            if hizRejects fn range far near then (s, some acc)
            else
              let early := stDwrite st && stNodiscard st && stNozout st && [1, 2, 4, 5].contains fn && px.length = n
              (s, some (acc ++ [{ bx := bx, by_ := by_, pixels := px, update := if early then some (hizEarly fn range far near) else none }])))
    (s, some [])

/-- R173, R509: the early updates of a triangle are written together, once none of them waits; false while one does. -/
def State.earlyUpdates (s : State) (lid ck : Nat) (g : GfxSt) (l : List HizBlock) : State × Bool :=
  match s.ffWrites lid ck (l.filterMap fun b => b.update.map fun u => (g.hizAddr b.bx b.by_, leBytes 4 u.1.toNat ++ leBytes 4 u.2.toNat)) with
  | (s, o) => (s, o.isSome)

/-- R169: the quads of a tile with their covered pixels, row by row (log 35), 32 to a group. -/
def quadGroups (px : List (Nat × Nat)) : List (List (Nat × Nat)) :=
  let bits (q : Nat) : Nat := (px.filterMap fun c =>
    if c.2 % 32 / 2 * 16 + c.1 % 32 / 2 = q then some (2 ^ (c.1 % 2 + 2 * (c.2 % 2))) else none).sum
  let quads := (List.range 256).filterMap fun q => if bits q = 0 then none else some (q, bits q)
  (List.range ((quads.length + 31) / 32)).map fun i => (quads.drop (32 * i)).take 32

/-! ### Attribute groups (R168, R467) -/

/-- R168: the attribute program of a triangle on a die is running. -/
def State.attrRuns (s : State) (lid seq die : Nat) : Bool :=
  s.blocks.any fun e => e.2.launch = lid && e.2.prog = .attr && e.2.gfx.seq = seq && s.dieOf e.2.core = die

/-- The attribute program of a triangle is placed on a die. -/
def State.placeAttr (s : State) (lid : Nat) (l : Launch) (p : Prim) (d : Draw) (die : Nat) : State :=
  match (s.dieOrder (partOfCtx l.ctx) die).findSome? fun k => s.tryCore l.ctx k { groups := [(l.recd.vregs, l.recd.sregs)] } [] with
  | none => s
  | some cl =>
    let st : Start := { vregs := l.recd.vregs, sregs := l.recd.sregs, pc := d.prog1, m0 := lowMask 3, s := (gfxArgs l.recd d p.draw 0).take 5
                        gfx := { draw := p.draw, first := 3 * p.tri } }
    s.admitGfx l (s.gfxBlock lid .attr { draw := p.draw, seq := p.seq }) cl st (vertexRegs (3 * p.tri) 3)

/-- R168: the next triangle of a tile: without covered pixels it is done; otherwise its attributes are made, or its groups may start. -/
def State.nextPrim (s : State) (lid : Nat) (l : Launch) (g : GfxSt) (bid : Nat) (b : Block) (p : Prim) (rest : List Prim) : State :=
  match kget g.draws p.draw with
  | none => s.modBlock bid fun b => { b with gfx := { b.gfx with todo := rest } }
  | some d => match s.keepBlocks lid l.ctx g d.pstate p b.gfx.tile with
    | (s, none) => s
    | (s, some []) => (s.ffDone lid (g.hizRanges b.gfx.tile)).modBlock bid fun b => { b with gfx := { b.gfx with todo := rest } }
    | (s, some kept) =>
      let die := s.dieOf b.core
      match (if d.mesh then some p.attrs else kget g.attrCache (2 * p.seq + die)) with
      | none => if s.attrRuns lid p.seq die then s else s.placeAttr lid l p d die
      | some attrs => match s.earlyUpdates lid l.ctx g kept with
        | (s, false) => s
        | (s, true) => (s.ffDone lid (g.hizRanges b.gfx.tile)).modBlock bid fun b => { b with gfx := { b.gfx with
            todo := rest, cur := some { p with attrs := attrs }, quads := quadGroups (kept.flatMap (·.pixels))
            touched := (b.gfx.touched ++ kept.map fun k => k.by_ * ((g.width + 7) / 8) + k.bx).eraseDups } }

/-! ### Pixel groups (R169, R170, R467) -/

/-- The pixels of the threads of a pixel group: thread 4 i + j is pixel j of quad i. -/
def quadPixels (g : GfxSt) (tile : Nat) (quads : List (Nat × Nat)) : List (Nat × Nat × Bool) :=
  quads.flatMap fun q => (List.range 4).map fun j =>
    (32 * g.tileX tile + 2 * (q.1 % 16) + j % 2, 32 * g.tileY tile + 2 * (q.1 / 16) + j / 2, q.2 / 2 ^ j % 2 = 1)

/-- R467: depth, weights and slots of a pixel; a value that the interpolation does not give is free (log 4). -/
def pixelValues (g : GfxSt) (p : Prim) (slots seed x y : Nat) : Word × List Word :=
  let q := screenPt g.width g.height (2 * x + 1) (2 * y + 1)
  let val (i : Nat) (v : Option Val) : Word := match v with | some v => toF32 .rne v | none => Config.freeWord (seed + i)
  let b1 := val 1 (p.weight q false)
  let b2 := val 2 (p.weight q true)
  let a (i j : Nat) : Word := sget ((p.attrs[i]?).getD []) j
  (val 0 (p.depthAt q), b1 :: b2 :: (List.range slots).map fun j => slotValue (a 0 j) (a 1 j) (a 2 j) b1 b2)

/-- A pixel group starts. -/
def State.startPixels (s : State) (l : Launch) (g : GfxSt) (bid : Nat) (b : Block) (p : Prim) (d : Draw) (quads : List (Nat × Nat))
    (rest : List (List (Nat × Nat))) (cp : Nat) : State :=
  let slots := min 16 (l.recd.vregs - 8)
  let ths := (quadPixels g b.gfx.tile quads).zipIdx
  let vals := ths.map fun x => (x.2, x.1, pixelValues g p slots (s.freeCtr + 3 * x.2) x.1.1 x.1.2.1)
  let v : Sparse 32 := ssets [] (vals.flatMap fun x =>
    [(x.1, BitVec.ofNat 32 x.2.1.1), (128 + x.1, BitVec.ofNat 32 x.2.1.2.1), (256 + x.1, x.2.2.1)] ++
      x.2.2.2.zipIdx.map fun w => (128 * (if w.2 < 2 then 3 + w.2 else 6 + w.2) + x.1, w.1))
  let px : KMap PixIn := vals.map fun x => (x.1, { x := x.2.1.1, y := x.2.1.2.1, depth := x.2.2.1 })
  let m1 := maskOf (vals.filterMap fun x =>
    if x.2.1.2.2 && (!stNozout d.pstate || b.passes g d.pstate x.2.1.1 x.2.1.2.1 x.2.2.1) then some x.1 else none)
  let st : Start := { vregs := l.recd.vregs, sregs := l.recd.sregs, pc := d.pixpc, m0 := lowMask ths.length, m1 := m1
                      s := gfxArgs l.recd d p.tri p.draw, gfx := { draw := p.draw, quads := quads.map (·.1), px := px } }
  ((s.skip 384).startIn l.ctx bid b.core cp 0 st v).1.modBlock bid fun b => { b with gfx := { b.gfx with quads := rest } }

/-- R169: whether a running group of a block touches one of the quads. -/
def State.quadsBusy (s : State) (bid : Nat) (quads : List (Nat × Nat)) : Bool :=
  s.groups.any fun e => e.2.block = bid && e.2.gfx.quads.any fun q => quads.any fun x => x.1 = q

/-- PIXEL_GROUP_START (R168, R169): the next pixel group of a tile starts, or its next triangle is taken up. -/
def execPixelGroupStart (bid : Nat) (s : State) : Outcome :=
  match kget s.blocks bid with
  | none => .next s
  | some b0 => match kget s.launches b0.launch, s.gfxOf b0.launch with
    | some l, some g =>
      let s := s.settleEnded b0.launch bid
      match kget s.blocks bid with
      | none => .next s
      | some b =>
        if b.prog ≠ .tile || !b.resident || (s.part (partOfCtx l.ctx)).paused || (s.core b.core).preempting then .next s
        else match b.gfx.quads, b.gfx.cur with
          | q :: rest, some p =>
            match kget g.draws p.draw, s.tryGroup l.ctx b.core (l.recd.vregs, l.recd.sregs) (s.groups.all fun e => e.2.block ≠ bid) with
            | some d, some cp => if s.quadsBusy bid q then .next s else .next (s.startPixels l g bid b p d q rest cp)
            | _, _ => .next s
          | _, _ => match b.gfx.todo with
            | p :: rest => .next (s.nextPrim b.launch l g bid b p rest)
            | [] => .next s
    | _, _ => .next s

/-! ### PIX (R473, R174) -/

/-- R473: an instruction that only a pixel program may execute. -/
def pixInstr (sh : Sheet) (f : F3) (s : State) (body : Env → GfxSt → Word → State → State) : Outcome :=
  withF3If (fun e => e.b.prog = .tile && e.gfx.isSome) sh f s fun e s =>
    match e.gfx with
    | some g => body e g (((kget g.draws e.g.gfx.draw).map (·.pstate)).getD 0) s
    | none => s.illegalInstr e

/-- R473: the threads of Pred AND m1. -/
def Group.active1 (g : Group) (f : F3) : Mask := g.pred f.pm.toNat &&& g.regs.mget 1

def GroupGfx.modOut (g : GroupGfx) (t : Nat) (f : PixOut → PixOut) : GroupGfx := { g with out := kset g.out t (f ((kget g.out t).getD {})) }

/-- R174: PIPE_STATE; every quad of the group keeps its values from before it. -/
def State.pipeState (s : State) (e : Env) (m : Mask) : State :=
  (s.modGroupGfx e.gid fun g => { g with dropped := BitVec.allOnes 128 }).takeTrap e.gid
    { cause := causePipeState, pc := e.g.pc, mask := m, addr := e.word }

/-- PIXOUT (R473). -/
def execPixout (f : F3) (s : State) : Outcome :=
  pixInstr (predX 2 .zero (vReg 4 4) .zero f) f s fun e g _ s =>
    if (g.surf f.x.toNat).isNone then s.illegalOperand e
    else (s.modGroupGfx e.gid fun gg => (bitsOf (e.g.active1 f)).foldl (fun gg t =>
      gg.modOut t fun o => { o with colours := kset o.colours f.x.toNat ((List.range 4).map fun i => e.g.srcAt f.a t i) }) gg).advance e.gid

/-- ZOUT (R473, R174). A constant is an f32 (log 24). -/
def execZout (f : F3) (s : State) : Outcome :=
  pixInstr (predPlain .zero (anySrc 1) .zero f) f s fun e _ st s =>
    let m := e.g.active1 f
    if stNozout st && m ≠ 0 then s.pipeState e m
    else (s.modGroupGfx e.gid fun gg => (bitsOf m).foldl (fun gg t => gg.modOut t fun o => { o with depth := some (e.g.src 8 f.a t) }) gg).advance e.gid

/-- DISCARD (R473, R174). -/
def execDiscard (f : F3) (s : State) : Outcome :=
  pixInstr (predPlain .zero .zero .zero f) f s fun e _ st s =>
    let m := e.g.active1 f
    if stNodiscard st && m ≠ 0 then s.pipeState e m
    else (s.modGroupGfx e.gid fun gg => { gg with out := gg.out.filter fun x => !m.getLsbD x.1 }).finish e
      (e.g.regs.mset 1 (e.g.regs.mget 1 &&& ~~~m))

/-- PIXLD (R473): helpers read their own pixels, and a pixel outside the render area reads 0. -/
def execPixld (f : F3) (s : State) : Outcome :=
  pixInstr (pixldSheet f) f s fun e g _ s =>
    let z := f.x.getLsbD 2
    let rt := if z then 4 else (f.x.extractLsb' 0 2).toNat
    match g.surf rt with
    | none => s.illegalOperand e
    | some sf =>
      let vals (t : Nat) : List Word := match kget e.g.gfx.px t with
        | some p =>
          if p.x ≥ g.width || p.y ≥ g.height then [0, 0, 0, 0]
          else if z then [word32 (e.b.pixel g 4 p.x p.y)] else pixelRead sf.format (e.b.pixel g rt p.x p.y)
        | none => [0, 0, 0, 0]
      s.finish e (e.g.regs.vwrite (regOf f.d) (e.g.pred f.pm.toNat) (if z then 1 else 4) fun t k => ((vals t)[k]?).getD 0)

/-! ### The resolve (R93, R94, R170, R172) -/

/-- One piece of a tile's resolve. -/
inductive ResolveItem
  | suppressed (r : Row)
  | row (r : Row)
  | bounds (blk : Nat)
  deriving DecidableEq, Repr

/-- R170: the targets of a tile in ascending address order. -/
def GfxSt.byAddress (g : GfxSt) : List Nat :=
  let l := (List.range 5).filterMap fun rt => (g.surf rt).map fun f => (rt, f.base.toNat)
  (l.mergeSort fun a b => a.2 ≤ b.2).map (·.1)

/-- R93, R170, R172: what the resolve of a tile does, in order. -/
def resolveItems (brand : BitVec 16) (g : GfxSt) (b : Block) : List ResolveItem :=
  (g.byAddress.flatMap fun rt => match g.surf rt with
    | some f => if f.brand = brand then (g.rows b.gfx.tile rt).map .row else (g.rows b.gfx.tile rt).map .suppressed
    | none => []) ++ if g.depth.isSome then b.gfx.touched.map .bounds else []

/-- R172: the greatest and least depths that a tile buffer holds in an 8×8 block. -/
def Block.bounds (b : Block) (g : GfxSt) (blk : Nat) : Word × Word :=
  let bw := (g.width + 7) / 8
  let zs := (List.range 64).filterMap fun i =>
    let x := 8 * (blk % bw) + i % 8
    let y := 8 * (blk / bw) + i / 8
    if x < g.width && y < g.height then some (word32 (b.pixel g 4 x y)) else none
  match zs with
  | [] => (0, 0)
  | z :: r => (r.foldl f32Max z, r.foldl f32Min z)

/-- One piece of the resolve; false while a page is pending. -/
def State.resolveOne (s : State) (lid ck : Nat) (g : GfxSt) (b : Block) : ResolveItem → State × Bool
  | .suppressed r => match s.ffSuppress lid ck r.va r.bytes with
    | (s, none) => (s, false)
    | (s, some k) => (s.modCtx ck fun c => { c with suppressed := c.suppressed + k * r.pixels / r.bytes }, true)
  | .row r => match s.ffWrite lid ck r.va ((List.range r.bytes).map fun i => (kget b.spm (r.off + i)).getD 0) with
    | (s, o) => (s, o.isSome)
  | .bounds blk =>
    let bw := (g.width + 7) / 8
    let z := b.bounds g blk
    match s.ffWrite lid ck (g.hizAddr (blk % bw) (blk / bw)) (leBytes 4 z.1.toNat ++ leBytes 4 z.2.toNat) with
    | (s, o) => (s, o.isSome)

/-- Where a piece of the resolve lies. -/
def ResolveItem.range (g : GfxSt) : ResolveItem → DWord × Nat
  | .suppressed r | .row r => r.range
  | .bounds blk => (g.hizAddr (blk % ((g.width + 7) / 8)) (blk / ((g.width + 7) / 8)), 8)

/-- R170: the resolve goes on from where it stands; true when it is complete. -/
def State.resolveTile (s : State) (lid ck : Nat) (g : GfxSt) (bid : Nat) (b : Block) : State × Bool :=
  ((resolveItems (s.ctx ck).brand g b).drop b.gfx.resolved).foldl (fun r it =>
    if !r.2 then r
    else match r.1.resolveOne lid ck g b it with
      | (s, true) => ((s.ffDone lid [it.range g]).modBlock bid fun b => { b with gfx := { b.gfx with resolved := b.gfx.resolved + 1 } }, true)
      | (s, false) => (s, false)) (s, true)

/-! ### The retirement of a block (R124) -/

/-- R124: whether everything that a block's retirement waits for has come about; its last group may wait at its END. -/
def State.mayRetire (s : State) (bid : Nat) (b : Block) : Bool :=
  b.resident && b.quiet && !b.more && !(s.core b.core).pipe.any (fun o => o.bid = bid) &&
    match s.groups.filter fun e => e.2.block = bid with
    | [] => true
    | [e] => e.2.waitFor = .children
    | _ => false

/-- R124: the block is gone, with the group that waited for it, and what it held is free; a barrier of its team may complete (R393). -/
def State.removeBlock (s : State) (bid : Nat) (b : Block) : State :=
  let s := ((s.groups.filter fun e => e.2.block = bid).foldl (fun s e => s.dropGroup e.1) s).tryBarriers bid
  let s := s.leaveRing bid b
  let s := s.retireGraphBlock bid b b.launch
  ({ s with blocks := kdel s.blocks bid }.settlePool b.launch).checkDone b.launch

/-- BLOCK_RETIRE (R124, R125, R170): a tile block is resolved first. -/
def execBlockRetire (bid : Nat) (s : State) : Outcome :=
  match kget s.blocks bid with
  | none => .next s
  | some b0 =>
    if !s.mayRetire bid b0 then .next s
    else
      let s := s.settleEnded b0.launch bid
      match kget s.blocks bid, kget s.launches b0.launch, s.gfxOf b0.launch with
      | some b, some l, some g =>
        if b.prog = .tile then match s.resolveTile b.launch l.ctx g bid b with
          | (s, true) => .next (s.removeBlock bid b)
          | (s, false) => .next s
        else .next (s.removeBlock bid b)
      | some b, _, _ => .next (s.removeBlock bid b)
      | none, _, _ => .next s

/-! ### END and MESHEND (R391, R476) -/

/-- R391: the group ends; its outputs count, and in a travelling launch what it held is free. -/
def State.endProgram (s : State) (e : Env) : State :=
  if e.travel then
    let s := s.endTravelGroup e.gid e.g e.b
    let s := match kget s.blocks e.g.block with | some b => if b.quiet then { s with blocks := kdel s.blocks e.g.block } else s | none => s
    (s.settlePool e.b.launch).checkDone e.b.launch
  else (s.endGroup e.gid).settleEnded e.b.launch e.g.block

/-- END (R391, R124, R155). -/
def execEndI (f : F3) (s : State) : Outcome :=
  withF3 (scalarPlain .zero .zero .zero f) f s fun e s => s.endProgram e

/-- MESHEND (R476). -/
def execMeshend (f : F3) (s : State) : Outcome :=
  withF3If (·.b.prog = .mesh) (scalarPlain .zero (sSrc 1) (sSrc 1) f) f s fun e s =>
    let a := (e.g.s32 f.a).toNat
    let b := (e.g.s32 f.b).toNat
    if a > 128 || b > 256 then s.illegalOperand e
    else (s.modGroupGfx e.gid fun g => { g with counts := some (a, b) }).endProgram e

end Sys2Proof.Machine
end

