-- ==== Sys2Proof/Machine/Vector.lean ====
section
/-! DEFINITION. The vector instructions of OPs 0x20 to 0x24 and 0x30 to 0x33, and the paired word (R404-R421, R331). -/
namespace Sys2Proof.Machine

/-! ### Integer arithmetic (R408) -/

/-- One element's result from A, B and D, with its width and whether its type is signed. -/
abbrev ElemOp := (w : Nat) → Bool → BitVec w → BitVec w → BitVec w → BitVec w

/-- R404: a register from three registers, element by element. -/
def mapElems (ty : Nat) (op : ElemOp) (a b d : Word) : Word :=
  let w := elemBits ty
  let el (x : Word) (i : Nat) : BitVec w := BitVec.ofNat w (elem ty x i)
  packElems ty fun i => (op w (tySigned ty) (el a i) (el b i) (el d i)).toNat

/-- R322: the immediate in the width of the elements, in every element. -/
def immElems (ty : Nat) (v : Word) : Word := packElems ty fun _ => v.toNat % 2 ^ elemBits ty

/-- A VALU word with two sources. -/
def valu (tys : List Nat) (f : F3) (s : State) (op : ElemOp) : Outcome :=
  withF3 (valuSheet tys 0 true f) f s fun e s =>
    let ty := f.ty.toNat
    s.finishV e f.pm f.d 1 fun t _ => mapElems ty op (e.g.src ty f.a t) (e.g.src ty f.b t) (e.g.regs.vget (regOf f.d) t)
/-- A VALUI word. -/
def valuI (tys : List Nat) (f : FI) (s : State) (op : ElemOp) : Outcome :=
  withFI (valuiSheet tys f) f s fun e s =>
    let ty := f.ty.toNat
    s.finishV e f.pm f.d 1 fun t _ =>
      mapElems ty op (e.g.src ty f.a t) (immElems ty (imm32 f)) (e.g.regs.vget (regOf f.d) t)

/-- A VALU word of whole 32-bit registers. -/
def valu32 (k : Nat) (hasB : Bool) (f : F3) (s : State) (op : Word → Word → Word → Word) : Outcome :=
  withF3 (valuSheet [0] k hasB f) f s fun e s =>
    s.finishV e f.pm f.d 1 fun t _ => op (e.g.src 0 f.a t) (e.g.src 0 f.b t) (e.g.regs.vget (regOf f.d) t)
def valu32I (f : FI) (s : State) (op : Word → Word → Word → Word) : Outcome :=
  withFI (valuiSheet [0] f) f s fun e s =>
    s.finishV e f.pm f.d 1 fun t _ => op (e.g.src 0 f.a t) (imm32 f) (e.g.regs.vget (regOf f.d) t)

/-- VADD (R408). -/
def execVadd (f : F3) (s : State) : Outcome := valu intTys f s fun _ _ a b _ => a + b
/-- VSUB (R408). -/
def execVsub (f : F3) (s : State) : Outcome := valu intTys f s fun _ _ a b _ => a - b
/-- VMUL (R408). -/
def execVmul (f : F3) (s : State) : Outcome := valu intTys f s fun _ _ a b _ => a * b
/-- VSHL (R408). -/
def execVshl (f : F3) (s : State) : Outcome := valu [0, 2, 4] f s fun _ _ a b _ => shl a b
/-- VSHR (R408). -/
def execVshr (f : F3) (s : State) : Outcome := valu [0, 2, 4] f s fun _ _ a b _ => shr a b
/-- VSAR (R408). -/
def execVsar (f : F3) (s : State) : Outcome := valu [0, 2, 4] f s fun _ _ a b _ => sar a b
/-- VMIN (R408). -/
def execVmin (f : F3) (s : State) : Outcome := valu intTys f s fun _ sg a b _ => if sg then minS a b else minU a b
/-- VMAX (R408). -/
def execVmax (f : F3) (s : State) : Outcome := valu intTys f s fun _ sg a b _ => if sg then maxS a b else maxU a b
/-- VMINU (R408). -/
def execVminu (f : F3) (s : State) : Outcome := valu intTys f s fun _ _ a b _ => minU a b
/-- VMAXU (R408). -/
def execVmaxu (f : F3) (s : State) : Outcome := valu intTys f s fun _ _ a b _ => maxU a b
/-- VADDSAT (R408). -/
def execVaddsat (f : F3) (s : State) : Outcome := valu intTys f s fun _ sg a b _ => addSat sg a b
/-- VSUBSAT (R408). -/
def execVsubsat (f : F3) (s : State) : Outcome := valu intTys f s fun _ sg a b _ => subSat sg a b
/-- VABSDIFF (R408). -/
def execVabsdiff (f : F3) (s : State) : Outcome := valu intTys f s fun _ sg a b _ => absDiff sg a b
/-- VMAD (R408). -/
def execVmad (f : F3) (s : State) : Outcome := valu intTys f s fun _ _ a b d => a * b + d
/-- VMULHI (R408). -/
def execVmulhi (f : F3) (s : State) : Outcome := valu32 0 true f s fun a b _ => mulHi a b
/-- VMULHU (R408). -/
def execVmulhu (f : F3) (s : State) : Outcome := valu32 0 true f s fun a b _ => mulHiU a b
/-- VAND (R408). -/
def execVand (f : F3) (s : State) : Outcome := valu32 0 true f s fun a b _ => a &&& b
/-- VOR (R408). -/
def execVor (f : F3) (s : State) : Outcome := valu32 0 true f s fun a b _ => a ||| b
/-- VXOR (R408). -/
def execVxor (f : F3) (s : State) : Outcome := valu32 0 true f s fun a b _ => a ^^^ b
/-- VBFI (R408). -/
def execVbfi (f : F3) (s : State) : Outcome := valu32 0 true f s fun a b d => bfi d a b
/-- VADD with an immediate (R408). -/
def execVaddI (f : FI) (s : State) : Outcome := valuI intTys f s fun _ _ a b _ => a + b
/-- VSUB with an immediate (R408). -/
def execVsubI (f : FI) (s : State) : Outcome := valuI intTys f s fun _ _ a b _ => a - b
/-- VMUL with an immediate (R408). -/
def execVmulI (f : FI) (s : State) : Outcome := valuI intTys f s fun _ _ a b _ => a * b
/-- VSHL with an immediate (R408). -/
def execVshlI (f : FI) (s : State) : Outcome := valuI [0, 2, 4] f s fun _ _ a b _ => shl a b
/-- VSHR with an immediate (R408). -/
def execVshrI (f : FI) (s : State) : Outcome := valuI [0, 2, 4] f s fun _ _ a b _ => shr a b
/-- VSAR with an immediate (R408). -/
def execVsarI (f : FI) (s : State) : Outcome := valuI [0, 2, 4] f s fun _ _ a b _ => sar a b
/-- VMIN with an immediate (R408). -/
def execVminI (f : FI) (s : State) : Outcome := valuI intTys f s fun _ sg a b _ => if sg then minS a b else minU a b
/-- VMAX with an immediate (R408). -/
def execVmaxI (f : FI) (s : State) : Outcome := valuI intTys f s fun _ sg a b _ => if sg then maxS a b else maxU a b
/-- VMINU with an immediate (R408). -/
def execVminuI (f : FI) (s : State) : Outcome := valuI intTys f s fun _ _ a b _ => minU a b
/-- VMAXU with an immediate (R408). -/
def execVmaxuI (f : FI) (s : State) : Outcome := valuI intTys f s fun _ _ a b _ => maxU a b
/-- VADDSAT with an immediate (R408). -/
def execVaddsatI (f : FI) (s : State) : Outcome := valuI intTys f s fun _ sg a b _ => addSat sg a b
/-- VSUBSAT with an immediate (R408). -/
def execVsubsatI (f : FI) (s : State) : Outcome := valuI intTys f s fun _ sg a b _ => subSat sg a b
/-- VABSDIFF with an immediate (R408). -/
def execVabsdiffI (f : FI) (s : State) : Outcome := valuI intTys f s fun _ sg a b _ => absDiff sg a b
/-- VMAD with an immediate (R408). -/
def execVmadI (f : FI) (s : State) : Outcome := valuI intTys f s fun _ _ a b d => a * b + d
/-- VMULHI with an immediate (R408). -/
def execVmulhiI (f : FI) (s : State) : Outcome := valu32I f s fun a b _ => mulHi a b
/-- VMULHU with an immediate (R408). -/
def execVmulhuI (f : FI) (s : State) : Outcome := valu32I f s fun a b _ => mulHiU a b
/-- VAND with an immediate (R408). -/
def execVandI (f : FI) (s : State) : Outcome := valu32I f s fun a b _ => a &&& b
/-- VOR with an immediate (R408). -/
def execVorI (f : FI) (s : State) : Outcome := valu32I f s fun a b _ => a ||| b
/-- VXOR with an immediate (R408). -/
def execVxorI (f : FI) (s : State) : Outcome := valu32I f s fun a b _ => a ^^^ b
/-- VBFI with an immediate (R408). -/
def execVbfiI (f : FI) (s : State) : Outcome := valu32I f s fun a b d => bfi d a b
/-- VBFE (R408, R380): X[0] extends the sign. -/
def execVbfe (f : F3) (s : State) : Outcome := valu32 1 true f s fun a b _ => bfe (f.x.getLsbD 0) a b
/-- VBFE with an immediate, which extends with zeros (R408). -/
def execVbfeI (f : FI) (s : State) : Outcome := valu32I f s fun a b _ => bfe false a b
/-- VPOPC (R408). -/
def execVpopc (f : F3) (s : State) : Outcome := valu32 0 false f s fun a _ _ => popc32 a
/-- VCLZ (R408). -/
def execVclz (f : F3) (s : State) : Outcome := valu32 0 false f s fun a _ _ => clz32 a

/-- R404: registers `k` of a source of TY 0 or of a pair. -/
def Group.part (g : Group) (ty : BitVec 4) (f : BitVec 11) (t k : Nat) : Word :=
  if ty = 14 then (if k = 0 then lo32 (g.src64 f t) else hi32 (g.src64 f t)) else g.src 0 f t

/-- VMOV (R408). -/
def execVmov (f : F3) (s : State) : Outcome :=
  withF3 (valuSheet [0, 14] 0 false f) f s fun e s =>
    s.finishV e f.pm f.d (tyRegs f.ty) fun t k => e.g.part f.ty f.a t k
/-- VSEL (R408): the selection mask is read whole. -/
def execVsel (f : F3) (s : State) : Outcome :=
  withF3 (valuSheet [0, 14] 4 true f) f s fun e s =>
    let m := e.g.regs.mget f.x.toNat
    s.finishV e f.pm f.d (tyRegs f.ty) fun t k => if m.getLsbD t then e.g.part f.ty f.a t k else e.g.part f.ty f.b t k

/-- R408: d + Σ a_i × b_i, modulo 2^32. -/
def dot4 (ty : Nat) (signed : Bool) (a b d : Word) : Word :=
  let w := elemBits ty
  let v (x : Word) (i : Nat) : Int := intOf signed (BitVec.ofNat w (elem ty x i))
  BitVec.ofInt 32 ((List.range (elemCount ty)).foldl (fun n i => n + v a i * v b i) (d.toNat : Int))
def vdot (tys : List Nat) (signed : Bool) (f : F3) (s : State) : Outcome :=
  withF3 (valuSheet tys 0 true f) f s fun e s =>
    let ty := f.ty.toNat
    s.finishV e f.pm f.d 1 fun t _ => dot4 ty signed (e.g.src ty f.a t) (e.g.src ty f.b t) (e.g.regs.vget (regOf f.d) t)
def vdotI (tys : List Nat) (signed : Bool) (f : FI) (s : State) : Outcome :=
  withFI (valuiSheet tys f) f s fun e s =>
    let ty := f.ty.toNat
    s.finishV e f.pm f.d 1 fun t _ =>
      dot4 ty signed (e.g.src ty f.a t) (immElems ty (imm32 f)) (e.g.regs.vget (regOf f.d) t)
/-- VDOT4 (R408). -/
def execVdot4 (f : F3) (s : State) : Outcome := vdot [4, 6] true f s
/-- VDOT4U (R408). -/
def execVdot4u (f : F3) (s : State) : Outcome := vdot [5, 7] false f s
/-- VDOT4 with an immediate (R408). -/
def execVdot4I (f : FI) (s : State) : Outcome := vdotI [4, 6] true f s
/-- VDOT4U with an immediate (R408). -/
def execVdot4uI (f : FI) (s : State) : Outcome := vdotI [5, 7] false f s

/-- The set bits of a mask below a position. -/
def rankIn (m : Mask) (t : Nat) : Nat := ((List.range t).filter m.getLsbD).length
/-- VIOTA (R408). -/
def execViota (f : F3) (s : State) : Outcome :=
  withF3 (valuSheet [0] 0 false f) f s fun e s =>
    let m := e.g.pred f.pm.toNat
    s.finishV e f.pm f.d 1 fun t _ => e.g.src 0 f.a t + BitVec.ofNat 32 (rankIn m t)

/-! ### Integer compares (R409) -/

def vcmp (c : Cond) (f : F3) (s : State) : Outcome :=
  withF3 (vcmpSheet [0] f) f s fun e s => s.finishCmp e f.pm f.d fun t => c.holds (e.g.src 0 f.a t) (e.g.src 0 f.b t)
def vcmpI (c : Cond) (f : FI) (s : State) : Outcome :=
  withFI (vcmpiSheet f) f s fun e s => s.finishCmp e f.pm f.d fun t => c.holds (e.g.src 0 f.a t) (imm32 f)

/-- VCMPEQ (R409). -/
def execVcmpeq (f : F3) (s : State) : Outcome := vcmp .eq f s
/-- VCMPNE (R409). -/
def execVcmpne (f : F3) (s : State) : Outcome := vcmp .ne f s
/-- VCMPLT (R409). -/
def execVcmplt (f : F3) (s : State) : Outcome := vcmp .lt f s
/-- VCMPLE (R409). -/
def execVcmple (f : F3) (s : State) : Outcome := vcmp .le f s
/-- VCMPLTU (R409). -/
def execVcmpltu (f : F3) (s : State) : Outcome := vcmp .ltu f s
/-- VCMPLEU (R409). -/
def execVcmpleu (f : F3) (s : State) : Outcome := vcmp .leu f s
/-- VCMPGT (R409). -/
def execVcmpgt (f : F3) (s : State) : Outcome := vcmp .gt f s
/-- VCMPGE (R409). -/
def execVcmpge (f : F3) (s : State) : Outcome := vcmp .ge f s
/-- VCMPGTU (R409). -/
def execVcmpgtu (f : F3) (s : State) : Outcome := vcmp .gtu f s
/-- VCMPGEU (R409). -/
def execVcmpgeu (f : F3) (s : State) : Outcome := vcmp .geu f s
/-- VCMPEQ with an immediate (R409). -/
def execVcmpeqI (f : FI) (s : State) : Outcome := vcmpI .eq f s
/-- VCMPNE with an immediate (R409). -/
def execVcmpneI (f : FI) (s : State) : Outcome := vcmpI .ne f s
/-- VCMPLT with an immediate (R409). -/
def execVcmpltI (f : FI) (s : State) : Outcome := vcmpI .lt f s
/-- VCMPLE with an immediate (R409). -/
def execVcmpleI (f : FI) (s : State) : Outcome := vcmpI .le f s
/-- VCMPLTU with an immediate (R409). -/
def execVcmpltuI (f : FI) (s : State) : Outcome := vcmpI .ltu f s
/-- VCMPLEU with an immediate (R409). -/
def execVcmpleuI (f : FI) (s : State) : Outcome := vcmpI .leu f s
/-- VCMPGT with an immediate (R409). -/
def execVcmpgtI (f : FI) (s : State) : Outcome := vcmpI .gt f s
/-- VCMPGE with an immediate (R409). -/
def execVcmpgeI (f : FI) (s : State) : Outcome := vcmpI .ge f s
/-- VCMPGTU with an immediate (R409). -/
def execVcmpgtuI (f : FI) (s : State) : Outcome := vcmpI .gtu f s
/-- VCMPGEU with an immediate (R409). -/
def execVcmpgeuI (f : FI) (s : State) : Outcome := vcmpI .geu f s

/-! ### Moving values between threads (R410) -/

/-- A VXL word that gives each predicated thread the A of a source thread. -/
def vxl (b : Rule) (k : Nat) (f : F3) (s : State) (from_ : Group → Nat → Nat) : Outcome :=
  withF3 (vxlSheet b k f) f s fun e s =>
    s.finishV e f.pm f.d (tyRegs f.ty) fun t j => e.g.part f.ty f.a (from_ e.g t) j

/-- VSHUF (R410). -/
def execVshuf (f : F3) (s : State) : Outcome := vxl (anySrc 1) 0 f s fun g t => (g.src 0 f.b t).toNat % 128
/-- VROT (R410). -/
def execVrot (f : F3) (s : State) : Outcome :=
  vxl (anySrc 1) 0 f s fun g t => (((t : Int) + (g.src 0 f.b t).toInt) % 128).toNat
/-- VBCAST (R410): b is taken as i32 modulo 128. -/
def execVbcast (f : F3) (s : State) : Outcome := vxl (sSrc 1) 0 f s fun g _ => (g.src 0 f.b 0).toNat % 128
/-- R410: the lane within a quad that a pattern names. -/
def swizLane (pat l : Nat) : Nat := if pat ≤ 2 then Nat.xor l (pat + 1) else pat - 3
/-- VSWIZ (R410). -/
def execVswiz (f : F3) (s : State) : Outcome :=
  withF3 (vswizSheet f) f s fun e s =>
    s.finishV e f.pm f.d (tyRegs f.ty) fun t k => e.g.part f.ty f.a (t / 4 * 4 + swizLane f.x.toNat (t % 4)) k
/-- VCOMPACT (R410): threads of a rank that nothing is left for keep their register. -/
def execVcompact (f : F3) (s : State) : Outcome :=
  withF3 (vxlSheet .zero 4 f) f s fun e s =>
    let sel := bitsOf (e.g.regs.mget f.x.toNat &&& e.g.live)
    let m := e.g.pred f.pm.toNat
    s.finishV e f.pm f.d (tyRegs f.ty) fun t k =>
      match sel[rankIn m t]? with
      | some u => e.g.part f.ty f.a u k
      | none => e.g.regs.vget (regOf f.d + k) t

/-- R411: one step of a fold, and the identity, by op code. -/
def foldStep (op : Nat) (r x : Word) : Word :=
  match op with
  | 0 => r + x | 1 => minS r x | 2 => maxS r x | 3 => minU r x | 4 => maxU r x
  | 5 => r &&& x | 6 => r ||| x | 7 => r ^^^ x
  | 8 => f32Add r x | 9 => f32Min r x | _ => f32Max r x
def foldIdentity (op : Nat) : Word :=
  match op with
  | 1 => 0x7FFFFFFF#32 | 2 => 0x80000000#32 | 3 | 5 => 0xFFFFFFFF#32 | 9 => 0x7F800000#32 | 10 => 0xFF800000#32 | _ => 0
/-- R299: a floating-point result that is NaN is the canonical one. -/
def foldNaN (op : Nat) (x : Word) : Word := if 8 ≤ op && (f32 x).isNan then nan32 else x
/-- R411, R299: the fold starts at the first value. -/
def foldVals (op : Nat) (l : List Word) : Word :=
  match l with
  | [] => foldIdentity op
  | x :: r => foldNaN op (r.foldl (foldStep op) x)

/-- VRED (R411): with a scalar D the tags stay (R407). -/
def execVred (f : F3) (s : State) : Outcome :=
  withF3 (vredSheet f) f s fun e s =>
    let m := e.g.pred f.pm.toNat
    let r := foldVals (f.x.extractLsb' 0 4).toNat ((bitsOf m).map fun t => e.g.src f.ty.toNat f.a t)
    if opKind f.d = .scalar then (s.countVector e m).finishS e f.d r else s.finishV e f.pm f.d 1 fun _ _ => r
/-- VSCAN (R411). -/
def execVscan (f : F3) (s : State) : Outcome :=
  withF3 (vscanSheet f) f s fun e s =>
    let m := e.g.pred f.pm.toNat
    let excl := f.x.getLsbD 4
    s.finishV e f.pm f.d 1 fun t _ =>
      foldVals (f.x.extractLsb' 0 4).toNat
        (((bitsOf m).filter fun u => u < t || (u = t && !excl)).map fun u => e.g.src f.ty.toNat f.a u)

/-! ### Floating point (R412-R416) -/

/-- A float register, element by element. -/
def mapVals (ty : Nat) (op : Val → Val → Val → Nat) (a b d : Word) : Word :=
  let v (x : Word) (i : Nat) : Val := (fmtOf ty).decode (elem ty x i)
  packElems ty fun i => op (v a i) (v b i) (v d i)

/-- R412: a VFPU word over f32, packed or f64 operands. -/
def vfpu (tys : List Nat) (m : Nat) (hasB : Bool) (f : F3) (s : State) (op : Fmt → RMode → Val → Val → Val → Nat) : Outcome :=
  withF3 (vfpuSheet tys m hasB f) f s fun e s =>
    let ty := f.ty.toNat
    let o := op (fmtOf ty) (arithMode f.md.toNat)
    if ty = 14 then
      s.finishV e f.pm f.d 2 fun t k =>
        let v (x : BitVec 11) : Val := fmtF64.decode (e.g.src64 x t).toNat
        let r : DWord := BitVec.ofNat 64 (o (v f.a) (v f.b) (fmtF64.decode (pair64 (e.g.regs.vget (regOf f.d) t) (e.g.regs.vget (regOf f.d + 1) t)).toNat))
        if k = 0 then lo32 r else hi32 r
    else s.finishV e f.pm f.d 1 fun t _ => mapVals ty o (e.g.src ty f.a t) (e.g.src ty f.b t) (e.g.regs.vget (regOf f.d) t)

def vfArith (f : F3) (s : State) (op : RMode → Val → Val → Val → Val) : Outcome :=
  vfpu [8, 9, 10, 14] 4 true f s fun ft m a b d => ft.round m (op m a b d)

/-- VFADD (R412, R508). -/
def execVfadd (f : F3) (s : State) : Outcome := vfArith f s fun m a b _ => sumVals m [a, b]
/-- VFSUB (R412, R508). -/
def execVfsub (f : F3) (s : State) : Outcome := vfArith f s fun m a b _ => sumVals m [a, b.neg]
/-- VFMUL (R412). -/
def execVfmul (f : F3) (s : State) : Outcome := vfArith f s fun _ a b _ => a.mul b
/-- VFMA (R412). -/
def execVfma (f : F3) (s : State) : Outcome := vfArith f s fun m a b d => sumVals m [a.mul b, d]
/-- VFMIN (R412, R300). -/
def execVfmin (f : F3) (s : State) : Outcome := vfpu [8, 9, 10] 0 true f s fun ft m a b _ => ft.round m (minNumber a b)
/-- VFMAX (R412, R300). -/
def execVfmax (f : F3) (s : State) : Outcome := vfpu [8, 9, 10] 0 true f s fun ft m a b _ => ft.round m (maxNumber a b)
/-- VFRND (R412). -/
def execVfrnd (f : F3) (s : State) : Outcome := vfpu [8, 9, 10] 4 false f s fun ft m a _ _ => ft.round m (a.integral m)
/-- VFRACT (R413). -/
def execVfract (f : F3) (s : State) : Outcome := vfpu [8, 9, 10] 0 false f s fun ft _ a _ _ => ft.fract a

/-- R414: packed sources, an f32 result. -/
def vhalf (k : Nat) (f : F3) (s : State) (op : RMode → (Nat → Val) → (Nat → Val) → Val → Val) : Outcome :=
  withF3 (vhSheet k f) f s fun e s =>
    let ty := f.ty.toNat
    let m := arithMode f.md.toNat
    s.finishV e f.pm f.d 1 fun t _ =>
      let v (x : BitVec 11) (i : Nat) : Val := (fmtOf ty).decode (elem ty (e.g.src ty x t) i)
      toF32 m (op m (v f.a) (v f.b) (f32 (e.g.regs.vget (regOf f.d) t)))
/-- R414: the elements that X selects. -/
def selA (f : F3) : Nat := (f.x.extractLsb' 0 1).toNat
def selB (f : F3) : Nat := (f.x.extractLsb' 1 1).toNat
/-- VHADD (R414). -/
def execVhadd (f : F3) (s : State) : Outcome := vhalf 2 f s fun m a b _ => sumVals m [a (selA f), b (selB f)]
/-- VHMUL (R414). -/
def execVhmul (f : F3) (s : State) : Outcome := vhalf 2 f s fun _ a b _ => (a (selA f)).mul (b (selB f))
/-- VHFMA (R414). -/
def execVhfma (f : F3) (s : State) : Outcome := vhalf 2 f s fun m a b d => sumVals m [(a (selA f)).mul (b (selB f)), d]
/-- VFDOT2 (R414): one rounding of the exact sum. -/
def execVfdot2 (f : F3) (s : State) : Outcome := vhalf 0 f s fun m a b d => sumVals m [(a 0).mul (b 0), (a 1).mul (b 1), d]

/-- R415. -/
def vfcmp (c : FCond) (f : F3) (s : State) : Outcome :=
  withF3 (vcmpSheet [8, 14] f) f s fun e s =>
    s.finishCmp e f.pm f.d fun t =>
      if f.ty = 14 then c.holds (fmtF64.decode (e.g.src64 f.a t).toNat) (fmtF64.decode (e.g.src64 f.b t).toNat)
      else c.holds (f32 (e.g.src 8 f.a t)) (f32 (e.g.src 8 f.b t))

/-- VFCMPEQ (R415). -/
def execVfcmpeq (f : F3) (s : State) : Outcome := vfcmp .eq f s
/-- VFCMPNE (R415). -/
def execVfcmpne (f : F3) (s : State) : Outcome := vfcmp .ne f s
/-- VFCMPLT (R415). -/
def execVfcmplt (f : F3) (s : State) : Outcome := vfcmp .lt f s
/-- VFCMPLE (R415). -/
def execVfcmple (f : F3) (s : State) : Outcome := vfcmp .le f s
/-- VFCMPGT (R415). -/
def execVfcmpgt (f : F3) (s : State) : Outcome := vfcmp .gt f s
/-- VFCMPGE (R415). -/
def execVfcmpge (f : F3) (s : State) : Outcome := vfcmp .ge f s
/-- VFCMPORD (R415). -/
def execVfcmpord (f : F3) (s : State) : Outcome := vfcmp .ord f s
/-- VFCMPUNORD (R415). -/
def execVfcmpunord (f : F3) (s : State) : Outcome := vfcmp .unord f s

/-- R416, R304: an f16 element is the f32 function of its value, rounded to f16. -/
def vtransOp (fn : Nat) (f : F3) (s : State) : Outcome :=
  withF3 (vfpuSheet [8, 9] 0 false f) f s fun e s =>
    s.finishV e f.pm f.d 1 fun t _ =>
      let x := e.g.src f.ty.toNat f.a t
      if f.ty = 8 then vtrans fn x
      else packElems 9 fun i => fmtF16.encode .rne false (f32 (vtrans fn (toF32 .rne (fmtF16.decode (elem 9 x i)))))

/-- VRCP (R304, R416). -/
def execVrcp (f : F3) (s : State) : Outcome := vtransOp 0 f s
/-- VRSQ (R304, R416). -/
def execVrsq (f : F3) (s : State) : Outcome := vtransOp 1 f s
/-- VSQRT (R304, R416). -/
def execVsqrt (f : F3) (s : State) : Outcome := vtransOp 2 f s
/-- VEXP2 (R304, R416). -/
def execVexp2 (f : F3) (s : State) : Outcome := vtransOp 3 f s
/-- VLOG2 (R304, R416). -/
def execVlog2 (f : F3) (s : State) : Outcome := vtransOp 4 f s
/-- VSIN (R304, R416). -/
def execVsin (f : F3) (s : State) : Outcome := vtransOp 5 f s
/-- VCOS (R304, R416). -/
def execVcos (f : F3) (s : State) : Outcome := vtransOp 6 f s
/-- VTANH (R304, R416). -/
def execVtanh (f : F3) (s : State) : Outcome := vtransOp 7 f s

/-! ### Conversions (R417-R420) -/

/-- VCVT (R417). -/
def execVcvt (f : F3) (s : State) : Outcome :=
  withF3 (vcvtSheet f) f s fun e s =>
    let src := (f.x.extractLsb' 0 4).toNat
    s.finishV e f.pm f.d (tyRegs f.ty) fun t k =>
      let x := if src = 14 then e.g.src64 f.a t else (e.g.src src f.a t).setWidth 64
      let r := convert f.ty.toNat src f.md.toNat x
      if k = 0 then lo32 r else hi32 r

/-- R418: one packed element from a 32-bit source. -/
def packOne (ty md : Nat) (x : Word) : Nat :=
  if ty ≥ 9 then (fmtOf ty).encode (convMode md) (4 ≤ md) (f32 x)
  else (clampInt (intLo (tySigned ty) (elemBits ty)) (intHi (tySigned ty) (elemBits ty)) x.toInt % 2 ^ elemBits ty).toNat
/-- VPACK (R418). -/
def execVpack (f : F3) (s : State) : Outcome :=
  withF3 (vpackSheet f) f s fun e s =>
    let ty := f.ty.toNat
    let src := if ty ≥ 9 then 8 else 0
    let k := f.x.toNat
    s.finishV e f.pm f.d 1 fun t _ =>
      let d := e.g.regs.vget (regOf f.d) t
      setElem ty (setElem ty d (2 * k) (packOne ty f.md.toNat (e.g.src src f.a t))) (2 * k + 1) (packOne ty f.md.toNat (e.g.src src f.b t))

/-- R419. -/
def unpackOne (ty : Nat) (x : Word) (i : Nat) : Word :=
  let w := elemBits ty
  if ty ≥ 9 then toF32 .rne ((fmtOf ty).decode (elem ty x i))
  else BitVec.ofInt 32 (intOf (tySigned ty) (BitVec.ofNat w (elem ty x i)))
/-- VUNPACK (R419). -/
def execVunpack (f : F3) (s : State) : Outcome :=
  withF3 (vunpackSheet f) f s fun e s =>
    s.finishV e f.pm f.d 1 fun t _ => unpackOne f.ty.toNat (e.g.src f.ty.toNat f.a t) f.x.toNat

/-- R420, R297. -/
def scaleF32 (mode : RMode) (a : Word) (code : Nat) : Word :=
  if code = 255 || (f32 a).isNan then nan32 else toF32 mode ((f32 a).mul (.fin false 1 ((code : Int) - 127)))
/-- VSCALE (R420): both operands have the word's type, so that a constant B is the bits of an f32 (R319, R320). -/
def execVscale (f : F3) (s : State) : Outcome :=
  withF3 (vscaleSheet f) f s fun e s =>
    s.finishV e f.pm f.d 1 fun t _ => scaleF32 (arithMode f.md.toNat) (e.g.src 8 f.a t) ((e.g.src 8 f.b t).toNat % 256)

/-! ### The paired word (R331-R333, R421) -/

/-- R331: the result of a half, for its HO code. -/
def halfResult (ho : Nat) (d a : Word) : Word :=
  let v (m : Val) : Word := toF32 .rne m
  match ho with
  | 1 => d + a | 2 => d - a | 3 => d * a | 4 => d &&& a | 5 => d ||| a | 6 => d ^^^ a
  | 7 => shl d a | 8 => shr d a | 9 => sar d a | 10 => minS d a | 11 => maxS d a | 12 => a
  | 13 => v (sumVals .rne [f32 d, f32 a]) | 14 => v (sumVals .rne [f32 d, (f32 a).neg]) | 15 => v ((f32 d).mul (f32 a))
  | 16 => v (minNumber (f32 d) (f32 a)) | _ => v (maxNumber (f32 d) (f32 a))

/-- R330, R421: the half's A, as the operand field it stands for, and the type that delivers it. -/
def halfField (h : Half) : BitVec 11 := (halfOperand h.a).getD 0
def halfTy (h : Half) : Nat := if 13 ≤ h.ho.toNat then 8 else 0

/-- R333: registers inside the allocation, and no empty latch. -/
def halfFits (g : Group) (h : Half) : Bool :=
  h.ho = 0 || (h.d.toNat < g.vregs && ruleFits (anySrc 1) g (halfField h))

/-- The registers after a half, from the values both halves read before either wrote. -/
def applyHalf (g : Group) (r : Regs) (h : Half) : Regs :=
  if h.ho = 0 then r
  else (r.vwrite h.d.toNat (g.pred h.pm.toNat) 1 fun t _ =>
    halfResult h.ho.toNat (g.regs.vget h.d.toNat t) (g.src (halfTy h) (halfField h) t)).shiftTags h.d.toNat

/-- A paired word (R331, R333): half 0 shifts the tags first. -/
def execPairedWord (h0 h1 : Half) (s : State) : Outcome :=
  asGroup s fun e s =>
    if !pairLegal h0 h1 then s.illegalInstr e
    else if !bankRule h0 h1 then s.trapWord e causeIllegalPair
    else if !(halfFits e.g h0 && halfFits e.g h1) then s.illegalOperand e
    else
      let m (h : Half) : Mask := if h.ho = 0 then 0 else e.g.pred h.pm.toNat
      let n (h : Half) : Nat := if h.ho = 0 then 0 else 4 - passes (m h)
      let s := (s.count e.gid 3 (passes (m h0) + passes (m h1))).count e.gid 4 (n h0 + n h1)
      let s := s.countLatch e.gid [(anySrc 1, halfField h0), (anySrc 1, halfField h1)]
      s.finish e (applyHalf e.g (applyHalf e.g e.g.regs h0) h1)

end Sys2Proof.Machine
end

