-- ==== Sys2Proof/Machine/Dispatch.lean ====
section
/-! DEFINITION. The one match on the instruction: each constructor's meaning. -/
namespace Sys2Proof.Machine

def exec (i : Instr) (s : State) : Host.Outcome State Fault Refusal :=
  match i with
  | .coldReset straps presenceLow reliable => Sys2Proof.Machine.execColdReset straps presenceLow reliable s
  | .warmReset => Sys2Proof.Machine.execWarmReset s
  | .firmwareReady => Sys2Proof.Machine.execFirmwareReady s
  | .vfFlr fn => Sys2Proof.Machine.execVfFlr fn s
  | .pwrbrakeAssert => Sys2Proof.Machine.execPwrbrakeAssert s
  | .pwrbrakeRelease mhz0 mhz1 => Sys2Proof.Machine.execPwrbrakeRelease mhz0 mhz1 s
  | .thermalThrottle die steps => Sys2Proof.Machine.execThermalThrottle die steps s
  | .thermtrip die => Sys2Proof.Machine.execThermtrip die s
  | .powerLimitExceeded watts mhz0 mhz1 => Sys2Proof.Machine.execPowerLimitExceeded watts mhz0 mhz1 s
  | .coreClockChange die mhz => Sys2Proof.Machine.execCoreClockChange die mhz s
  | .flitCrcFail dir chan seq => Sys2Proof.Machine.execFlitCrcFail dir chan seq s
  | .linkRetrain lanes0 lanes1 => Sys2Proof.Machine.execLinkRetrain lanes0 lanes1 s
  | .linkRetrainEnd ok => Sys2Proof.Machine.execLinkRetrainEnd ok s
  | .hotPlug out attached => Sys2Proof.Machine.execHotPlug out attached s
  | .barResize fn log2 => Sys2Proof.Machine.execBarResize fn log2 s
  | .windowAccess fn off write len => Sys2Proof.Machine.execWindowAccess fn off write len s
  | .atsInvalidation pasid page absent => Sys2Proof.Machine.execAtsInvalidation pasid page absent s
  | .priResponse pasid page ok => Sys2Proof.Machine.execPriResponse pasid page ok s
  | .registerWrite fn off v => Sys2Proof.Machine.execRegisterWrite fn off v s
  | .wctlWrite fn v => Sys2Proof.Machine.execWctlWrite fn v s
  | .qctlEnable fn ctx v => Sys2Proof.Machine.execQctlEnable fn ctx v s
  | .qctlDisable fn ctx v => Sys2Proof.Machine.execQctlDisable fn ctx v s
  | .qwptrWrite fn ctx v => Sys2Proof.Machine.execQwptrWrite fn ctx v s
  | .elctlWrite fn v => Sys2Proof.Machine.execElctlWrite fn v s
  | .nonce => Sys2Proof.Machine.execNonce s
  | .enroll => Sys2Proof.Machine.execEnroll s
  | .revoke => Sys2Proof.Machine.execRevoke s
  | .vendoroff => Sys2Proof.Machine.execVendoroff s
  | .svnset => Sys2Proof.Machine.execSvnset s
  | .seal => Sys2Proof.Machine.execSeal s
  | .fwstage => Sys2Proof.Machine.execFwstage s
  | .s2root => Sys2Proof.Machine.execS2root s
  | .s2inval => Sys2Proof.Machine.execS2inval s
  | .fotset => Sys2Proof.Machine.execFotset s
  | .errread => Sys2Proof.Machine.execErrread s
  | .outset trained => Sys2Proof.Machine.execOutset trained s
  | .unknownMailboxRequest => Sys2Proof.Machine.execUnknownMailboxRequest s
  | .getVersion req => Sys2Proof.Machine.execGetVersion req s
  | .getCapabilities req => Sys2Proof.Machine.execGetCapabilities req s
  | .negotiateAlgorithms req => Sys2Proof.Machine.execNegotiateAlgorithms req s
  | .getDigests req => Sys2Proof.Machine.execGetDigests req s
  | .getCertificate req => Sys2Proof.Machine.execGetCertificate req s
  | .challenge req => Sys2Proof.Machine.execChallenge req s
  | .getMeasurements req => Sys2Proof.Machine.execGetMeasurements req s
  | .cmdNop fn ctx => Sys2Proof.Machine.execCmdNop fn ctx s
  | .cmdLaunch fn ctx => Sys2Proof.Machine.execCmdLaunch fn ctx s
  | .copy fn ctx => Sys2Proof.Machine.execCopy fn ctx s
  | .hostCopyComplete id => Sys2Proof.Machine.execHostCopyComplete id s
  | .fenceWait fn ctx => Sys2Proof.Machine.execFenceWait fn ctx s
  | .fenceWaitRecheck fn ctx => Sys2Proof.Machine.execFenceWaitRecheck fn ctx s
  | .fenceSignal fn ctx => Sys2Proof.Machine.execFenceSignal fn ctx s
  | .presentShow fn ctx => Sys2Proof.Machine.execPresentShow fn ctx s
  | .presentCapture fn ctx => Sys2Proof.Machine.execPresentCapture fn ctx s
  | .inval fn ctx => Sys2Proof.Machine.execInval fn ctx s
  | .resFence fn ctx => Sys2Proof.Machine.execResFence fn ctx s
  | .awlRegRegister fn ctx => Sys2Proof.Machine.execAwlRegRegister fn ctx s
  | .awlRegRemove fn ctx => Sys2Proof.Machine.execAwlRegRemove fn ctx s
  | .grantCreate fn ctx => Sys2Proof.Machine.execGrantCreate fn ctx s
  | .grantChange fn ctx => Sys2Proof.Machine.execGrantChange fn ctx s
  | .grantWithdraw fn ctx => Sys2Proof.Machine.execGrantWithdraw fn ctx s
  | .ownmapTiles fn ctx => Sys2Proof.Machine.execOwnmapTiles fn ctx s
  | .ownmapBlocks fn ctx => Sys2Proof.Machine.execOwnmapBlocks fn ctx s
  | .ownmapAssign fn ctx => Sys2Proof.Machine.execOwnmapAssign fn ctx s
  | .ownmapRegion fn ctx => Sys2Proof.Machine.execOwnmapRegion fn ctx s
  | .ctxCreate fn ctx => Sys2Proof.Machine.execCtxCreate fn ctx s
  | .ctxDestroy fn ctx => Sys2Proof.Machine.execCtxDestroy fn ctx s
  | .ctxReconfigure fn ctx => Sys2Proof.Machine.execCtxReconfigure fn ctx s
  | .partCfg fn ctx => Sys2Proof.Machine.execPartCfg fn ctx s
  | .partCfgDisable fn ctx => Sys2Proof.Machine.execPartCfgDisable fn ctx s
  | .partPause fn ctx => Sys2Proof.Machine.execPartPause fn ctx s
  | .partResume fn ctx => Sys2Proof.Machine.execPartResume fn ctx s
  | .unknownCommand fn ctx => Sys2Proof.Machine.execUnknownCommand fn ctx s
  | .latchPoint out => Sys2Proof.Machine.execLatchPoint out s
  | .scanout out => Sys2Proof.Machine.execScanout out s
  | .blockPlace die part => Sys2Proof.Machine.execBlockPlace die part s
  | .blockRetire bid => Sys2Proof.Machine.execBlockRetire bid s
  | .armedLaunchStart bid k => Sys2Proof.Machine.execArmedLaunchStart bid k s
  | .temporalQuantumExpiry core => Sys2Proof.Machine.execTemporalQuantumExpiry core s
  | .batchTimeout lid die node => Sys2Proof.Machine.execBatchTimeout lid die node s
  | .batchDispatch die => Sys2Proof.Machine.execBatchDispatch die s
  | .travelPin lid => Sys2Proof.Machine.execTravelPin lid s
  | .hopArrival lid idx => Sys2Proof.Machine.execHopArrival lid idx s
  | .arrivalAdmit core => Sys2Proof.Machine.execArrivalAdmit core s
  | .assemblyTimeout core entry => Sys2Proof.Machine.execAssemblyTimeout core entry s
  | .segmentReplicate lid seg => Sys2Proof.Machine.execSegmentReplicate lid seg s
  | .replicaRetire core => Sys2Proof.Machine.execReplicaRetire core s
  | .binChunk lid => Sys2Proof.Machine.execBinChunk lid s
  | .tilePassStart lid => Sys2Proof.Machine.execTilePassStart lid s
  | .pixelGroupStart bid => Sys2Proof.Machine.execPixelGroupStart bid s
  | .meshGroupAdmit core => Sys2Proof.Machine.execMeshGroupAdmit core s
  | .pmodeWindowEnd frame => Sys2Proof.Machine.execPmodeWindowEnd frame s
  | .memoryResponse gid => Sys2Proof.Machine.execMemoryResponse gid s
  | .copyComplete core idx => Sys2Proof.Machine.execCopyComplete core idx s
  | .copyStop core idx => Sys2Proof.Machine.execCopyStop core idx s
  | .matrixOpFinish core => Sys2Proof.Machine.execMatrixOpFinish core s
  | .awlInvocation slice => Sys2Proof.Machine.execAwlInvocation slice s
  | .awlMessageArrival idx => Sys2Proof.Machine.execAwlMessageArrival idx s
  | .amsgReplyArrival idx => Sys2Proof.Machine.execAmsgReplyArrival idx s
  | .awlBudgetExhausted slice => Sys2Proof.Machine.execAwlBudgetExhausted slice s
  | .awlBaseInstruction r len => Sys2Proof.Machine.execAwlBaseInstruction r len s
  | .alrd r => Sys2Proof.Machine.execAlrd r s
  | .alwr r => Sys2Proof.Machine.execAlwr r s
  | .alock r => Sys2Proof.Machine.execAlock r s
  | .apin r => Sys2Proof.Machine.execApin r s
  | .aunpin r => Sys2Proof.Machine.execAunpin r s
  | .afill r => Sys2Proof.Machine.execAfill r s
  | .afwd r => Sys2Proof.Machine.execAfwd r s
  | .areply r => Sys2Proof.Machine.execAreply r s
  | .aend r => Sys2Proof.Machine.execAend r s
  | .watchdogExpiry gid => Sys2Proof.Machine.execWatchdogExpiry gid s
  | .contextPreempt part ctx core => Sys2Proof.Machine.execContextPreempt part ctx core s
  | .contextRestore part ctx core => Sys2Proof.Machine.execContextRestore part ctx core s
  | .uncorrectableError e => Sys2Proof.Machine.execUncorrectableError e s
  | .correctedError e => Sys2Proof.Machine.execCorrectedError e s
  | .macroSelfTest e pass => Sys2Proof.Machine.execMacroSelfTest e pass s
  | .sadd f => Sys2Proof.Machine.execSadd f s
  | .ssub f => Sys2Proof.Machine.execSsub f s
  | .smul f => Sys2Proof.Machine.execSmul f s
  | .smulhi f => Sys2Proof.Machine.execSmulhi f s
  | .smulhu f => Sys2Proof.Machine.execSmulhu f s
  | .sdiv f => Sys2Proof.Machine.execSdiv f s
  | .sdivu f => Sys2Proof.Machine.execSdivu f s
  | .srem f => Sys2Proof.Machine.execSrem f s
  | .sremu f => Sys2Proof.Machine.execSremu f s
  | .sand f => Sys2Proof.Machine.execSand f s
  | .sor f => Sys2Proof.Machine.execSor f s
  | .sxor f => Sys2Proof.Machine.execSxor f s
  | .sshl f => Sys2Proof.Machine.execSshl f s
  | .sshr f => Sys2Proof.Machine.execSshr f s
  | .ssar f => Sys2Proof.Machine.execSsar f s
  | .smin f => Sys2Proof.Machine.execSmin f s
  | .smax f => Sys2Proof.Machine.execSmax f s
  | .sminu f => Sys2Proof.Machine.execSminu f s
  | .smaxu f => Sys2Proof.Machine.execSmaxu f s
  | .ssel f => Sys2Proof.Machine.execSsel f s
  | .sbfe f => Sys2Proof.Machine.execSbfe f s
  | .sbfi f => Sys2Proof.Machine.execSbfi f s
  | .spopc f => Sys2Proof.Machine.execSpopc f s
  | .sclz f => Sys2Proof.Machine.execSclz f s
  | .smov f => Sys2Proof.Machine.execSmov f s
  | .saddI f => Sys2Proof.Machine.execSaddI f s
  | .ssubI f => Sys2Proof.Machine.execSsubI f s
  | .smulI f => Sys2Proof.Machine.execSmulI f s
  | .smulhiI f => Sys2Proof.Machine.execSmulhiI f s
  | .smulhuI f => Sys2Proof.Machine.execSmulhuI f s
  | .sdivI f => Sys2Proof.Machine.execSdivI f s
  | .sdivuI f => Sys2Proof.Machine.execSdivuI f s
  | .sremI f => Sys2Proof.Machine.execSremI f s
  | .sremuI f => Sys2Proof.Machine.execSremuI f s
  | .sandI f => Sys2Proof.Machine.execSandI f s
  | .sorI f => Sys2Proof.Machine.execSorI f s
  | .sxorI f => Sys2Proof.Machine.execSxorI f s
  | .sshlI f => Sys2Proof.Machine.execSshlI f s
  | .sshrI f => Sys2Proof.Machine.execSshrI f s
  | .ssarI f => Sys2Proof.Machine.execSsarI f s
  | .sminI f => Sys2Proof.Machine.execSminI f s
  | .smaxI f => Sys2Proof.Machine.execSmaxI f s
  | .sminuI f => Sys2Proof.Machine.execSminuI f s
  | .smaxuI f => Sys2Proof.Machine.execSmaxuI f s
  | .sbfeI f => Sys2Proof.Machine.execSbfeI f s
  | .sbfiI f => Sys2Proof.Machine.execSbfiI f s
  | .sli f => Sys2Proof.Machine.execSli f s
  | .sadr f => Sys2Proof.Machine.execSadr f s
  | .scmpeq f => Sys2Proof.Machine.execScmpeq f s
  | .scmpne f => Sys2Proof.Machine.execScmpne f s
  | .scmplt f => Sys2Proof.Machine.execScmplt f s
  | .scmple f => Sys2Proof.Machine.execScmple f s
  | .scmpltu f => Sys2Proof.Machine.execScmpltu f s
  | .scmpleu f => Sys2Proof.Machine.execScmpleu f s
  | .scmpgt f => Sys2Proof.Machine.execScmpgt f s
  | .scmpge f => Sys2Proof.Machine.execScmpge f s
  | .scmpgtu f => Sys2Proof.Machine.execScmpgtu f s
  | .scmpgeu f => Sys2Proof.Machine.execScmpgeu f s
  | .scmpeqI f => Sys2Proof.Machine.execScmpeqI f s
  | .scmpneI f => Sys2Proof.Machine.execScmpneI f s
  | .scmpltI f => Sys2Proof.Machine.execScmpltI f s
  | .scmpleI f => Sys2Proof.Machine.execScmpleI f s
  | .scmpltuI f => Sys2Proof.Machine.execScmpltuI f s
  | .scmpleuI f => Sys2Proof.Machine.execScmpleuI f s
  | .scmpgtI f => Sys2Proof.Machine.execScmpgtI f s
  | .scmpgeI f => Sys2Proof.Machine.execScmpgeI f s
  | .scmpgtuI f => Sys2Proof.Machine.execScmpgtuI f s
  | .scmpgeuI f => Sys2Proof.Machine.execScmpgeuI f s
  | .sfadd f => Sys2Proof.Machine.execSfadd f s
  | .sfsub f => Sys2Proof.Machine.execSfsub f s
  | .sfmul f => Sys2Proof.Machine.execSfmul f s
  | .sfma f => Sys2Proof.Machine.execSfma f s
  | .sfmin f => Sys2Proof.Machine.execSfmin f s
  | .sfmax f => Sys2Proof.Machine.execSfmax f s
  | .sfcmp f => Sys2Proof.Machine.execSfcmp f s
  | .scvt f => Sys2Proof.Machine.execScvt f s
  | .mand f => Sys2Proof.Machine.execMand f s
  | .mor f => Sys2Proof.Machine.execMor f s
  | .mxor f => Sys2Proof.Machine.execMxor f s
  | .mandn f => Sys2Proof.Machine.execMandn f s
  | .mnot f => Sys2Proof.Machine.execMnot f s
  | .mmov f => Sys2Proof.Machine.execMmov f s
  | .mpopc f => Sys2Proof.Machine.execMpopc f s
  | .mfirst f => Sys2Proof.Machine.execMfirst f s
  | .mtos f => Sys2Proof.Machine.execMtos f s
  | .mfroms f => Sys2Proof.Machine.execMfroms f s
  | .mall f => Sys2Proof.Machine.execMall f s
  | .mclear f => Sys2Proof.Machine.execMclear f s
  | .nop f => Sys2Proof.Machine.execNop f s
  | .bra f => Sys2Proof.Machine.execBra f s
  | .brc f => Sys2Proof.Machine.execBrc f s
  | .brmz f => Sys2Proof.Machine.execBrmz f s
  | .brmnz f => Sys2Proof.Machine.execBrmnz f s
  | .call f => Sys2Proof.Machine.execCall f s
  | .ret f => Sys2Proof.Machine.execRet f s
  | .jmpr f => Sys2Proof.Machine.execJmpr f s
  | .callr f => Sys2Proof.Machine.execCallr f s
  | .rep f => Sys2Proof.Machine.execRep f s
  | .endI f => Sys2Proof.Machine.execEndI f s
  | .yield f => Sys2Proof.Machine.execYield f s
  | .bar f => Sys2Proof.Machine.execBar f s
  | .bart f => Sys2Proof.Machine.execBart f s
  | .setfmt f => Sys2Proof.Machine.execSetfmt f s
  | .kset f => Sys2Proof.Machine.execKset f s
  | .kadd f => Sys2Proof.Machine.execKadd f s
  | .kwait f => Sys2Proof.Machine.execKwait f s
  | .kyield f => Sys2Proof.Machine.execKyield f s
  | .krd f => Sys2Proof.Machine.execKrd f s
  | .karm f => Sys2Proof.Machine.execKarm f s
  | .vadd f => Sys2Proof.Machine.execVadd f s
  | .vsub f => Sys2Proof.Machine.execVsub f s
  | .vmul f => Sys2Proof.Machine.execVmul f s
  | .vmulhi f => Sys2Proof.Machine.execVmulhi f s
  | .vmulhu f => Sys2Proof.Machine.execVmulhu f s
  | .vand f => Sys2Proof.Machine.execVand f s
  | .vor f => Sys2Proof.Machine.execVor f s
  | .vxor f => Sys2Proof.Machine.execVxor f s
  | .vshl f => Sys2Proof.Machine.execVshl f s
  | .vshr f => Sys2Proof.Machine.execVshr f s
  | .vsar f => Sys2Proof.Machine.execVsar f s
  | .vmin f => Sys2Proof.Machine.execVmin f s
  | .vmax f => Sys2Proof.Machine.execVmax f s
  | .vminu f => Sys2Proof.Machine.execVminu f s
  | .vmaxu f => Sys2Proof.Machine.execVmaxu f s
  | .vaddsat f => Sys2Proof.Machine.execVaddsat f s
  | .vsubsat f => Sys2Proof.Machine.execVsubsat f s
  | .vabsdiff f => Sys2Proof.Machine.execVabsdiff f s
  | .vmad f => Sys2Proof.Machine.execVmad f s
  | .vbfe f => Sys2Proof.Machine.execVbfe f s
  | .vbfi f => Sys2Proof.Machine.execVbfi f s
  | .vpopc f => Sys2Proof.Machine.execVpopc f s
  | .vclz f => Sys2Proof.Machine.execVclz f s
  | .vmov f => Sys2Proof.Machine.execVmov f s
  | .vsel f => Sys2Proof.Machine.execVsel f s
  | .vdot4 f => Sys2Proof.Machine.execVdot4 f s
  | .vdot4u f => Sys2Proof.Machine.execVdot4u f s
  | .viota f => Sys2Proof.Machine.execViota f s
  | .vaddI f => Sys2Proof.Machine.execVaddI f s
  | .vsubI f => Sys2Proof.Machine.execVsubI f s
  | .vmulI f => Sys2Proof.Machine.execVmulI f s
  | .vmulhiI f => Sys2Proof.Machine.execVmulhiI f s
  | .vmulhuI f => Sys2Proof.Machine.execVmulhuI f s
  | .vandI f => Sys2Proof.Machine.execVandI f s
  | .vorI f => Sys2Proof.Machine.execVorI f s
  | .vxorI f => Sys2Proof.Machine.execVxorI f s
  | .vshlI f => Sys2Proof.Machine.execVshlI f s
  | .vshrI f => Sys2Proof.Machine.execVshrI f s
  | .vsarI f => Sys2Proof.Machine.execVsarI f s
  | .vminI f => Sys2Proof.Machine.execVminI f s
  | .vmaxI f => Sys2Proof.Machine.execVmaxI f s
  | .vminuI f => Sys2Proof.Machine.execVminuI f s
  | .vmaxuI f => Sys2Proof.Machine.execVmaxuI f s
  | .vaddsatI f => Sys2Proof.Machine.execVaddsatI f s
  | .vsubsatI f => Sys2Proof.Machine.execVsubsatI f s
  | .vabsdiffI f => Sys2Proof.Machine.execVabsdiffI f s
  | .vmadI f => Sys2Proof.Machine.execVmadI f s
  | .vbfeI f => Sys2Proof.Machine.execVbfeI f s
  | .vbfiI f => Sys2Proof.Machine.execVbfiI f s
  | .vdot4I f => Sys2Proof.Machine.execVdot4I f s
  | .vdot4uI f => Sys2Proof.Machine.execVdot4uI f s
  | .vcmpeq f => Sys2Proof.Machine.execVcmpeq f s
  | .vcmpne f => Sys2Proof.Machine.execVcmpne f s
  | .vcmplt f => Sys2Proof.Machine.execVcmplt f s
  | .vcmple f => Sys2Proof.Machine.execVcmple f s
  | .vcmpltu f => Sys2Proof.Machine.execVcmpltu f s
  | .vcmpleu f => Sys2Proof.Machine.execVcmpleu f s
  | .vcmpgt f => Sys2Proof.Machine.execVcmpgt f s
  | .vcmpge f => Sys2Proof.Machine.execVcmpge f s
  | .vcmpgtu f => Sys2Proof.Machine.execVcmpgtu f s
  | .vcmpgeu f => Sys2Proof.Machine.execVcmpgeu f s
  | .vcmpeqI f => Sys2Proof.Machine.execVcmpeqI f s
  | .vcmpneI f => Sys2Proof.Machine.execVcmpneI f s
  | .vcmpltI f => Sys2Proof.Machine.execVcmpltI f s
  | .vcmpleI f => Sys2Proof.Machine.execVcmpleI f s
  | .vcmpltuI f => Sys2Proof.Machine.execVcmpltuI f s
  | .vcmpleuI f => Sys2Proof.Machine.execVcmpleuI f s
  | .vcmpgtI f => Sys2Proof.Machine.execVcmpgtI f s
  | .vcmpgeI f => Sys2Proof.Machine.execVcmpgeI f s
  | .vcmpgtuI f => Sys2Proof.Machine.execVcmpgtuI f s
  | .vcmpgeuI f => Sys2Proof.Machine.execVcmpgeuI f s
  | .vshuf f => Sys2Proof.Machine.execVshuf f s
  | .vrot f => Sys2Proof.Machine.execVrot f s
  | .vbcast f => Sys2Proof.Machine.execVbcast f s
  | .vred f => Sys2Proof.Machine.execVred f s
  | .vscan f => Sys2Proof.Machine.execVscan f s
  | .vcompact f => Sys2Proof.Machine.execVcompact f s
  | .vswiz f => Sys2Proof.Machine.execVswiz f s
  | .vfadd f => Sys2Proof.Machine.execVfadd f s
  | .vfsub f => Sys2Proof.Machine.execVfsub f s
  | .vfmul f => Sys2Proof.Machine.execVfmul f s
  | .vfma f => Sys2Proof.Machine.execVfma f s
  | .vfmin f => Sys2Proof.Machine.execVfmin f s
  | .vfmax f => Sys2Proof.Machine.execVfmax f s
  | .vfrnd f => Sys2Proof.Machine.execVfrnd f s
  | .vfract f => Sys2Proof.Machine.execVfract f s
  | .vhadd f => Sys2Proof.Machine.execVhadd f s
  | .vhmul f => Sys2Proof.Machine.execVhmul f s
  | .vhfma f => Sys2Proof.Machine.execVhfma f s
  | .vfdot2 f => Sys2Proof.Machine.execVfdot2 f s
  | .vfcmpeq f => Sys2Proof.Machine.execVfcmpeq f s
  | .vfcmpne f => Sys2Proof.Machine.execVfcmpne f s
  | .vfcmplt f => Sys2Proof.Machine.execVfcmplt f s
  | .vfcmple f => Sys2Proof.Machine.execVfcmple f s
  | .vfcmpgt f => Sys2Proof.Machine.execVfcmpgt f s
  | .vfcmpge f => Sys2Proof.Machine.execVfcmpge f s
  | .vfcmpord f => Sys2Proof.Machine.execVfcmpord f s
  | .vfcmpunord f => Sys2Proof.Machine.execVfcmpunord f s
  | .vrcp f => Sys2Proof.Machine.execVrcp f s
  | .vrsq f => Sys2Proof.Machine.execVrsq f s
  | .vsqrt f => Sys2Proof.Machine.execVsqrt f s
  | .vexp2 f => Sys2Proof.Machine.execVexp2 f s
  | .vlog2 f => Sys2Proof.Machine.execVlog2 f s
  | .vsin f => Sys2Proof.Machine.execVsin f s
  | .vcos f => Sys2Proof.Machine.execVcos f s
  | .vtanh f => Sys2Proof.Machine.execVtanh f s
  | .vcvt f => Sys2Proof.Machine.execVcvt f s
  | .vpack f => Sys2Proof.Machine.execVpack f s
  | .vunpack f => Sys2Proof.Machine.execVunpack f s
  | .vscale f => Sys2Proof.Machine.execVscale f s
  | .pairedWord h0 h1 => Sys2Proof.Machine.execPairedWord h0 h1 s
  | .ldg f => Sys2Proof.Machine.execLdg f s
  | .stg f => Sys2Proof.Machine.execStg f s
  | .ldgs f => Sys2Proof.Machine.execLdgs f s
  | .stgs f => Sys2Proof.Machine.execStgs f s
  | .pin f => Sys2Proof.Machine.execPin f s
  | .unpin f => Sys2Proof.Machine.execUnpin f s
  | .cflush f => Sys2Proof.Machine.execCflush f s
  | .ldlod f => Sys2Proof.Machine.execLdlod f s
  | .lodq f => Sys2Proof.Machine.execLodq f s
  | .lds f => Sys2Proof.Machine.execLds f s
  | .sts f => Sys2Proof.Machine.execSts f s
  | .ldt f => Sys2Proof.Machine.execLdt f s
  | .stt f => Sys2Proof.Machine.execStt f s
  | .ldb f => Sys2Proof.Machine.execLdb f s
  | .stb f => Sys2Proof.Machine.execStb f s
  | .aaddG f => Sys2Proof.Machine.execAaddG f s
  | .aminG f => Sys2Proof.Machine.execAminG f s
  | .amaxG f => Sys2Proof.Machine.execAmaxG f s
  | .aminuG f => Sys2Proof.Machine.execAminuG f s
  | .amaxuG f => Sys2Proof.Machine.execAmaxuG f s
  | .aandG f => Sys2Proof.Machine.execAandG f s
  | .aorG f => Sys2Proof.Machine.execAorG f s
  | .axorG f => Sys2Proof.Machine.execAxorG f s
  | .axchgG f => Sys2Proof.Machine.execAxchgG f s
  | .acasG f => Sys2Proof.Machine.execAcasG f s
  | .afaddG f => Sys2Proof.Machine.execAfaddG f s
  | .afminG f => Sys2Proof.Machine.execAfminG f s
  | .afmaxG f => Sys2Proof.Machine.execAfmaxG f s
  | .aaddS f => Sys2Proof.Machine.execAaddS f s
  | .aminS f => Sys2Proof.Machine.execAminS f s
  | .amaxS f => Sys2Proof.Machine.execAmaxS f s
  | .aminuS f => Sys2Proof.Machine.execAminuS f s
  | .amaxuS f => Sys2Proof.Machine.execAmaxuS f s
  | .aandS f => Sys2Proof.Machine.execAandS f s
  | .aorS f => Sys2Proof.Machine.execAorS f s
  | .axorS f => Sys2Proof.Machine.execAxorS f s
  | .axchgS f => Sys2Proof.Machine.execAxchgS f s
  | .acasS f => Sys2Proof.Machine.execAcasS f s
  | .afaddS f => Sys2Proof.Machine.execAfaddS f s
  | .afminS f => Sys2Proof.Machine.execAfminS f s
  | .afmaxS f => Sys2Proof.Machine.execAfmaxS f s
  | .fence f => Sys2Proof.Machine.execFence f s
  | .afence f => Sys2Proof.Machine.execAfence f s
  | .amsg f => Sys2Proof.Machine.execAmsg f s
  | .amsgw f => Sys2Proof.Machine.execAmsgw f s
  | .laymake f => Sys2Proof.Machine.execLaymake f s
  | .laychk f => Sys2Proof.Machine.execLaychk f s
  | .cpyin f => Sys2Proof.Machine.execCpyin f s
  | .cpyout f => Sys2Proof.Machine.execCpyout f s
  | .cpymc f => Sys2Proof.Machine.execCpymc f s
  | .cpycb f => Sys2Proof.Machine.execCpycb f s
  | .cbload f => Sys2Proof.Machine.execCbload f s
  | .tcfg f => Sys2Proof.Machine.execTcfg f s
  | .mma f => Sys2Proof.Machine.execMma f s
  | .mmaz f => Sys2Proof.Machine.execMmaz f s
  | .mclr f => Sys2Proof.Machine.execMclr f s
  | .mld f => Sys2Proof.Machine.execMld f s
  | .mst f => Sys2Proof.Machine.execMst f s
  | .mstv f => Sys2Proof.Machine.execMstv f s
  | .mfence f => Sys2Proof.Machine.execMfence f s
  | .mbatch f => Sys2Proof.Machine.execMbatch f s
  | .mwait f => Sys2Proof.Machine.execMwait f s
  | .sample f => Sys2Proof.Machine.execSample f s
  | .samplel f => Sys2Proof.Machine.execSamplel f s
  | .sampleg f => Sys2Proof.Machine.execSampleg f s
  | .tfetch f => Sys2Proof.Machine.execTfetch f s
  | .gather4 f => Sys2Proof.Machine.execGather4 f s
  | .imgld f => Sys2Proof.Machine.execImgld f s
  | .imgst f => Sys2Proof.Machine.execImgst f s
  | .qlod f => Sys2Proof.Machine.execQlod f s
  | .pixout f => Sys2Proof.Machine.execPixout f s
  | .zout f => Sys2Proof.Machine.execZout f s
  | .discard f => Sys2Proof.Machine.execDiscard f s
  | .pixld f => Sys2Proof.Machine.execPixld f s
  | .vtxout f => Sys2Proof.Machine.execVtxout f s
  | .primout f => Sys2Proof.Machine.execPrimout f s
  | .meshend f => Sys2Proof.Machine.execMeshend f s
  | .taskout f => Sys2Proof.Machine.execTaskout f s
  | .posout f => Sys2Proof.Machine.execPosout f s
  | .rqinit f => Sys2Proof.Machine.execRqinit f s
  | .rqstep f => Sys2Proof.Machine.execRqstep f s
  | .rqcommit f => Sys2Proof.Machine.execRqcommit f s
  | .rqget f => Sys2Proof.Machine.execRqget f s
  | .rqtrail f => Sys2Proof.Machine.execRqtrail f s
  | .boxtest f => Sys2Proof.Machine.execBoxtest f s
  | .tritest f => Sys2Proof.Machine.execTritest f s
  | .hop f => Sys2Proof.Machine.execHop f s
  | .hopl f => Sys2Proof.Machine.execHopl f s
  | .segid f => Sys2Proof.Machine.execSegid f s
  | .launch f => Sys2Proof.Machine.execLaunch f s
  | .emit f => Sys2Proof.Machine.execEmit f s
  | .emitc f => Sys2Proof.Machine.execEmitc f s
  | .recget f => Sys2Proof.Machine.execRecget f s
  | .recdone f => Sys2Proof.Machine.execRecdone f s
  | .trap f => Sys2Proof.Machine.execTrap f s
  | .tret f => Sys2Proof.Machine.execTret f s
  | .srd f => Sys2Proof.Machine.execSrd f s
  | .swr f => Sys2Proof.Machine.execSwr f s
  | .pctr f => Sys2Proof.Machine.execPctr f s
  | .pcfg f => Sys2Proof.Machine.execPcfg f s
  | .iflush f => Sys2Proof.Machine.execIflush f s
  | .brk f => Sys2Proof.Machine.execBrk f s
  | .writeAcknowledgement idx => Sys2Proof.Machine.execWriteAcknowledgement idx s
  | .perfCounterWrap gid n => Sys2Proof.Machine.execPerfCounterWrap gid n s
  | .powerRemoval => Sys2Proof.Machine.execPowerRemoval s

end Sys2Proof.Machine
end

