-- ==== Sys2Proof/Machine/Issue.lean ====
section
/-! DEFINITION. The selection of a group by a core partition, the fetch of its word, and what the word decodes to (R134, R313-R315, R328,
R329, R336). -/
namespace Sys2Proof.Machine

/-! ### Readiness (R134, R283) -/

/-- Whether what a group waits for has come about, so that its word may run again. -/
def State.waitOver (s : State) (e : Env) : Bool :=
  match e.g.waitFor with
  | .nothing => e.g.wait = 0
  | .barrier .. | .page | .children | .replies => false
  | .counterZero k | .kyield k _ => (e.b.stoppedOn k).isSome || e.b.kval k = 0
  | .countersZero => e.b.k.all (· = 0#16)
  | .counterRoom k n => e.b.kval k + n ≤ 0xFFFF
  | .batch n => s.batchDone e.g.core e.g.block n
  | .matrixRoom => (s.core e.g.core).pipe.length < Config.matrixDepth
  | .copyEntry => (s.copyEntry e.g.core e.g.block).isSome
  | .pool n => match e.l.kind with | .graph g => g.mayEmit e.g.uid n | _ => true
  | .ringSlot => (s.freeRingSlot e.g.core e.b.launch).isSome
  | .armedRoom => e.b.armed.length < 8
  | .launchRoom => !s.queueFull (s.dieOf e.g.core) e.part
  | .writes => !s.writesPending e.g.uid
  | .ixuSlot => s.freeIxu e.g.core > 0
  | .fills l | .fetch l => l = []

/-- R510: whether a machine check may be taken: between instructions, and at a wait that the instruction's word would start again. -/
def Group.checkReady (g : Group) : Bool :=
  g.mcheck.isSome && g.replay.isNone && match g.waitFor with | .page | .children | .replies => false | _ => true

/-- R2: the blocks of a team run together: none issues while one is switched out or is to be. -/
def State.gangRuns (s : State) (b : Block) : Bool :=
  s.blocks.all fun o => o.2.launch ≠ b.launch || o.2.team ≠ b.team || (o.2.resident && !(s.core o.2.core).preempting)

/-- R134: a group may be selected when it does not wait and its operands are there. A response that is owed is delivered first (log 7),
and so is what an MSTV of its own still has to write. -/
def State.groupReady (s : State) (gid : Nat) (g : Group) : Bool :=
  match s.envOf gid 0 with
  | none => false
  | some e =>
    (s.waitOver e || g.checkReady) && !(s.part e.part).paused && s.gangRuns e.b
      && !(g.resps.any fun r => r.fills ≠ [] || (r.items ≠ [] && r.items.all (s.blocked g.core r.acq))) && !(s.core g.core).pipe.any fun o => o.fn = 6 && o.groupUid = g.uid

/-- R134: the group a core partition selects. -/
def State.select (s : State) (core cp : Nat) : Option (Nat × Group) :=
  let l := s.groups.filter fun e => e.2.core = core && e.2.cp = cp && s.groupReady e.1 e.2
  match l.find? fun e => 0 < e.2.run && e.2.run < 16 with
  | some e => some e
  | none => l.foldl (fun (b : Option (Nat × Group)) e => match b with
    | none => some e
    | some o => if e.2.age > o.2.age then some e else some o) none

/-- R134: what an issue leaves of the order: how many words in a row, and no age. -/
def State.noteIssue (s : State) (gid core cp : Nat) : State :=
  { s with groups := kmapAll s.groups fun k g =>
      if k = gid then { g with run := g.run + 1, age := 0, wdog := 0, wait := 0, waitFor := .nothing }
      else if g.core = core && g.cp = cp then { g with run := 0 } else g }

/-! ### Fetch (R313-R315) -/

inductive Fetched
  | word (w : DWord)
  | park (addr : DWord) (ipa : Option Nat)
  | fills (l : List Nat)
  | stop (cause : Nat)
  deriving DecidableEq, Repr

/-- R315: the word that a fetch finds: one of those that memory holds, as this core sees it or not, that it held before writes which the group
has covered by no IFLUSH, and, before its first, that the core's instruction store still holds. -/
def State.fetched (s : State) (e : Env) (sector off : Nat) (now own : BitVec 256) (unc : Bool) : State × DWord :=
  let key := 2 ^ 64 * e.ck + e.g.pc.toNat
  let cut (v : BitVec 256) : DWord := BitVec.ofNat 64 (v.toNat / 2 ^ (8 * off))
  let old := (e.g.uncode.filter (·.1 = sector)).map fun x => cut x.2
  let held := if e.g.flushed || unc then [] else ((kget (s.core e.g.core).icache key).map fun w => [w]).getD []
  let w := oneOf s.freeCtr (cut now) (cut now :: cut own :: old ++ held)
  ((s.skip 1).modCore e.g.core fun c => if unc then c else { c with icache := kset c.icache key w }, w)

/-- R314, R244: the fetch of a group's word. One that the core's instruction store does not serve reaches the line's home slice. -/
def State.fetchWord (s : State) (e : Env) : State × Fetched :=
  let pc := e.g.pc
  match s.pinnedWord e pc with
  | some w => (s, .word w)
  | none =>
    let r := s.access s.freeCtr e.ck pc .fetch
    let s := s.afterAccess e.ck pc r
    match r.1 with
    | .dev pa unc =>
      let served := !unc && (kget (s.core e.g.core).icache (2 ^ 64 * e.ck + pc.toNat)).isSome && Config.freeBool s.freeCtr
      match if served then (s.skip 1, []) else (s.skip 1).touch (e.requester pc 0) pa unc false with
      | (s, []) => match (if served then s else s.cross (s.dieOf e.g.core) pa).fetched e (pa / 32) (pa % 32) (s.sectorAt pa) (s.sectorFor e.g.core pa) unc with | (s, w) => (s, .word w)
      | (s, l) => (s, .fills l)
    | .host key =>
      let now := sectorBits (bytesAt s.hostMem (key / 32 * 32) 32)
      match s.fetched e (hostSector key) (key % 32) now now false with | (s, w) => (s, .word w)
    | .park ipa pri => (s, .park pc (if pri then none else some ipa))
    | .stop c _ => (s, .stop c)

/-- R336: the trap of a word that is no instruction. -/
def errCause : DecodeErr → Nat
  | .illegalInstr => causeIllegalInstr
  | .illegalPair => causeIllegalPair

/-- R197: a word counts as issued once, though one that had to wait is selected again; a paired word under its own code too (log 65). The threads of a
replay after a parked fault count when it issues. -/
def State.countIssue (s : State) (e : Env) (w : DWord) : State :=
  let s := if e.g.counted then s else if w.getLsbD 63 then (s.count e.gid 2 1).count e.gid 5 1 else s.count e.gid 2 1
  let s := if e.g.replays then s.count e.gid 17 (popCount (e.g.replay.getD 0)) else s
  s.modGroup e.gid fun g => { g with counted := true, replays := false }

/-- R336, R340: what a word decodes to, run as the word `w` of the group, or the trap it takes. -/
noncomputable def State.decodeFor (s : State) (e : Env) (w v : DWord) : State × Option Instr :=
  match decodeWord v with
  | .bad c => (s.trapHere e (errCause c) w, none)
  | .instr i => ({ s with cur := .group e.gid w }, some i)

/-- A fetched word of a group: the instruction it is, with the group as the current agent, or the trap it takes. In a repetition (R328) a word that
cannot be its target traps at the REP, one that is no instruction at all traps as such, and then the registers of the repetition are checked. -/
noncomputable def State.issueWord (s : State) (e : Env) (w : DWord) : State × Option Instr :=
  match e.g.rep with
  | none => s.decodeFor e w w
  | some r =>
    if !repTargetOk r w then
      ((s.modGroup e.gid fun g => { g with repcnt := 0, rep := none }).takeTrap e.gid
        { cause := causeIllegalInstr, pc := e.g.pc - 8, addr := encodeWord (.rep r) }, none)
    else match decodeWord w with
      | .bad c => (s.trapHere e (errCause c) w, none)
      | .instr _ => match repWord r w ((repCount r : Int) - e.g.repcnt.toNat) with
        | none => (s.trapHere e causeIllegalOperand w, none)
        | some v => s.decodeFor e w v

/-- R289, R510: a machine check at an instruction boundary. -/
def State.machineCheck (s : State) (e : Env) : State :=
  match e.g.mcheck with
  | none => s
  | some (rows, addr) =>
    ((s.withdraw e).modGroup e.gid fun g => { g with mcheck := none }).takeTrap e.gid
      { cause := causeMachineCheck, pc := e.g.pc, mask := if rows then e.g.live else 0, addr := addr }

/-- R329: a group that goes on after a park or a pre-emption reads the REP word of its repetition again. -/
def State.rereadRep (s : State) (e : Env) : State :=
  if !e.g.resumed then s
  else
    let rep := s.repTarget e e.g.pc
    s.modGroup e.gid fun g => { g with resumed := false, rep := rep, repcnt := if rep.isSome then g.repcnt else 0 }

/-- R134, R197, R314: a selected group fetches its word. -/
noncomputable def State.issueGroup (s : State) (gid : Nat) : State × Option Instr :=
  match s.envOf gid 0 with
  | none => (s, none)
  | some e =>
    if e.g.checkReady then (s.machineCheck e, none)
    else
      let s := s.rereadRep e
      let e := (s.envOf gid 0).getD e
      match s.fetchWord e with
      | (s, .park a ipa) => (s.park gid none a ipa, none)
      | (s, .fills l) => (s.waitAt gid (.fetch l), none)
      | (s, .stop c) => (s.takeTrap gid { cause := c, pc := e.g.pc, addr := e.g.pc }, none)
      | (s, .word w) => ((s.noteIssue gid e.g.core e.g.cp).countIssue e w).issueWord e w

/-- One issue selection of a core partition (R134): nothing, a response, or the instruction that the selected group runs. A core whose
groups are to be pre-empted selects none (R285). -/
noncomputable def State.selection (s : State) (core cp : Nat) : State × Option Instr :=
  if !s.running || (s.core core).preempting then (s, none)
  else match s.select core cp with
    | none => (s, none)
    | some (gid, g) => if g.resps ≠ [] then (s.respond gid, none) else s.issueGroup gid

end Sys2Proof.Machine
end

