-- ==== Sys2Proof/Machine/Events.lean ====
section
/-! DEFINITION. The passing of clocks (R13), what may happen next, and the instruction that an agent then runs (R43, R66, R134, R239). -/
namespace Sys2Proof.Machine

/-! ### Core clocks (R80, R134, R196, R197, R282, R283) -/

/-- R210: a group parks with a fault in service. -/
def Group.parked (g : Group) : Bool := g.waitFor = .page
def State.anyParked (s : State) (p : Block → Bool) : Bool :=
  s.groups.any fun e => e.2.parked && match kget s.blocks e.2.block with | some b => p b | none => false

/-- R283: whether a copy or child launch counted on a counter is parked, stopped or switched out. -/
def State.counterFrozen (s : State) (bid : Nat) (b : Block) (k : Nat) : Bool :=
  let child (l : Launch) : Bool := l.parent = some (bid, k)
    && (l.pins ≠ [] || l.rings ≠ [] || (s.blocks.any fun o => o.2.launch = l.id && !o.2.resident) || s.anyParked fun o => o.launch = l.id)
  (b.stoppedOn k).isSome || ((s.core b.core).copyq.any fun c => c.bid = bid && c.k = k && c.parked) || s.launches.any fun e => child e.2

/-- R283: whether a group's watchdog count is frozen. -/
def State.frozen (s : State) (e : Env) : Bool :=
  let b := e.b
  s.link.retraining || match e.g.wait with
  | 1 => s.groups.any fun o => o.1 ≠ e.gid && o.2.block = e.g.block && o.2.parked
  | 2 => s.anyParked fun o => o.launch = b.launch && o.team = b.team
  | 3 | 13 => match e.g.waitFor with
    | .counterZero k | .kyield k _ | .counterRoom k _ => s.counterFrozen e.g.block b k
    | _ => (List.range 32).any (s.counterFrozen e.g.block b)
  | 5 => (s.core e.g.core).copyq.any (·.parked)
  | 6 => (s.blocks.any fun o => o.2.launch = b.launch && !o.2.resident) || s.anyParked fun o => o.launch = b.launch
  | 7 =>
    let ids := ((kget (s.core e.g.core).rings b.launch).map fun r => r.slots.map (·.2)).getD []
    (ids.any fun id => match kget s.blocks id with | some o => !o.resident | none => false)
      || s.groups.any fun o => ids.contains o.2.block && o.2.parked
  | 4 | 8 => false
  | _ => true

/-- What `n` core clocks do to a resident group. -/
def State.groupClocks (s : State) (n gid : Nat) (g : Group) : Group :=
  match s.envOf gid 0 with
  | none => g
  | some e =>
    let idle := if g.wait = 0 && s.groupReady gid g then (if g.age = 0 then n - 1 else n) else 0
    let wdog := if watchdogApplies g.wait && !s.frozen e then g.wdog + n else g.wdog
    { (((g.count 1 n).count 7 (if g.wait ≠ 0 then n else 0)).count 6 idle) with age := g.age + n, wdog := wdog }

/-- R80: the holder of a core is charged from the admission of its first block until its last record is saved. -/
def Core.charge (c : Core) (occupied : Bool) (n : Nat) : Core :=
  match c.holder with
  | some p => if occupied || (c.charged && !c.preempting) then { c.setDeficit p (c.getDeficit p - n) with charged := true } else c
  | none => c

/-- `n` core clocks of one core pass. -/
def State.coreClocks (s : State) (core n : Nat) : State :=
  { s with groups := kmapAll s.groups fun gid g => if g.core = core then s.groupClocks n gid g else g
           cores := kmod s.cores core fun c => { c.charge (s.occupied core) n with cycles := c.cycles + BitVec.ofNat 64 n } }

/-! ### Fabric clocks (R131, R147, R148, R150, R151) -/

/-- What `n` fabric clocks of a die do to a pinned segment: those of its core's die, and for R150 those of its launch's home scheduler. -/
def State.pinClocks (s : State) (die core n : Nat) (p : Pinned) : Pinned :=
  let p := if s.dieOf core ≠ die then p else
    { p with past := (p.arrivals.length :: p.past).take 4
             buffers := p.buffers.map fun a => { a with age := if a.threads = [] then 0 else a.age + n }
             idle := if s.replicaEmpty core p then p.idle + n else 0 }
  match kget s.launches p.launch, s.travelOf p.launch with
  | some l, some t => if l.home = die then { p with busy := if bufferHeld t p > 49152 then p.busy + n else 0 } else p
  | _, _ => p

/-- R131: the open batches of a launch age by the fabric clock of its home scheduler. -/
def Launch.clocks (die n : Nat) (l : Launch) : Launch := match l.kind with
  | .graph g => if l.home = die then { l with kind := .graph { g with opened := kmapAll g.opened fun _ b => { b with age := b.age + n } } } else l
  | _ => l

/-- R13: `n` clocks of a die's fabric pass. -/
def State.fabricClocks (s : State) (die n : Nat) : State :=
  { s with plat := if die = 0 then { s.plat with fabricCycles0 := s.plat.fabricCycles0 + n } else { s.plat with fabricCycles1 := s.plat.fabricCycles1 + n }
           launches := kmapAll s.launches fun _ l => l.clocks die n
           cores := kmapAll s.cores fun core c => { c with pinned := c.pinned.map (s.pinClocks die core n) } }

/-! ### What an agent runs next -/

/-- An instruction that is an event or a command of the table, not a word of a group or an awl. -/
def isEvent : Instr → Bool
  | .coldReset .. | .warmReset | .firmwareReady | .vfFlr .. | .pwrbrakeAssert | .pwrbrakeRelease .. | .thermalThrottle .. | .thermtrip .. 
  | .powerLimitExceeded .. | .coreClockChange .. | .flitCrcFail .. | .linkRetrain .. | .linkRetrainEnd .. | .hotPlug .. | .barResize .. 
  | .windowAccess .. | .atsInvalidation .. | .priResponse .. | .registerWrite .. | .wctlWrite .. | .qctlEnable .. | .qctlDisable .. 
  | .qwptrWrite .. | .elctlWrite .. | .nonce | .enroll | .revoke | .vendoroff | .svnset | .seal | .fwstage | .s2root | .s2inval | .fotset 
  | .errread | .outset .. | .unknownMailboxRequest | .getVersion .. | .getCapabilities .. | .negotiateAlgorithms .. | .getDigests .. 
  | .getCertificate .. | .challenge .. | .getMeasurements .. | .cmdNop .. | .cmdLaunch .. | .copy .. | .hostCopyComplete .. | .fenceWait .. 
  | .fenceWaitRecheck .. | .fenceSignal .. | .presentShow .. | .presentCapture .. | .inval .. | .resFence .. | .awlRegRegister .. 
  | .awlRegRemove .. | .grantCreate .. | .grantChange .. | .grantWithdraw .. | .ownmapTiles .. | .ownmapBlocks .. | .ownmapAssign .. 
  | .ownmapRegion .. | .ctxCreate .. | .ctxDestroy .. | .ctxReconfigure .. | .partCfg .. | .partCfgDisable .. | .partPause .. 
  | .partResume .. | .unknownCommand .. | .latchPoint .. | .scanout .. | .blockPlace .. | .blockRetire .. | .armedLaunchStart .. 
  | .temporalQuantumExpiry .. | .batchTimeout .. | .batchDispatch .. | .travelPin .. | .hopArrival .. | .arrivalAdmit .. 
  | .assemblyTimeout .. | .segmentReplicate .. | .replicaRetire .. | .binChunk .. | .tilePassStart .. | .pixelGroupStart .. 
  | .meshGroupAdmit .. | .pmodeWindowEnd .. | .memoryResponse .. | .copyComplete .. | .copyStop .. | .matrixOpFinish .. | .awlInvocation .. 
  | .awlMessageArrival .. | .amsgReplyArrival .. | .awlBudgetExhausted .. | .watchdogExpiry .. | .contextPreempt .. | .contextRestore .. 
  | .uncorrectableError .. | .correctedError .. | .macroSelfTest .. | .writeAcknowledgement .. | .perfCounterWrap .. | .powerRemoval => true
  | _ => false

/-- R17, R36: the events of the board, which a package whose clocks have stopped sees too. -/
def isPin : Instr → Bool
  | .coldReset .. | .powerRemoval | .hotPlug .. | .pwrbrakeAssert | .pwrbrakeRelease .. => true
  | _ => false

/-- R49: the row of the table that the command at a queue's head is. -/
def commandOf (s : State) (fn ctx : Nat) (c : Cmd) : Instr :=
  match c.opc with
  | 0x00 => .cmdNop fn ctx
  | 0x01 => .cmdLaunch fn ctx
  | 0x02 => .copy fn ctx
  | 0x03 => .fenceWait fn ctx
  | 0x04 => .fenceSignal fn ctx
  | 0x05 => if c.at 25 1 = 1 then .presentCapture fn ctx else .presentShow fn ctx
  | 0x06 => .inval fn ctx
  | 0x07 => .resFence fn ctx
  | 0x08 => if c.at 16 1 = 1 then .awlRegRemove fn ctx else .awlRegRegister fn ctx
  | 0x09 => match c.at 16 1 with | 1 => .grantChange fn ctx | 2 => .grantWithdraw fn ctx | _ => .grantCreate fn ctx
  | 0x0A => match c.at 16 1 with | 1 => .ownmapBlocks fn ctx | 2 => .ownmapAssign fn ctx | 3 => .ownmapRegion fn ctx | _ => .ownmapTiles fn ctx
  | 0x0B => match c.at 16 1 with | 1 => .ctxDestroy fn ctx | 2 => .ctxReconfigure fn ctx | _ => .ctxCreate fn ctx
  | 0x0C => match partKind s c with | .write => .partCfg fn ctx | .disable => .partCfgDisable fn ctx | .pause => .partPause fn ctx | .resume => .partResume fn ctx
  | _ => .unknownCommand fn ctx

/-- R67: the row of the table that the mailbox's request is; `trained` is how a link training would end. -/
def mailboxInstr (code : Nat) (trained : Bool) : Instr :=
  match code with
  | 0x01 => .nonce | 0x02 => .enroll | 0x03 => .revoke | 0x04 => .vendoroff | 0x05 => .svnset | 0x06 => .seal | 0x07 => .fwstage
  | 0x10 => .s2root | 0x11 => .s2inval | 0x12 => .fotset | 0x13 => .errread | 0x20 => .outset trained
  | _ => .unknownMailboxRequest

/-- What an event does before an instruction runs, and the instruction that is then to run, if one is. -/
noncomputable def State.agentPicks (s : State) (e : Event) : State × Option Instr :=
  let s := { s with cur := .none }
  match e with
  | .op i => if isEvent i && (s.running || isPin i) then (s, some i) else (s, none)
  | .issue core cp => s.selection core cp
  | .awl n => if s.running then ({ s with cur := .awl n }, s.awlNext n) else (s, none)
  | .queue fn ctx => match s.headCmd fn ctx with
    | (s', none) => (s', none)
    | (_, some c) => (s, some (commandOf s fn ctx c))
  | .mailbox => if s.running then (s.skip 1, some (mailboxInstr s.mbox.req.toNat (Config.freeBool s.freeCtr))) else (s, none)
  | .registerRead fn off => (s.hostRead fn off, none)
  | .coreClock core n => (if s.running && core < s.ncores then s.coreClocks core n else s, none)
  | .fabricClock die n => (if s.running then s.fabricClocks die n else s, none)
  | .linkSend dir chan => (if s.running then s.linkSend dir chan else s, none)
  | .linkAck dir chan seq => (if s.running then s.linkAck dir chan seq else s, none)
  | .copyMove core idx => (s.copyMove core idx, none)
  | .bridleClock n => (if s.running then { s with plat := { s.plat with bridleCycles := s.plat.bridleCycles + BitVec.ofNat 64 n } } else s, none)

/-- R246, R29: whether an instruction would access a line that an awl holds, or send what the link does not take while it retrains. -/
noncomputable def State.stalls (s : State) (i : Instr) : Bool :=
  (s.heldLines ≠ [] || s.link.retraining) && match exec i s with | .next t => t.stalled | _ => false

/-- What an event does, and the instruction that runs. What would stall has not happened yet (log 82). -/
noncomputable def State.agentInstr (s : State) (e : Event) : State × Option Instr :=
  match s.agentPicks e with
  | (t, some i) => if t.stalls i then (s, none) else (t, some i)
  | (t, none) => (if t.stalled then s else t, none)

/-- The event that happens when the agenda names none (log 1). -/
opaque freeEvent : Nat → Event

/-- The next event, off the agenda. -/
def State.nextEvent (s : State) : State × Event :=
  match s.agenda with
  | e :: rest => ({ s with agenda := rest }, e)
  | [] => ({ s with freeCtr := s.freeCtr + 1 }, freeEvent s.freeCtr)

/-! ### Placing an instruction where the next step runs it (log 2) -/

/-- The bytes of an instruction whose bits are `w`, the bits beyond `nbits` zero. -/
def wordBytes (n nbits w : Nat) : List Byte := leBytes n (w % 2 ^ nbits)

/-- An awl that is about to run one instruction. -/
def Awl.about (a : Awl) (image : List Byte) : Awl :=
  { a with pc := 0, budget := 1024
           run := some { ev := { id := 0, code := 0, ctx := ctxKey 31 0, window := 0, va := 0 }, image := image, owed := false } }

/-- Where the word and the tables that map it lie: the first frames beyond the frame ownership table's. -/
def placeBase : Nat := 0x100000
/-- R205: an entry of a table, and one of a page that may be read, written and executed. -/
def tableEntry (pa : Nat) : Nat := pa + 1
def pageEntry (pa : Nat) : Nat := pa + 3 + 7 * 2 ^ 51

/-- Tables that map the first page of a context's addresses to the page behind them, and the word there. -/
def placeWord (m : Sparse 8) (word : List Byte) : Sparse 8 :=
  let put (m : Sparse 8) (i v : Nat) : Sparse 8 := setBytes m (placeBase + 4096 * i) (leBytes 8 v)
  setBytes (put (put (put (put m 0 (tableEntry (placeBase + 4096))) 1 (tableEntry (placeBase + 8192))) 2 (tableEntry (placeBase + 12288))) 3
    (pageEntry (placeBase + 16384))) (placeBase + 16384) word

/-- A group of a block of a launch of PF0's context 0, alone on core 0, at address 0. -/
def placedGroup : Group := { uid := 3, core := 0, cp := 0, slot := 0, block := 2, vregs := 64, sregs := 64, pc := 0, regs := { m := [(0, 1)] } }
def placedBlock : Block := { id := 2, launch := 1, core := 0, matrix := true, spmSize := 1024 }
def placedLaunch : Launch :=
  { id := 1, ctx := ctxKey 31 0, recAddr := 0, recd := { nx := 1, ny := 1, nz := 1, threads := 1, vregs := 64, sregs := 64 }, home := 0, depth := 0, stamp := 0
    order := 1, next := 1 }

end Sys2Proof.Machine
end

