-- ==== Sys2Proof/Machine/Step.lean ====
section
/-! DEFINITION. One step of the machine: the next event, and the instruction that it runs. -/
namespace Sys2Proof.Machine

/-- One step. -/
noncomputable def step (s : State) : Host.Outcome State Fault Refusal :=
  match s.nextEvent.1.agentInstr s.nextEvent.2 with
  | (s, none) => .next s
  | (s, some i) => exec i s

/-- The instruction of up to 32 bits about to run on awl 0, a longer one on a group of core 0 (log 2). -/
def State.withFetchWord (s : State) (nbits w : Nat) : State :=
  if nbits ≤ 32 then
    { s with agenda := .awl 0 :: s.agenda, awls := kset s.awls 0 ((s.awl 0).about (wordBytes 4 nbits w)) }
  else
    { s with agenda := .issue 0 0 :: s.agenda
             mem := placeWord s.mem (wordBytes 8 nbits w)
             ctxs := kset s.ctxs (ctxKey 31 0) { s.ctx (ctxKey 31 0) with s1root := BitVec.ofNat 64 placeBase }
             launches := kset s.launches 1 placedLaunch
             blocks := kset s.blocks 2 placedBlock
             groups := kset s.groups 0 placedGroup
             nextId := s.nextId + 4 }

end Sys2Proof.Machine
end

