-- ==== Sys2Proof/Safety.lean ====
section
/-! DEFINITION. What counts as a safe run, and the vocabulary of the claims about one instruction: what its group is left as, and
that nothing else has changed. -/
namespace Sys2Proof.Machine

/-- One step goes on. -/
def SafeStep (s : State) : Prop := ∃ t, step s = .next t

/-- A run of `n` steps goes on to its end. -/
def SafeRun (n : Nat) (s : State) : Prop := ∃ t, Sys2Proof.core.run n s = .next t

/-- Why the word of an F3, FM or FI instruction traps at decode for a group (R336): its form, or its operands and the group's
allocation. -/
def decodeCause (i : Instr) (g : Group) : Option Nat :=
  match i.sheet with
  | none => none
  | some sh => match i.f3? with
    | some f => f3Cause sh g f
    | none => match i.fi? with | some f => fiCause sh g f | none => none

/-- R336, R340: whether the group's launch and program are of a kind that may execute an instruction (R146, R153, R154, R473, R474, R476, R477, R489);
elsewhere it traps ILLEGAL_INSTR, whatever its operands are. -/
def kindAllows (i : Instr) (e : Env) : Bool :=
  match i with
  | .hopl _ => e.travel
  | .segid f => e.travel && opKind f.d = .scalar
  | .cpymc _ => !e.travel
  | .vtxout f => e.b.prog = .mesh || (e.b.prog = .attr && f.b = 0x200#11)
  | .posout f => e.b.prog = .mesh || (e.b.prog = .position && f.b = 0x200#11)
  | .primout _ | .meshend _ => e.b.prog = .mesh
  | .taskout _ => e.b.prog = .task
  | .pixout _ | .zout _ | .discard _ | .pixld _ => e.b.prog = .tile && (match e.l.kind with | .gfx _ => true | _ => false)
  | .emit _ | .emitc _ => match e.l.kind with | .graph _ => true | _ => false
  | _ => true

/-- The group `h` is `g` but for its performance counters: those whose EN bit is set may have counted, and their OVF bits may be
set (R196, R197). -/
def CountsOnly (g h : Group) : Prop :=
  ∃ pcs pctl, h = { g with pcs := pcs, pctl := pctl } ∧ pctl.extractLsb' 0 28 = g.pctl.extractLsb' 0 28
    ∧ ∀ i < 4, g.pctl.getLsbD (24 + i) = false → pcs[i]? = g.pcs[i]? ∧ pctl.getLsbD (28 + i) = g.pctl.getLsbD (28 + i)

/-- The state `t` is `s` with the group of `e` become `g`, its performance counters aside, and some free values passed over. Everything
else is as it was. -/
def Became (s t : State) (e : Env) (g : Group) : Prop :=
  ∃ h n, CountsOnly g h ∧ t = { s with groups := kmod s.groups e.gid fun _ => h, freeCtr := n }

/-- The state `t` is `s` after the group's word is done with its registers become `r`. -/
def Did (s t : State) (e : Env) (r : Regs) : Prop := Became s t e { e.g with regs := r }.advance

/-- The state `t` is `s` but for the group's performance counters and the free values passed over. -/
def Counted (s t : State) (e : Env) : Prop := Became s t e e.g

/-- Registers `r` are those of the group of `e` with `n` vector registers from `d` up written in the threads of `m`, thread `t` of
register `d + k` with `f t k`; a write of a vector register shifts the latch tags (R187). -/
def VWrote (e : Env) (m : Mask) (d n : Nat) (f : Nat → Nat → Word) (r : Regs) : Prop :=
  (∀ t < 128, ∀ k < n, r.vget (d + k) t = if m.getLsbD t then f t k else e.g.regs.vget (d + k) t)
    ∧ (∀ t < 128, ∀ q, q < d ∨ d + n ≤ q → r.vget q t = e.g.regs.vget q t)
    ∧ r = { e.g.regs with v := r.v, tags := some (BitVec.ofNat 8 d) :: e.g.regs.tags.take 3 }

/-- R187, R333: the latch tags after a half of a paired word. -/
def tagsAfterHalf (h : Half) (l : List (Option (BitVec 8))) : List (Option (BitVec 8)) :=
  if h.ho = 0 then l else some (BitVec.ofNat 8 h.d.toNat) :: l.take 3

/-- Registers `r` are those of the group of `e` with mask `d` written by a compare (R409, R415): in the threads of `m` the condition,
elsewhere zero; a word that runs again after a fault leaves the threads outside its replay as they are. -/
def CmpWrote (e : Env) (m : Mask) (d : Nat) (f : Nat → Bool) (r : Regs) : Prop :=
  r = { e.g.regs with m := r.m } ∧ (∀ q, q ≠ d → r.mget q = e.g.regs.mget q)
    ∧ ∀ t < 128, (r.mget d).getLsbD t = match e.g.replay with
      | some p => if p.getLsbD t then m.getLsbD t && f t else (e.g.regs.mget d).getLsbD t
      | none => m.getLsbD t && f t

/-- What a branch to `target` with the group's registers become `r` does: the branch is taken, or it traps with nothing else changed
(R313, R324, R388). -/
def Jumps (s : State) (e : Env) (i : Instr) (target : DWord) (r : Regs) : Prop :=
  (target.extractLsb' 0 3 = 0 → canonical target = true → ∃ t, exec i s = .next t ∧ Became s t e ({ e.g with regs := r }.goto target))
    ∧ (target.extractLsb' 0 3 ≠ 0 → ∃ u, Counted s u e ∧ exec i s = .next (u.trapHere e 0x04 target))
    ∧ (target.extractLsb' 0 3 = 0 → canonical target = false → ∃ u, Counted s u e ∧ exec i s = .next (u.trapHere e 0x05 target))

/-- The group does not wait for a cinch counter. -/
def NotAtCounter (g : Group) : Prop := (∀ k, g.waitFor ≠ .counterZero k) ∧ ∀ k t, g.waitFor ≠ .kyield k t

/-- The group of `e` has set counter `k` of its block to `v` and moved on (R396); at zero the launches armed on it are due (R127) and the
groups of the block that wait for it go on, which the others of the block then know of (R397, R441). -/
def SetCounter (s t : State) (e : Env) (k v : Nat) : Prop :=
  (∃ b, kget t.blocks e.g.block = some b ∧ b.k = e.b.k.set k (BitVec.ofNat 16 v)
      ∧ b = { e.b with k := b.k, armed := e.b.armed.map fun a => if v = 0 ∧ a.k = k then { a with due := true } else a })
    ∧ (∀ j, j ≠ e.g.block → kget t.blocks j = kget s.blocks j)
    ∧ (∃ g, kget t.groups e.gid = some g
        ∧ CountsOnly (if v = 0 then e.g.counterZero k (s.awaited e.g.block k) else e.g).advance g)
    ∧ (∀ j, j ≠ e.gid → kget t.groups j = (kget s.groups j).map fun g =>
        if v = 0 ∧ g.block = e.g.block then g.counterZero k (s.awaited e.g.block k) else g)
    ∧ t = { s with groups := t.groups, blocks := t.blocks, freeCtr := t.freeCtr }

/-- Every access of `l`, a thread with its address, is aligned to `w` bytes and reaches device memory: thread `t` address `pa t`, in a
page that is uncached when `unc t` holds. -/
def Reaches (s : State) (e : Env) (k : Access) (w : Nat) (l : List (Nat × DWord)) (pa : Nat → Nat) (unc : Nat → Bool) : Prop :=
  ∀ x ∈ l, x.2.toNat % w = 0 ∧ ∀ n, (s.access n e.ck x.2 k).1 = .dev (pa x.1) (unc x.1)

/-- Every line of those accesses is in its home slice, and no awl holds it. -/
def Hits (s : State) (l : List (Nat × DWord)) (pa : Nat → Nat) : Prop :=
  ∀ x ∈ l, (s.line? (pa x.1)).isSome = true ∧ kget s.heldLines (lineOf (pa x.1)) = none

/-- Those accesses write at once: their lines hit, no copy of one is to acknowledge and no write to one is pending (R218), and the link is not
retraining (R29). -/
def Lands (s : State) (l : List (Nat × DWord)) (pa : Nat → Nat) : Prop :=
  Hits s l pa ∧ s.link.retraining = false ∧ ∀ x ∈ l, s.mustWait (pa x.1) = false

/-- The state `v` is `u` after an access of a line that is in its home slice: the line's place in its set's order may be another (R216). -/
def Looked (u v : State) : Prop := ∃ o n, v = { u with evictOrder := o, freeCtr := n }

/-- Thread `i`'s `w` bytes at `at_ i` overlap no other thread's. -/
def Alone (l : List Nat) (at_ : Nat → Nat) (w i : Nat) : Prop := ∀ j ∈ l, j ≠ i → at_ j + w ≤ at_ i ∨ at_ i + w ≤ at_ j

/-- The address `a` lies outside every thread's `w` bytes. -/
def Outside (l : List Nat) (at_ : Nat → Nat) (w a : Nat) : Prop := ∀ j ∈ l, a < at_ j ∨ at_ j + w ≤ a

/-- Groups other than that of `e`, and all blocks and launches, are as they were, but for the old values that an async operation or a
fetch may still read (R260, R315). -/
def OthersKept (s t : State) (e : Env) : Prop :=
  (∀ j g, j ≠ e.gid → kget s.groups j = some g → ∃ u v, kget t.groups j = some { g with unfenced := u, uncode := v })
    ∧ t.launches = s.launches ∧ t.hostMem = s.hostMem

/-- Byte `i` of the data that thread `t` stores. -/
def storeByte (g : Group) (f : F3) (t i : Nat) : Byte := (g.srcAt f.d t (i / 4)).extractLsb' (8 * (i % 4)) 8

/-- No operand is read through a latch. -/
def NoLatch (f : F3) : Prop := opKind f.d ≠ .latch ∧ opKind f.a ≠ .latch ∧ opKind f.b ≠ .latch

/-- The agents and the outputs are as they were, but for what the writes of a record or of a structure leave with them: old values that may still be
read (R111, R260, R315), and the lines that a core's L1 gives up (R216). -/
def Noted (s t : State) : Prop :=
  (∀ j g, kget s.groups j = some g → ∃ u v, kget t.groups j = some { g with unfenced := u, uncode := v })
    ∧ (∀ j c, kget s.cores j = some c → ∃ q p l, kget t.cores j = some { c with copyq := q, pipe := p, l1 := l })
    ∧ (∀ j x, kget s.ctxs j = some x → ∃ l, kget t.ctxs j = some { x with saved := l })
    ∧ ∀ j o, kget s.outs j = some o → ∃ l, kget t.outs j = some { o with old := l }

/-- Reading a structure of memory leaves the agents and what they hold alone, but for what the record of a failed walk leaves with them (R206). -/
def ReadOnly (s u : State) : Prop :=
  Noted s u ∧ u.blocks = s.blocks ∧ u.launches = s.launches ∧ u.nextId = s.nextId ∧ u.hostMem = s.hostMem

/-- Registers `r` are those of the group of `e` with the pair from `d` of each thread listed written with the thread's value. -/
def PairsWrote (e : Env) (d : Nat) (l : List (Nat × DWord)) (r : Regs) : Prop :=
  r = { e.g.regs with v := r.v } ∧ ∀ i < 128, ∀ q, r.vget q i = match l.find? fun x => x.1 = i with
    | some x => if q = d then lo32 x.2 else if q = d + 1 then hi32 x.2 else e.g.regs.vget q i
    | none => e.g.regs.vget q i

/-- The group of `e` has moved on and is owed words of thread `i` of the registers from `d`: each with its number from there. An event that finds its
awl's queue full leaves an old value of its abort block to be read (R245, R260). -/
def Owes (e : Env) (d i : Nat) (r : State) (l : List (Nat × Word)) : Prop :=
  ∃ g, kget r.groups e.gid = some g ∧ CountsOnly { e.g with
    unfenced := g.unfenced, uncode := g.uncode
    resps := e.g.resps ++ [Resp.mk (l.map fun (w : Nat × Word) => RespItem.val false (128 * (d + w.1) + i) w.2) [] false false] }.advance g

/-- The launch that block `bid` of a group's `e` starts from a checked record, counted on counter `k`. -/
def ChildOf (e : Env) (va : DWord) (r : LaunchRec) (die k : Nat) (l : Launch) : Prop :=
  l.recd = r ∧ l.recAddr = va ∧ l.ctx = e.ck ∧ l.home = die ∧ l.depth = e.l.depth + 1 ∧ l.stamp = e.l.stamp ∧ l.parent = some (e.g.block, k)
    ∧ l.host = none ∧ l.next = 0

/-- Awl `n` runs an invocation and has budget left for an instruction. -/
def AwlRuns (s : State) (n : Nat) (q : AwlRun) : Prop := s.cur = .awl n ∧ (s.awl n).run = some q ∧ (s.awl n).budget ≠ 0

/-- R249: an awl that has retired an instruction: `v` in `rd` unless that is x0, the next place, and one less of budget. -/
def retired (a : Awl) (rd : BitVec 5) (v : Word) (pc : Nat) : Awl :=
  { a with x := if rd = 0 then a.x else sset a.x rd.toNat v, pc := pc, budget := a.budget - 1 }

/-- The state `t` is `u` with an instruction of awl `n` retired. -/
def Retires (u t : State) (n : Nat) (rd : BitVec 5) (v : Word) (pc : Nat) : Prop :=
  t = { u with awls := kmod u.awls n fun a => retired a rd v pc }

/-- R250: the invocation of awl `n` is over, and the reply it owed has the status given. -/
def AwlOver (s t : State) (n : Nat) (q : AwlRun) (status : Word) : Prop :=
  (t.awl n).run = none ∧ (∀ e ∈ t.heldLines, e.2 ≠ n)
    ∧ t.awlReplies = s.awlReplies ++ match q.owed, q.ev.reply with
      | true, some (.thread uid i) => [{ uid := uid, t := i, value := 0, status := status, die := n / 24 }]
      | _, _ => []

/-- The Bridle has read command `c` of an opcode at the head of a queue, and it passes the checks of class, header and count that come first (R45-R51). -/
def Heads (s u : State) (fn num opc count : Nat) (cls : Option Nat) (c : Cmd) : Prop :=
  s.headCmd fn num = (u, some c) ∧ c.fn = fn ∧ c.ck = ctxKey (partOfFn fn) num ∧ (kget u.ctxs c.ck).isSome ∧ c.opc = opc ∧ c.count = count
    ∧ u.allowed c.ck cls = true ∧ c.at 1 1 < 2 ∧ zeroAt c.bytes 3 5 = true

/-- The state with a command off its queue and counted in its visit (R45, R48). -/
def offQueue (u : State) (c : Cmd) : State :=
  { u with
    ctxs := kmod u.ctxs c.ck fun x => { x with queue := { x.queue with rptr := x.queue.rptr + BitVec.ofNat 32 c.count, seq := x.queue.seq + 1, parked := none } }
    parts := kmod u.parts (partOfFn c.fn) fun p => { p with taken := p.taken + 1 } }

/-- The state with a command started that completes later (R48). -/
def started (v : State) (c : Cmd) : State :=
  { v with ctxs := kmod v.ctxs c.ck fun x => { x with queue := { x.queue with
    opened := x.queue.opened ++ [{ seq := c.seq, tag := c.tag, gen := c.gen, complete := c.wants }] } } }

end Sys2Proof.Machine
end

