-- ==== Sys2Proof/Certificates/Slice0/Obligations.lean ====
section
/-! DEFINITION. The statements about the machine, for the provers. -/
open Sys2Proof Sys2Proof.Machine

/-- R378, R379: SALU over i32 with two sources. Each completes with its result in S[D] and nothing else changed. R377: SALUI over i32, with the
immediate sign-extended in the place of B. -/
def Obligations.ScalarIntegerResults : Prop :=
  (∀ (s : State) (e : Env) (f : F3), s.env = some e → f.ty = 0 →
    ∀ row ∈ ([
      (Instr.sadd, fun a b => a + b), (Instr.ssub, fun a b => a - b), (Instr.smul, fun a b => a * b),
      (Instr.smulhi, fun a b => BitVec.ofInt 32 (a.toInt * b.toInt / 2 ^ 32)),
      (Instr.smulhu, fun a b => BitVec.ofNat 32 (a.toNat * b.toNat / 2 ^ 32)),
      (Instr.sdiv, fun a b => if b = 0 then (if a.toInt < 0 then 1 else 0xFFFFFFFF#32) else BitVec.ofInt 32 (a.toInt.tdiv b.toInt)),
      (Instr.sdivu, fun a b => if b = 0 then 0xFFFFFFFF#32 else BitVec.ofNat 32 (a.toNat / b.toNat)),
      (Instr.srem, fun a b => if b = 0 then a else BitVec.ofInt 32 (a.toInt.tmod b.toInt)),
      (Instr.sremu, fun a b => if b = 0 then a else BitVec.ofNat 32 (a.toNat % b.toNat)),
      (Instr.sand, fun a b => a &&& b), (Instr.sor, fun a b => a ||| b), (Instr.sxor, fun a b => a ^^^ b),
      (Instr.sshl, fun a b => BitVec.ofNat 32 (a.toNat * 2 ^ (b.toNat % 32))),
      (Instr.sshr, fun a b => BitVec.ofNat 32 (a.toNat / 2 ^ (b.toNat % 32))),
      (Instr.ssar, fun a b => BitVec.ofInt 32 (a.toInt / 2 ^ (b.toNat % 32))),
      (Instr.smin, fun a b => BitVec.ofInt 32 (min a.toInt b.toInt)), (Instr.smax, fun a b => BitVec.ofInt 32 (max a.toInt b.toInt)),
      (Instr.sminu, fun a b => BitVec.ofNat 32 (min a.toNat b.toNat)), (Instr.smaxu, fun a b => BitVec.ofNat 32 (max a.toNat b.toNat)),
      (Instr.ssel, fun a b => if e.g.regs.cget f.x.toNat then a else b)] : List ((F3 → Instr) × (Word → Word → Word))),
    decodeCause (row.1 f) e.g = none →
      ∃ t, exec (row.1 f) s = .next t ∧ Did s t e (e.g.regs.sset (regOf f.d) (row.2 (e.g.s32 f.a) (e.g.s32 f.b))))
  ∧ (∀ (s : State) (e : Env) (f : FI), s.env = some e → f.ty = 0 →
    ∀ row ∈ ([
      (Instr.saddI, fun a b => a + b), (Instr.ssubI, fun a b => a - b), (Instr.smulI, fun a b => a * b),
      (Instr.smulhiI, fun a b => BitVec.ofInt 32 (a.toInt * b.toInt / 2 ^ 32)),
      (Instr.smulhuI, fun a b => BitVec.ofNat 32 (a.toNat * b.toNat / 2 ^ 32)),
      (Instr.sdivI, fun a b => if b = 0 then (if a.toInt < 0 then 1 else 0xFFFFFFFF#32) else BitVec.ofInt 32 (a.toInt.tdiv b.toInt)),
      (Instr.sdivuI, fun a b => if b = 0 then 0xFFFFFFFF#32 else BitVec.ofNat 32 (a.toNat / b.toNat)),
      (Instr.sremI, fun a b => if b = 0 then a else BitVec.ofInt 32 (a.toInt.tmod b.toInt)),
      (Instr.sremuI, fun a b => if b = 0 then a else BitVec.ofNat 32 (a.toNat % b.toNat)),
      (Instr.sandI, fun a b => a &&& b), (Instr.sorI, fun a b => a ||| b), (Instr.sxorI, fun a b => a ^^^ b),
      (Instr.sshlI, fun a b => BitVec.ofNat 32 (a.toNat * 2 ^ (b.toNat % 32))),
      (Instr.sshrI, fun a b => BitVec.ofNat 32 (a.toNat / 2 ^ (b.toNat % 32))),
      (Instr.ssarI, fun a b => BitVec.ofInt 32 (a.toInt / 2 ^ (b.toNat % 32))),
      (Instr.sminI, fun a b => BitVec.ofInt 32 (min a.toInt b.toInt)), (Instr.smaxI, fun a b => BitVec.ofInt 32 (max a.toInt b.toInt)),
      (Instr.sminuI, fun a b => BitVec.ofNat 32 (min a.toNat b.toNat)),
      (Instr.smaxuI, fun a b => BitVec.ofNat 32 (max a.toNat b.toNat))] : List ((FI → Instr) × (Word → Word → Word))),
    decodeCause (row.1 f) e.g = none →
      ∃ t, exec (row.1 f) s = .next t ∧ Did s t e (e.g.regs.sset (regOf f.d) (row.2 (e.g.s32 f.a) (f.imm.signExtend 32))))

/-- R377, R378: the 64-bit forms of SALU and SALUI write the pair from S[D]; a constant entry from 80 up traps ILLEGAL_OPERAND. -/
def Obligations.ScalarWideResults : Prop :=
  ∀ (s : State) (e : Env), s.env = some e →
    ∀ row ∈ ([
      (Instr.sadd, Instr.saddI, fun a b => a + b), (Instr.ssub, Instr.ssubI, fun a b => a - b),
      (Instr.sand, Instr.sandI, fun a b => a &&& b), (Instr.sor, Instr.sorI, fun a b => a ||| b), (Instr.sxor, Instr.sxorI, fun a b => a ^^^ b),
      (Instr.sshl, Instr.sshlI, fun a b => BitVec.ofNat 64 (a.toNat * 2 ^ (b.toNat % 64))),
      (Instr.sshr, Instr.sshrI, fun a b => BitVec.ofNat 64 (a.toNat / 2 ^ (b.toNat % 64))),
      (Instr.ssar, Instr.ssarI, fun a b => BitVec.ofInt 64 (a.toInt / 2 ^ (b.toNat % 64)))] :
        List ((F3 → Instr) × (FI → Instr) × (DWord → DWord → DWord))),
    (∀ f : F3, f.ty = 14 → decodeCause (row.1 f) e.g = none →
      if (opKind f.a = .const ∧ 80 ≤ regOf f.a) ∨ (opKind f.b = .const ∧ 80 ≤ regOf f.b)
      then ∃ u, Counted s u e ∧ exec (row.1 f) s = .next (u.trapWord e 0x03)
      else ∃ t, exec (row.1 f) s = .next t ∧ Did s t e (e.g.regs.sset64 (regOf f.d) (row.2.2 (e.g.s64 f.a) (e.g.s64 f.b))))
    ∧ ∀ f : FI, f.ty = 14 → decodeCause (row.2.1 f) e.g = none →
      if opKind f.a = .const ∧ 80 ≤ regOf f.a then ∃ u, Counted s u e ∧ exec (row.2.1 f) s = .next (u.trapWord e 0x03)
      else ∃ t, exec (row.2.1 f) s = .next t ∧ Did s t e (e.g.regs.sset64 (regOf f.d) (row.2.2 (e.g.s64 f.a) (f.imm.signExtend 64)))

/-- R378, R380, R381: the scalar moves, bit counts, field extracts and inserts, and the long immediates. -/
def Obligations.ScalarMoveAndFieldResults : Prop :=
  ∀ (s : State) (e : Env), s.env = some e →
    (∀ f, f.ty = 0 → decodeCause (.smov f) e.g = none → ∃ t, exec (.smov f) s = .next t ∧ Did s t e (e.g.regs.sset (regOf f.d) (e.g.s32 f.a)))
    ∧ (∀ f, f.ty = 14 → decodeCause (.smov f) e.g = none → ¬(opKind f.a = .const ∧ 80 ≤ regOf f.a) →
        ∃ t, exec (.smov f) s = .next t ∧ Did s t e (e.g.regs.sset64 (regOf f.d) (e.g.s64 f.a)))
    ∧ (∀ f, f.ty = 14 → decodeCause (.smov f) e.g = none → opKind f.a = .const → 80 ≤ regOf f.a →
        ∃ u, Counted s u e ∧ exec (.smov f) s = .next (u.trapWord e 0x03))
    ∧ (∀ f, decodeCause (.spopc f) e.g = none → ∃ t, exec (.spopc f) s = .next t
        ∧ Did s t e (e.g.regs.sset (regOf f.d) (BitVec.ofNat 32 ((List.range 32).countP (e.g.s32 f.a).getLsbD))))
    ∧ (∀ f, decodeCause (.sclz f) e.g = none → ∃ t n, exec (.sclz f) s = .next t ∧ Did s t e (e.g.regs.sset (regOf f.d) (BitVec.ofNat 32 n))
        ∧ n ≤ 32 ∧ (e.g.s32 f.a).toNat < 2 ^ (32 - n) ∧ (n < 32 → 2 ^ (31 - n) ≤ (e.g.s32 f.a).toNat))
    ∧ (∀ f o n, decodeCause (.sbfe f) e.g = none → o = (e.g.s32 f.b).toNat % 32 → n = min ((e.g.s32 f.b).toNat / 256 % 64) (32 - o) →
        ∃ t, exec (.sbfe f) s = .next t ∧ Did s t e (e.g.regs.sset (regOf f.d)
          (if f.x.getLsbD 0 then ((e.g.s32 f.a).extractLsb' o n).signExtend 32 else ((e.g.s32 f.a).extractLsb' o n).setWidth 32)))
    ∧ (∀ f o n, decodeCause (.sbfeI f) e.g = none → o = (f.imm.signExtend 32).toNat % 32 →
        n = min ((f.imm.signExtend 32).toNat / 256 % 64) (32 - o) →
        ∃ t, exec (.sbfeI f) s = .next t ∧ Did s t e (e.g.regs.sset (regOf f.d) (((e.g.s32 f.a).extractLsb' o n).setWidth 32)))
    ∧ (∀ f o n, decodeCause (.sbfi f) e.g = none → o = (e.g.s32 f.b).toNat % 32 → n = min ((e.g.s32 f.b).toNat / 256 % 64) (32 - o) →
        ∃ t v, exec (.sbfi f) s = .next t ∧ Did s t e (e.g.regs.sset (regOf f.d) v) ∧ ∀ i < 32, v.getLsbD i =
          if o ≤ i ∧ i < o + n then (e.g.s32 f.a).getLsbD (i - o) else (e.g.regs.sget (regOf f.d)).getLsbD i)
    ∧ (∀ f o n, decodeCause (.sbfiI f) e.g = none → o = (f.imm.signExtend 32).toNat % 32 →
        n = min ((f.imm.signExtend 32).toNat / 256 % 64) (32 - o) →
        ∃ t v, exec (.sbfiI f) s = .next t ∧ Did s t e (e.g.regs.sset (regOf f.d) v) ∧ ∀ i < 32, v.getLsbD i =
          if o ≤ i ∧ i < o + n then (e.g.s32 f.a).getLsbD (i - o) else (e.g.regs.sget (regOf f.d)).getLsbD i)
    ∧ (∀ f, flCause 1 f e.g = none → ∃ t, exec (.sli f) s = .next t ∧ Did s t e (e.g.regs.sset (regOf f.d) f.imm))
    ∧ (∀ f, flCause 2 f e.g = none → ∃ t, exec (.sadr f) s = .next t ∧ Did s t e (e.g.regs.sset64 (regOf f.d) (e.g.pc + f.imm.signExtend 64)))

/-- R382, R384: the scalar compares write one condition bit. -/
def Obligations.ScalarCompareResults : Prop :=
  ∀ (s : State) (e : Env), s.env = some e →
    (∀ row ∈ ([
      (Instr.scmpeq, Instr.scmpeqI, fun a b _ _ => decide (a = b)), (Instr.scmpne, Instr.scmpneI, fun a b _ _ => decide (a ≠ b)),
      (Instr.scmplt, Instr.scmpltI, fun a b _ _ => decide (a < b)), (Instr.scmple, Instr.scmpleI, fun a b _ _ => decide (a ≤ b)),
      (Instr.scmpltu, Instr.scmpltuI, fun _ _ a b => decide (a < b)), (Instr.scmpleu, Instr.scmpleuI, fun _ _ a b => decide (a ≤ b)),
      (Instr.scmpgt, Instr.scmpgtI, fun a b _ _ => decide (b < a)), (Instr.scmpge, Instr.scmpgeI, fun a b _ _ => decide (b ≤ a)),
      (Instr.scmpgtu, Instr.scmpgtuI, fun _ _ a b => decide (b < a)), (Instr.scmpgeu, Instr.scmpgeuI, fun _ _ a b => decide (b ≤ a))] :
        List ((F3 → Instr) × (FI → Instr) × (Int → Int → Nat → Nat → Bool))),
      (∀ f : F3, f.ty = 0 → decodeCause (row.1 f) e.g = none → ∃ t, exec (row.1 f) s = .next t ∧ Did s t e (e.g.regs.cset (cnum f.d)
        (row.2.2 (e.g.s32 f.a).toInt (e.g.s32 f.b).toInt (e.g.s32 f.a).toNat (e.g.s32 f.b).toNat)))
      ∧ (∀ f : F3, f.ty = 14 → decodeCause (row.1 f) e.g = none → badI64 f.a = false → badI64 f.b = false →
        ∃ t, exec (row.1 f) s = .next t ∧ Did s t e (e.g.regs.cset (cnum f.d)
          (row.2.2 (e.g.s64 f.a).toInt (e.g.s64 f.b).toInt (e.g.s64 f.a).toNat (e.g.s64 f.b).toNat)))
      ∧ (∀ f : F3, f.ty = 14 → decodeCause (row.1 f) e.g = none → badI64 f.a = true ∨ badI64 f.b = true →
        ∃ u, Counted s u e ∧ exec (row.1 f) s = .next (u.trapWord e 0x03))
      ∧ (∀ f : FI, f.ty = 14 → decodeCause (row.2.1 f) e.g = none → badI64 f.a = true →
        ∃ u, Counted s u e ∧ exec (row.2.1 f) s = .next (u.trapWord e 0x03))
      ∧ (∀ f : FI, f.ty = 0 → decodeCause (row.2.1 f) e.g = none → ∃ t, exec (row.2.1 f) s = .next t ∧ Did s t e (e.g.regs.cset (cnum f.d)
        (row.2.2 (e.g.s32 f.a).toInt f.imm.toInt (e.g.s32 f.a).toNat (f.imm.signExtend 32).toNat)))
      ∧ ∀ f : FI, f.ty = 14 → decodeCause (row.2.1 f) e.g = none → badI64 f.a = false →
        ∃ t, exec (row.2.1 f) s = .next t ∧ Did s t e (e.g.regs.cset (cnum f.d)
          (row.2.2 (e.g.s64 f.a).toInt f.imm.toInt (e.g.s64 f.a).toNat (f.imm.signExtend 64).toNat)))
    ∧ ∀ f, decodeCause (.sfcmp f) e.g = none → ∀ o, o = (e.g.sVal f.ty f.a).cmp (e.g.sVal f.ty f.b) →
        ∃ t, exec (.sfcmp f) s = .next t ∧ Did s t e (e.g.regs.cset (cnum f.d) (match f.x.toNat with
          | 0 => o = some .eq | 1 => o ≠ some .eq | 2 => o = some .lt | 3 => o = some .lt || o = some .eq
          | 4 => o = some .gt | 5 => o = some .gt || o = some .eq | 6 => o.isSome | _ => o.isNone))

/-- R383, R385, R300, R302, R303, R508: scalar floating point over f32 and f64, and SCVT. -/
def Obligations.ScalarFloatResults : Prop :=
  ∀ (s : State) (e : Env) (f : F3), s.env = some e →
    (∀ row ∈ ([
      (Instr.sfadd, fun m a b _ => sumVals m [a, b]), (Instr.sfsub, fun m a b _ => sumVals m [a, b.neg]), (Instr.sfmul, fun _ a b _ => a.mul b),
      (Instr.sfma, fun m a b d => sumVals m [a.mul b, d]), (Instr.sfmin, fun _ a b _ => minNumber a b),
      (Instr.sfmax, fun _ a b _ => maxNumber a b)] : List ((F3 → Instr) × (RMode → Val → Val → Val → Val))),
      decodeCause (row.1 f) e.g = none → ∃ t, exec (row.1 f) s = .next t ∧
        if f.ty = 14 then Did s t e (e.g.regs.sset64 (regOf f.d) (BitVec.ofNat 64 (fmtF64.round (arithMode f.md.toNat)
          (row.2 (arithMode f.md.toNat) (fmtF64.decode (e.g.src64 f.a 0).toNat) (fmtF64.decode (e.g.src64 f.b 0).toNat)
            (fmtF64.decode (e.g.regs.sget64 (regOf f.d)).toNat)))))
        else Did s t e (e.g.regs.sset (regOf f.d) (BitVec.ofNat 32 (fmtF32.round (arithMode f.md.toNat)
          (row.2 (arithMode f.md.toNat) (fmtF32.decode (e.g.src 8 f.a 0).toNat) (fmtF32.decode (e.g.src 8 f.b 0).toNat)
            (fmtF32.decode (e.g.regs.sget (regOf f.d)).toNat))))))
    ∧ (decodeCause (.scvt f) e.g = none → ∃ t, exec (.scvt f) s = .next t ∧
        let src := f.x.toNat % 16
        let x : DWord := if src = 14 then e.g.src64 f.a 0 else (e.g.src src f.a 0).setWidth 64
        let v : Val := match src with
          | 0 => Val.ofInt (lo32 x).toInt | 1 => Val.ofInt (lo32 x).toNat | 8 => fmtF32.decode (lo32 x).toNat | _ => fmtF64.decode x.toNat
        let mode := convMode f.md.toNat
        match f.ty.toNat with
        | 0 => Did s t e (e.g.regs.sset (regOf f.d) (BitVec.ofInt 32 (v.toRange mode (-2 ^ 31) (2 ^ 31 - 1))))
        | 1 => Did s t e (e.g.regs.sset (regOf f.d) (BitVec.ofInt 32 (v.toRange mode 0 (2 ^ 32 - 1))))
        | 8 => Did s t e (e.g.regs.sset (regOf f.d) (BitVec.ofNat 32 (fmtF32.encode mode (4 ≤ f.md.toNat) v)))
        | _ => Did s t e (e.g.regs.sset64 (regOf f.d) (BitVec.ofNat 64 (fmtF64.encode mode (4 ≤ f.md.toNat) v))))

/-- R386: the mask instructions. -/
def Obligations.MaskResults : Prop :=
  ∀ (s : State) (e : Env) (f : F3), s.env = some e →
    (∀ row ∈ ([
      (Instr.mand, fun a b => a && b), (Instr.mor, fun a b => a || b), (Instr.mxor, fun a b => a != b), (Instr.mandn, fun a b => a && !b),
      (Instr.mnot, fun a _ => !a), (Instr.mmov, fun a _ => a), (Instr.mall, fun _ _ => true), (Instr.mclear, fun _ _ => false)] :
        List ((F3 → Instr) × (Bool → Bool → Bool))),
      decodeCause (row.1 f) e.g = none → ∃ t v, exec (row.1 f) s = .next t ∧ Did s t e (e.g.regs.mset (mnum f.d) v)
        ∧ ∀ i < 128, v.getLsbD i = row.2 ((e.g.regs.mget (mnum f.a)).getLsbD i) ((e.g.regs.mget (mnum f.b)).getLsbD i))
    ∧ (decodeCause (.mpopc f) e.g = none → ∃ t, exec (.mpopc f) s = .next t
        ∧ Did s t e (e.g.regs.sset (regOf f.d) (BitVec.ofNat 32 ((List.range 128).countP (e.g.regs.mget (mnum f.a)).getLsbD))))
    ∧ (decodeCause (.mfirst f) e.g = none → ∃ t v, exec (.mfirst f) s = .next t ∧ Did s t e (e.g.regs.sset (regOf f.d) v)
        ∧ (e.g.regs.mget (mnum f.a) = 0 → v = 0xFFFFFFFF#32)
        ∧ (e.g.regs.mget (mnum f.a) ≠ 0 → (e.g.regs.mget (mnum f.a)).getLsbD v.toNat = true
          ∧ ∀ i < v.toNat, (e.g.regs.mget (mnum f.a)).getLsbD i = false))
    ∧ (decodeCause (.mtos f) e.g = none → ∃ t, exec (.mtos f) s = .next t
        ∧ Did s t e (e.g.regs.sset (regOf f.d) ((e.g.regs.mget (mnum f.a)).extractLsb' (32 * f.x.toNat) 32)))
    ∧ (decodeCause (.mfroms f) e.g = none → ∃ t v, exec (.mfroms f) s = .next t ∧ Did s t e (e.g.regs.mset (mnum f.d) v)
        ∧ ∀ i < 128, v.getLsbD i = if i / 32 = f.x.toNat then (e.g.s32 f.a).getLsbD (i % 32) else (e.g.regs.mget (mnum f.d)).getLsbD i)

/-- R404, R408: the integer vector instructions whose elements are computed one by one, with a source or an immediate in B. Element by element the
result is the row's exact value modulo 2 to the element width, for the threads of the predicate. R408: the vector instructions of whole 32-bit
registers, moves, selects, dot products and VIOTA. -/
def Obligations.VectorIntegerResults : Prop :=
  (∀ (s : State) (e : Env), s.env = some e →
    ∀ row ∈ ([
      (Instr.vadd, Instr.vaddI, fun _ sg a b _ => intOf sg a + intOf sg b), (Instr.vsub, Instr.vsubI, fun _ sg a b _ => intOf sg a - intOf sg b),
      (Instr.vmul, Instr.vmulI, fun _ sg a b _ => intOf sg a * intOf sg b),
      (Instr.vshl, Instr.vshlI, fun w _ a b _ => a.toNat * 2 ^ (b.toNat % w)), (Instr.vshr, Instr.vshrI, fun w _ a b _ => a.toNat / 2 ^ (b.toNat % w)),
      (Instr.vsar, Instr.vsarI, fun w _ a b _ => a.toInt / 2 ^ (b.toNat % w)),
      (Instr.vmin, Instr.vminI, fun _ sg a b _ => min (intOf sg a) (intOf sg b)), (Instr.vmax, Instr.vmaxI, fun _ sg a b _ => max (intOf sg a) (intOf sg b)),
      (Instr.vminu, Instr.vminuI, fun _ _ a b _ => min a.toNat b.toNat), (Instr.vmaxu, Instr.vmaxuI, fun _ _ a b _ => max a.toNat b.toNat),
      (Instr.vaddsat, Instr.vaddsatI, fun w sg a b _ => max (intLo sg w) (min (intHi sg w) (intOf sg a + intOf sg b))),
      (Instr.vsubsat, Instr.vsubsatI, fun w sg a b _ => max (intLo sg w) (min (intHi sg w) (intOf sg a - intOf sg b))),
      (Instr.vabsdiff, Instr.vabsdiffI, fun _ sg a b _ => (intOf sg a - intOf sg b).natAbs),
      (Instr.vmad, Instr.vmadI, fun _ _ a b d => a.toNat * b.toNat + d.toNat)] :
        List ((F3 → Instr) × (FI → Instr) × ((w : Nat) → Bool → BitVec w → BitVec w → BitVec w → Int))),
    (∀ f : F3, decodeCause (row.1 f) e.g = none → ∃ t r, ∃ v : Nat → Word, exec (row.1 f) s = .next t ∧ Did s t e r
      ∧ VWrote e (e.g.pred f.pm.toNat) (regOf f.d) 1 (fun i _ => v i) r
      ∧ ∀ i < 128, ∀ j < elemCount f.ty.toNat, let w := elemBits f.ty.toNat
        (elem f.ty.toNat (v i) j : Int) = row.2.2 w (tySigned f.ty.toNat) (BitVec.ofNat w (elem f.ty.toNat (e.g.src f.ty.toNat f.a i) j))
          (BitVec.ofNat w (elem f.ty.toNat (e.g.src f.ty.toNat f.b i) j)) (BitVec.ofNat w (elem f.ty.toNat (e.g.regs.vget (regOf f.d) i) j)) % 2 ^ w)
    ∧ ∀ f : FI, decodeCause (row.2.1 f) e.g = none → ∃ t r, ∃ v : Nat → Word, exec (row.2.1 f) s = .next t ∧ Did s t e r
      ∧ VWrote e (e.g.pred f.pm.toNat) (regOf f.d) 1 (fun i _ => v i) r
      ∧ ∀ i < 128, ∀ j < elemCount f.ty.toNat, let w := elemBits f.ty.toNat
        (elem f.ty.toNat (v i) j : Int) = row.2.2 w (tySigned f.ty.toNat) (BitVec.ofNat w (elem f.ty.toNat (e.g.src f.ty.toNat f.a i) j))
          ((f.imm.signExtend 32).setWidth w) (BitVec.ofNat w (elem f.ty.toNat (e.g.regs.vget (regOf f.d) i) j)) % 2 ^ w)
  ∧ (∀ (s : State) (e : Env), s.env = some e →
    (∀ row ∈ ([
      (Instr.vmulhi, Instr.vmulhiI, fun a b _ => BitVec.ofInt 32 (a.toInt * b.toInt / 2 ^ 32)),
      (Instr.vmulhu, Instr.vmulhuI, fun a b _ => BitVec.ofNat 32 (a.toNat * b.toNat / 2 ^ 32)),
      (Instr.vand, Instr.vandI, fun a b _ => a &&& b), (Instr.vor, Instr.vorI, fun a b _ => a ||| b), (Instr.vxor, Instr.vxorI, fun a b _ => a ^^^ b),
      (Instr.vbfi, Instr.vbfiI, fun a b d => bfi d a b)] : List ((F3 → Instr) × (FI → Instr) × (Word → Word → Word → Word))),
      (∀ f : F3, decodeCause (row.1 f) e.g = none → ∃ t r, exec (row.1 f) s = .next t ∧ Did s t e r ∧ VWrote e (e.g.pred f.pm.toNat) (regOf f.d) 1
        (fun i _ => row.2.2 (e.g.src 0 f.a i) (e.g.src 0 f.b i) (e.g.regs.vget (regOf f.d) i)) r)
      ∧ ∀ f : FI, decodeCause (row.2.1 f) e.g = none → ∃ t r, exec (row.2.1 f) s = .next t ∧ Did s t e r ∧ VWrote e (e.g.pred f.pm.toNat) (regOf f.d) 1
        (fun i _ => row.2.2 (e.g.src 0 f.a i) (f.imm.signExtend 32) (e.g.regs.vget (regOf f.d) i)) r)
    ∧ (∀ row ∈ ([
      (Instr.vbfe, fun f a b => bfe (f.x.getLsbD 0) a b), (Instr.vpopc, fun _ a _ => popc32 a), (Instr.vclz, fun _ a _ => clz32 a)] :
        List ((F3 → Instr) × (F3 → Word → Word → Word))),
      ∀ f : F3, decodeCause (row.1 f) e.g = none → ∃ t r, exec (row.1 f) s = .next t ∧ Did s t e r
        ∧ VWrote e (e.g.pred f.pm.toNat) (regOf f.d) 1 (fun i _ => row.2 f (e.g.src 0 f.a i) (e.g.src 0 f.b i)) r)
    ∧ (∀ f : FI, decodeCause (.vbfeI f) e.g = none → ∃ t r, exec (.vbfeI f) s = .next t ∧ Did s t e r
        ∧ VWrote e (e.g.pred f.pm.toNat) (regOf f.d) 1 (fun i _ => bfe false (e.g.src 0 f.a i) (f.imm.signExtend 32)) r)
    ∧ (∀ f : F3, decodeCause (.vmov f) e.g = none → ∃ t r, exec (.vmov f) s = .next t ∧ Did s t e r ∧ VWrote e (e.g.pred f.pm.toNat) (regOf f.d)
        (if f.ty = 14 then 2 else 1) (fun i k => if f.ty = 14 then (e.g.src64 f.a i).extractLsb' (32 * k) 32 else e.g.src 0 f.a i) r)
    ∧ (∀ f : F3, decodeCause (.vsel f) e.g = none → ∃ t r, exec (.vsel f) s = .next t ∧ Did s t e r ∧ VWrote e (e.g.pred f.pm.toNat) (regOf f.d)
        (if f.ty = 14 then 2 else 1) (fun i k =>
          let x := if (e.g.regs.mget f.x.toNat).getLsbD i then f.a else f.b
          if f.ty = 14 then (e.g.src64 x i).extractLsb' (32 * k) 32 else e.g.src 0 x i) r)
    ∧ (∀ row ∈ ([(Instr.vdot4, Instr.vdot4I, true), (Instr.vdot4u, Instr.vdot4uI, false)] : List ((F3 → Instr) × (FI → Instr) × Bool)),
      (∀ f : F3, decodeCause (row.1 f) e.g = none → ∃ t r, exec (row.1 f) s = .next t ∧ Did s t e r ∧ VWrote e (e.g.pred f.pm.toNat) (regOf f.d) 1
        (fun i _ => BitVec.ofInt 32 (((List.range (elemCount f.ty.toNat)).map fun j =>
          intOf row.2.2 (BitVec.ofNat (elemBits f.ty.toNat) (elem f.ty.toNat (e.g.src f.ty.toNat f.a i) j))
            * intOf row.2.2 (BitVec.ofNat (elemBits f.ty.toNat) (elem f.ty.toNat (e.g.src f.ty.toNat f.b i) j))).sum
          + (e.g.regs.vget (regOf f.d) i).toNat)) r)
      ∧ ∀ f : FI, decodeCause (row.2.1 f) e.g = none → ∃ t r, exec (row.2.1 f) s = .next t ∧ Did s t e r ∧ VWrote e (e.g.pred f.pm.toNat) (regOf f.d) 1
        (fun i _ => BitVec.ofInt 32 (((List.range (elemCount f.ty.toNat)).map fun j =>
          intOf row.2.2 (BitVec.ofNat (elemBits f.ty.toNat) (elem f.ty.toNat (e.g.src f.ty.toNat f.a i) j))
            * intOf row.2.2 ((f.imm.signExtend 32).setWidth (elemBits f.ty.toNat))).sum + (e.g.regs.vget (regOf f.d) i).toNat)) r)
    ∧ ∀ f : F3, decodeCause (.viota f) e.g = none → ∃ t r, exec (.viota f) s = .next t ∧ Did s t e r ∧ VWrote e (e.g.pred f.pm.toNat) (regOf f.d) 1
        (fun i _ => e.g.src 0 f.a i + BitVec.ofNat 32 ((List.range i).countP (e.g.pred f.pm.toNat).getLsbD)) r)

/-- R409, R415: the vector compares write a mask, zero outside the predicate. -/
def Obligations.VectorCompareResults : Prop :=
  ∀ (s : State) (e : Env), s.env = some e →
    (∀ row ∈ ([
      (Instr.vcmpeq, Instr.vcmpeqI, fun a b => decide (a = b)), (Instr.vcmpne, Instr.vcmpneI, fun a b => decide (a ≠ b)),
      (Instr.vcmplt, Instr.vcmpltI, fun a b => decide (a.toInt < b.toInt)), (Instr.vcmple, Instr.vcmpleI, fun a b => decide (a.toInt ≤ b.toInt)),
      (Instr.vcmpltu, Instr.vcmpltuI, fun a b => decide (a.toNat < b.toNat)), (Instr.vcmpleu, Instr.vcmpleuI, fun a b => decide (a.toNat ≤ b.toNat)),
      (Instr.vcmpgt, Instr.vcmpgtI, fun a b => decide (b.toInt < a.toInt)), (Instr.vcmpge, Instr.vcmpgeI, fun a b => decide (b.toInt ≤ a.toInt)),
      (Instr.vcmpgtu, Instr.vcmpgtuI, fun a b => decide (b.toNat < a.toNat)), (Instr.vcmpgeu, Instr.vcmpgeuI, fun a b => decide (b.toNat ≤ a.toNat))] :
        List ((F3 → Instr) × (FI → Instr) × (Word → Word → Bool))),
      (∀ f : F3, decodeCause (row.1 f) e.g = none → ∃ t r, exec (row.1 f) s = .next t ∧ Did s t e r
        ∧ CmpWrote e (e.g.pred f.pm.toNat) (mnum f.d) (fun i => row.2.2 (e.g.src 0 f.a i) (e.g.src 0 f.b i)) r)
      ∧ ∀ f : FI, decodeCause (row.2.1 f) e.g = none → ∃ t r, exec (row.2.1 f) s = .next t ∧ Did s t e r
        ∧ CmpWrote e (e.g.pred f.pm.toNat) (mnum f.d) (fun i => row.2.2 (e.g.src 0 f.a i) (f.imm.signExtend 32)) r)
    ∧ ∀ row ∈ ([
      (Instr.vfcmpeq, fun o => decide (o = some .eq)), (Instr.vfcmpne, fun o => decide (o ≠ some .eq)), (Instr.vfcmplt, fun o => decide (o = some .lt)),
      (Instr.vfcmple, fun o => decide (o = some .lt ∨ o = some .eq)), (Instr.vfcmpgt, fun o => decide (o = some .gt)),
      (Instr.vfcmpge, fun o => decide (o = some .gt ∨ o = some .eq)), (Instr.vfcmpord, fun o => o.isSome), (Instr.vfcmpunord, fun o => o.isNone)] :
        List ((F3 → Instr) × (Option Ordering → Bool))),
      ∀ f : F3, decodeCause (row.1 f) e.g = none → ∃ t r, exec (row.1 f) s = .next t ∧ Did s t e r
        ∧ CmpWrote e (e.g.pred f.pm.toNat) (mnum f.d) (fun i => row.2 (
          if f.ty = 14 then (fmtF64.decode (e.g.src64 f.a i).toNat).cmp (fmtF64.decode (e.g.src64 f.b i).toNat)
          else (f32 (e.g.src 8 f.a i)).cmp (f32 (e.g.src 8 f.b i)))) r

/-- R410, R411: the instructions that move and fold values across threads. -/
def Obligations.CrossThreadResults : Prop :=
  ∀ (s : State) (e : Env) (f : F3), s.env = some e →
    (∀ row ∈ ([
      (Instr.vshuf, fun i => (e.g.src 0 f.b i).toNat % 128), (Instr.vrot, fun i => (((i : Int) + (e.g.src 0 f.b i).toInt) % 128).toNat),
      (Instr.vbcast, fun _ => (e.g.src 0 f.b 0).toNat % 128),
      (Instr.vswiz, fun i => if f.x.toNat ≤ 2 then i - i % 4 + (i % 4).xor (f.x.toNat + 1) else i - i % 4 + (f.x.toNat - 3))] :
        List ((F3 → Instr) × (Nat → Nat))),
      decodeCause (row.1 f) e.g = none → ∃ t r, exec (row.1 f) s = .next t ∧ Did s t e r ∧ VWrote e (e.g.pred f.pm.toNat) (regOf f.d)
        (if f.ty = 14 then 2 else 1) (fun i k => if f.ty = 14 then (e.g.src64 f.a (row.2 i)).extractLsb' (32 * k) 32 else e.g.src 0 f.a (row.2 i)) r)
    ∧ (decodeCause (.vcompact f) e.g = none → ∃ t r, exec (.vcompact f) s = .next t ∧ Did s t e r ∧ VWrote e (e.g.pred f.pm.toNat) (regOf f.d)
        (if f.ty = 14 then 2 else 1) (fun i k =>
          match ((List.range 128).filter fun u => (e.g.regs.mget f.x.toNat).getLsbD u && e.g.live.getLsbD u)[(List.range i).countP (e.g.pred f.pm.toNat).getLsbD]? with
          | some u => if f.ty = 14 then (e.g.src64 f.a u).extractLsb' (32 * k) 32 else e.g.src 0 f.a u
          | none => e.g.regs.vget (regOf f.d + k) i) r)
    ∧ (decodeCause (.vred f) e.g = none → opKind f.d = .scalar → ∃ t, exec (.vred f) s = .next t ∧ Did s t e (e.g.regs.sset (regOf f.d)
        (foldVals (f.x.toNat % 16) (((List.range 128).filter (e.g.pred f.pm.toNat).getLsbD).map (e.g.src f.ty.toNat f.a)))))
    ∧ (decodeCause (.vred f) e.g = none → opKind f.d = .vector → ∃ t r, exec (.vred f) s = .next t ∧ Did s t e r ∧ VWrote e (e.g.pred f.pm.toNat) (regOf f.d) 1
        (fun _ _ => foldVals (f.x.toNat % 16) (((List.range 128).filter (e.g.pred f.pm.toNat).getLsbD).map (e.g.src f.ty.toNat f.a))) r)
    ∧ (decodeCause (.vscan f) e.g = none → ∃ t r, exec (.vscan f) s = .next t ∧ Did s t e r ∧ VWrote e (e.g.pred f.pm.toNat) (regOf f.d) 1
        (fun i _ => foldVals (f.x.toNat % 16) (((List.range (if f.x.getLsbD 4 then i else i + 1)).filter (e.g.pred f.pm.toNat).getLsbD).map
          (e.g.src f.ty.toNat f.a))) r)

/-- R412-R414, R508: the floating-point vector instructions, element by element, with one rounding. -/
def Obligations.VectorFloatResults : Prop :=
  ∀ (s : State) (e : Env) (f : F3), s.env = some e →
    (∀ row ∈ ([
      (Instr.vfadd, fun m a b _ => sumVals m [a, b]), (Instr.vfsub, fun m a b _ => sumVals m [a, b.neg]), (Instr.vfmul, fun _ a b _ => a.mul b),
      (Instr.vfma, fun m a b d => sumVals m [a.mul b, d]), (Instr.vfmin, fun _ a b _ => minNumber a b), (Instr.vfmax, fun _ a b _ => maxNumber a b),
      (Instr.vfrnd, fun m a _ _ => a.integral m)] : List ((F3 → Instr) × (RMode → Val → Val → Val → Val))),
      decodeCause (row.1 f) e.g = none → ∃ t r, ∃ v : Nat → Word, exec (row.1 f) s = .next t ∧ Did s t e r
        ∧ (f.ty ≠ 14 → VWrote e (e.g.pred f.pm.toNat) (regOf f.d) 1 (fun i _ => v i) r ∧ ∀ i < 128, ∀ j < elemCount f.ty.toNat,
          elem f.ty.toNat (v i) j = (fmtOf f.ty.toNat).round (arithMode f.md.toNat) (row.2 (arithMode f.md.toNat)
            ((fmtOf f.ty.toNat).decode (elem f.ty.toNat (e.g.src f.ty.toNat f.a i) j)) ((fmtOf f.ty.toNat).decode (elem f.ty.toNat (e.g.src f.ty.toNat f.b i) j))
            ((fmtOf f.ty.toNat).decode (elem f.ty.toNat (e.g.regs.vget (regOf f.d) i) j))) % 2 ^ elemBits f.ty.toNat)
        ∧ (f.ty = 14 → VWrote e (e.g.pred f.pm.toNat) (regOf f.d) 2 (fun i k => (BitVec.ofNat 64 (fmtF64.round (arithMode f.md.toNat)
          (row.2 (arithMode f.md.toNat) (fmtF64.decode (e.g.src64 f.a i).toNat) (fmtF64.decode (e.g.src64 f.b i).toNat)
            (fmtF64.decode (pair64 (e.g.regs.vget (regOf f.d) i) (e.g.regs.vget (regOf f.d + 1) i)).toNat)))).extractLsb' (32 * k) 32) r))
    ∧ (decodeCause (.vfract f) e.g = none → ∃ t r, ∃ v : Nat → Word, exec (.vfract f) s = .next t ∧ Did s t e r
        ∧ VWrote e (e.g.pred f.pm.toNat) (regOf f.d) 1 (fun i _ => v i) r ∧ ∀ i < 128, ∀ j < elemCount f.ty.toNat,
          elem f.ty.toNat (v i) j = (fmtOf f.ty.toNat).fract ((fmtOf f.ty.toNat).decode (elem f.ty.toNat (e.g.src f.ty.toNat f.a i) j)) % 2 ^ elemBits f.ty.toNat)
    ∧ ∀ row ∈ ([
      (Instr.vhadd, fun m a b _ => sumVals m [a (f.x.toNat % 2), b (f.x.toNat / 2)]), (Instr.vhmul, fun _ a b _ => (a (f.x.toNat % 2)).mul (b (f.x.toNat / 2))),
      (Instr.vhfma, fun m a b d => sumVals m [(a (f.x.toNat % 2)).mul (b (f.x.toNat / 2)), d]),
      (Instr.vfdot2, fun m a b d => sumVals m [(a 0).mul (b 0), (a 1).mul (b 1), d])] :
        List ((F3 → Instr) × (RMode → (Nat → Val) → (Nat → Val) → Val → Val))),
      decodeCause (row.1 f) e.g = none → ∃ t r, exec (row.1 f) s = .next t ∧ Did s t e r ∧ VWrote e (e.g.pred f.pm.toNat) (regOf f.d) 1 (fun i _ =>
        BitVec.ofNat 32 (fmtF32.round (arithMode f.md.toNat) (row.2 (arithMode f.md.toNat)
          (fun j => (fmtOf f.ty.toNat).decode (elem f.ty.toNat (e.g.src f.ty.toNat f.a i) j))
          (fun j => (fmtOf f.ty.toNat).decode (elem f.ty.toNat (e.g.src f.ty.toNat f.b i) j)) (f32 (e.g.regs.vget (regOf f.d) i))))) r

/-- R304, R416-R420: the transcendental functions, whose error within the bound is a free value of the model (log 10), their special values, and the
conversions. -/
def Obligations.VectorFunctionAndConversionResults : Prop :=
  ∀ (s : State) (e : Env) (f : F3), s.env = some e →
    (∀ row ∈ ([(Instr.vrcp, 0), (Instr.vrsq, 1), (Instr.vsqrt, 2), (Instr.vexp2, 3), (Instr.vlog2, 4), (Instr.vsin, 5), (Instr.vcos, 6), (Instr.vtanh, 7)] :
        List ((F3 → Instr) × Nat)),
      decodeCause (row.1 f) e.g = none → ∃ t r, exec (row.1 f) s = .next t ∧ Did s t e r ∧ VWrote e (e.g.pred f.pm.toNat) (regOf f.d) 1 (fun i _ =>
        if f.ty = 8 then vtrans row.2 (e.g.src 8 f.a i)
        else packElems 9 fun j => fmtF16.encode .rne false (f32 (vtrans row.2 (toF32 .rne (fmtF16.decode (elem 9 (e.g.src 9 f.a i) j)))))) r)
    ∧ (∀ row ∈ ([
      (0, 0x00000000#32, 0x7F800000#32), (0, 0x80000000#32, 0xFF800000#32), (0, 0x7F800000#32, 0x00000000#32), (0, 0xFF800000#32, 0x80000000#32),
      (1, 0x00000000#32, 0x7F800000#32), (1, 0x80000000#32, 0xFF800000#32), (1, 0x7F800000#32, 0x00000000#32), (1, 0xBF800000#32, 0x7FC00000#32),
      (2, 0x80000000#32, 0x80000000#32), (2, 0x7F800000#32, 0x7F800000#32), (2, 0xBF800000#32, 0x7FC00000#32), (2, 0x40800000#32, 0x40000000#32),
      (3, 0xFF800000#32, 0x00000000#32), (3, 0x7F800000#32, 0x7F800000#32), (4, 0x00000000#32, 0xFF800000#32), (4, 0x80000000#32, 0xFF800000#32),
      (4, 0x3F800000#32, 0x00000000#32), (4, 0x7F800000#32, 0x7F800000#32), (4, 0xBF800000#32, 0x7FC00000#32), (5, 0x7F800000#32, 0x7FC00000#32),
      (5, 0x40000000#32, 0x00000000#32), (6, 0xFF800000#32, 0x7FC00000#32), (7, 0x7F800000#32, 0x3F800000#32), (7, 0xFF800000#32, 0xBF800000#32),
      (7, 0x80000000#32, 0x80000000#32)] : List (Nat × Word × Word)), vtrans row.1 row.2.1 = row.2.2)
    ∧ (∀ n < 8, ∀ x : Word, (f32 x).isNan = true → vtrans n x = 0x7FC00000#32)
    ∧ (decodeCause (.vcvt f) e.g = none → ∃ t r, exec (.vcvt f) s = .next t ∧ Did s t e r ∧ VWrote e (e.g.pred f.pm.toNat) (regOf f.d)
        (if f.ty = 14 then 2 else 1) (fun i k => (convert f.ty.toNat (f.x.toNat % 16) f.md.toNat
          (if f.x.toNat % 16 = 14 then e.g.src64 f.a i else (e.g.src (f.x.toNat % 16) f.a i).setWidth 64)).extractLsb' (32 * k) 32) r)
    ∧ (decodeCause (.vpack f) e.g = none → ∃ t r, ∃ v : Nat → Word, exec (.vpack f) s = .next t ∧ Did s t e r ∧ VWrote e (e.g.pred f.pm.toNat) (regOf f.d) 1 (fun i _ => v i) r
        ∧ ∀ i < 128, ∀ j < elemCount f.ty.toNat, elem f.ty.toNat (v i) j =
          if j = 2 * f.x.toNat then packOne f.ty.toNat f.md.toNat (e.g.src (if 9 ≤ f.ty.toNat then 8 else 0) f.a i) % 2 ^ elemBits f.ty.toNat
          else if j = 2 * f.x.toNat + 1 then packOne f.ty.toNat f.md.toNat (e.g.src (if 9 ≤ f.ty.toNat then 8 else 0) f.b i) % 2 ^ elemBits f.ty.toNat
          else elem f.ty.toNat (e.g.regs.vget (regOf f.d) i) j)
    ∧ (decodeCause (.vunpack f) e.g = none → ∃ t r, exec (.vunpack f) s = .next t ∧ Did s t e r ∧ VWrote e (e.g.pred f.pm.toNat) (regOf f.d) 1 (fun i _ =>
        if 9 ≤ f.ty.toNat then toF32 .rne ((fmtOf f.ty.toNat).decode (elem f.ty.toNat (e.g.src f.ty.toNat f.a i) f.x.toNat))
        else BitVec.ofInt 32 (intOf (tySigned f.ty.toNat) (BitVec.ofNat (elemBits f.ty.toNat) (elem f.ty.toNat (e.g.src f.ty.toNat f.a i) f.x.toNat)))) r)
    ∧ (decodeCause (.vscale f) e.g = none → ∃ t r, exec (.vscale f) s = .next t ∧ Did s t e r ∧ VWrote e (e.g.pred f.pm.toNat) (regOf f.d) 1 (fun i _ =>
        if (e.g.src 0 f.b i).toNat % 256 = 255 ∨ (f32 (e.g.src 8 f.a i)).isNan then 0x7FC00000#32
        else toF32 (arithMode f.md.toNat) ((f32 (e.g.src 8 f.a i)).mul (.fin false 1 ((((e.g.src 0 f.b i).toNat % 256 : Nat) : Int) - 127)))) r)

/-- R331, R333, R421: a paired word. Both halves read before either writes; the halves write one after the other. -/
def Obligations.PairedWordResults : Prop :=
  ∀ (s : State) (e : Env) (h0 h1 : Half), s.env = some e → pairLegal h0 h1 = true →
    (bankRule h0 h1 = false → exec (.pairedWord h0 h1) s = .next (s.trapWord e 0x02))
    ∧ (bankRule h0 h1 = true → halfFits e.g h0 = true → halfFits e.g h1 = true → ∃ t r, exec (.pairedWord h0 h1) s = .next t ∧ Did s t e r
      ∧ (∀ i < 128, ∀ q, r.vget q i =
          if h1.ho ≠ 0 ∧ q = h1.d.toNat ∧ (e.g.pred h1.pm.toNat).getLsbD i then
            halfResult h1.ho.toNat (e.g.regs.vget q i) (e.g.src (if 13 ≤ h1.ho.toNat then 8 else 0) (halfField h1) i)
          else if h0.ho ≠ 0 ∧ q = h0.d.toNat ∧ (e.g.pred h0.pm.toNat).getLsbD i then
            halfResult h0.ho.toNat (e.g.regs.vget q i) (e.g.src (if 13 ≤ h0.ho.toNat then 8 else 0) (halfField h0) i)
          else e.g.regs.vget q i)
      ∧ r = { e.g.regs with v := r.v, tags := tagsAfterHalf h1 (tagsAfterHalf h0 e.g.regs.tags) })

/-- R324, R387, R388: NOP and the branches. R327-R329, R389: REP begins the repetitions of the next word, which holds in REPCNT; a next word that cannot
repeat traps. The word of repetition j has each register field raised by j times its increment, and the last repetition ends them. -/
def Obligations.ControlTransferResults : Prop :=
  (∀ (s : State) (e : Env), s.env = some e →
    (∀ f, decodeCause (.nop f) e.g = none → ∃ t, exec (.nop f) s = .next t ∧ Did s t e e.g.regs)
    ∧ (∀ f : FB, f.cc = 0 → f.neg = 0 → f.pm = 0 → Jumps s e (.bra f) (e.g.pc + 8 + 8 * f.disp.signExtend 64) e.g.regs)
    ∧ (∀ f : FB, f.pm = 0 →
        (e.g.regs.cget f.cc.toNat ≠ decide (f.neg = 1) → Jumps s e (.brc f) (e.g.pc + 8 + 8 * f.disp.signExtend 64) e.g.regs)
        ∧ (e.g.regs.cget f.cc.toNat = decide (f.neg = 1) → ∃ t, exec (.brc f) s = .next t ∧ Did s t e e.g.regs))
    ∧ (∀ f : FB, f.cc = 0 → f.neg = 0 →
        (e.g.regs.mget f.pm.toNat &&& e.g.regs.mget 0 = 0 → Jumps s e (.brmz f) (e.g.pc + 8 + 8 * f.disp.signExtend 64) e.g.regs
          ∧ ∃ t, exec (.brmnz f) s = .next t ∧ Did s t e e.g.regs)
        ∧ (e.g.regs.mget f.pm.toNat &&& e.g.regs.mget 0 ≠ 0 → Jumps s e (.brmnz f) (e.g.pc + 8 + 8 * f.disp.signExtend 64) e.g.regs
          ∧ ∃ t, exec (.brmz f) s = .next t ∧ Did s t e e.g.regs))
    ∧ (∀ f : FB, f.cc = 0 → f.neg = 0 → f.pm = 0 →
        Jumps s e (.call f) (e.g.pc + 8 + 8 * f.disp.signExtend 64) (e.g.regs.sset64 0 (e.g.pc + 8)))
    ∧ (∀ f : FB, f.cc = 0 → f.neg = 0 → f.pm = 0 → f.disp = 0 → Jumps s e (.ret f) (e.g.regs.sget64 0) e.g.regs)
    ∧ (∀ f, decodeCause (.jmpr f) e.g = none → Jumps s e (.jmpr f) (e.g.regs.sget64 (regOf f.a)) e.g.regs)
    ∧ ∀ f, decodeCause (.callr f) e.g = none → Jumps s e (.callr f) (e.g.regs.sget64 (regOf f.a)) (e.g.regs.sset64 0 (e.g.pc + 8)))
  ∧ (∀ (s : State) (e : Env) (f : FR) (w : DWord), s.env = some e → s.peekWord e (e.g.pc + 8) = some w →
    (repTargetOk f w = true → ∃ t, exec (.rep f) s = .next t
      ∧ Became s t e { e.g.advance with rep := some f, repcnt := BitVec.ofNat 32 (f.cnt.toNat + 1) })
    ∧ (repTargetOk f w = false → exec (.rep f) s = .next (s.trapWord e 0x01))
    ∧ (∀ g : Group, g.rep = some f → 2 ≤ g.repcnt.toNat → g.advance.pc = g.pc ∧ g.advance.rep = some f ∧ g.advance.repcnt = g.repcnt - 1)
    ∧ (∀ g : Group, g.rep = some f → g.repcnt.toNat ≤ 1 → g.advance.pc = g.pc + 8 ∧ g.advance.rep = none ∧ g.advance.repcnt = 0)
    ∧ ∀ (j : Nat) (w' : DWord) (d a b : RepField), repFields w = some (d, a, b) → repWord f w j = some w' →
        w'.extractLsb' 33 31 = w.extractLsb' 33 31
        ∧ ∀ row ∈ [(d, 22, f.dinc), (a, 11, f.ainc), (b, 0, f.binc)],
          ((w'.extractLsb' row.2.1 11).toNat : Int) = (w.extractLsb' row.2.1 11).toNat
            + if repIsReg row.1 (w.extractLsb' row.2.1 11) then (j : Int) * row.2.2.toInt else 0)

/-- R390-R393: END, YIELD and the barriers, of a launch that is neither graphics nor travelling. R394-R398, R126: SETFMT and the cinch counters. -/
def Obligations.GroupControlResults : Prop :=
  (∀ (s : State) (e : Env) (f : F3), s.env = some e → e.l.kind = .plain → e.b.prog = .compute →
    (decodeCause (.endI f) e.g = none → (∃ x ∈ s.groups, x.1 ≠ e.gid ∧ x.2.block = e.g.block) →
      ∃ t, exec (.endI f) s = .next t ∧ kget t.groups e.gid = none)
    ∧ (decodeCause (.endI f) e.g = none → (∀ x ∈ s.groups, x.2.block = e.g.block → x.1 = e.gid) → e.b.stopped = [] →
      ∃ t, exec (.endI f) s = .next t ∧ (e.b.openOps = 0 → e.b.armed = [] → kget t.groups e.gid = none)
        ∧ (e.b.openOps ≠ 0 → ∃ g, kget t.groups e.gid = some g ∧ g.wait = 10 ∧ g.regs = e.g.regs))
    ∧ (decodeCause (.yield f) e.g = none → ∃ t, exec (.yield f) s = .next t ∧ Became s t e { e.g.advance with run := 0, age := 0 })
    ∧ (decodeCause (.bar f) e.g = none → (s.groups.map Prod.fst).Nodup → s.teamResident e.g.block = true →
      (∀ x ∈ s.groups, x.2.block = e.g.block → x.1 ≠ e.gid → x.2.waitFor = .barrier false f.x.toNat) →
      ∃ t, exec (.bar f) s = .next t ∧ (∀ x ∈ s.groups, x.1 ≠ e.gid → kget t.groups x.1 = some (if x.2.block = e.g.block then x.2.advance.acquired else x.2))
        ∧ ∃ g, kget t.groups e.gid = some g ∧ CountsOnly e.g.advance.acquired g)
    ∧ (decodeCause (.bar f) e.g = none → (∃ x ∈ s.groups, x.2.block = e.g.block ∧ x.1 ≠ e.gid ∧ x.2.waitFor ≠ .barrier false f.x.toNat) →
      ∃ t, exec (.bar f) s = .next t ∧ Became s t e { e.g with wait := 1, waitFor := .barrier false f.x.toNat })
    ∧ (decodeCause (.bart f) e.g = none → (s.groups.map Prod.fst).Nodup → s.teamResident e.g.block = true → s.writesPending e.g.uid = false →
      (∀ x ∈ s.groups, x.1 ≠ e.gid → ∀ o, kget s.blocks x.2.block = some o → o.launch = e.b.launch → o.team = e.b.team → x.2.waitFor = .barrier true f.x.toNat) →
      ∃ t, exec (.bart f) s = .next t ∧ ∃ g, kget t.groups e.gid = some g ∧ CountsOnly e.g.advance.acquired g))
  ∧ (∀ (s : State) (e : Env), s.env = some e → NotAtCounter e.g →
    (∀ f, decodeCause (.setfmt f) e.g = none →
      (fmtLegal (e.g.s32 f.a) = true → ∃ t, exec (.setfmt f) s = .next t ∧ Became s t e { e.g with fmt := e.g.s32 f.a }.advance)
      ∧ (fmtLegal (e.g.s32 f.a) = false → ∃ u, Counted s u e ∧ exec (.setfmt f) s = .next (u.trapWord e 0x03)))
    ∧ (∀ f, decodeCause (.kset f) e.g = none →
      ((e.g.s32 f.a).toNat < 65536 → ∃ t, exec (.kset f) s = .next t ∧ SetCounter s t e (f.x.toNat % 32) (e.g.s32 f.a).toNat)
      ∧ (65536 ≤ (e.g.s32 f.a).toNat → ∃ u, Counted s u e ∧ exec (.kset f) s = .next (u.trapWord e 0x03)))
    ∧ (∀ f v, decodeCause (.kadd f) e.g = none → v = (e.b.kval (f.x.toNat % 32) : Int) + (e.g.s32 f.a).toInt →
      (v ≤ 65535 → ∃ t, exec (.kadd f) s = .next t ∧ SetCounter s t e (f.x.toNat % 32) v.toNat)
      ∧ (65535 < v → ∃ t w, exec (.kadd f) s = .next t ∧ Became s t e { e.g with wait := 3, waitFor := w }))
    ∧ (∀ f, decodeCause (.kwait f) e.g = none → e.b.stoppedOn (f.x.toNat % 32) = none →
      (e.b.kval (f.x.toNat % 32) = 0 → ∃ t, exec (.kwait f) s = .next t
        ∧ Became (s.observe e.gid e.g.block (f.x.toNat % 32)) t e (e.g.observed (f.x.toNat % 32)).advance)
      ∧ (e.b.kval (f.x.toNat % 32) ≠ 0 → ∃ t, exec (.kwait f) s = .next t
        ∧ Became s t e { e.g with wait := 3, waitFor := .counterZero (f.x.toNat % 32) }))
    ∧ (∀ f target, decodeCause (.kyield f) e.g = none → e.b.stoppedOn (f.d.toNat % 32) = none → target = e.g.pc + 8 + 8 * f.imm.signExtend 64 →
      target.extractLsb' 0 3 = 0 → canonical target = true →
      (e.b.kval (f.d.toNat % 32) = 0 → ∃ t, exec (.kyield f) s = .next t
        ∧ Became (s.observe e.gid e.g.block (f.d.toNat % 32)) t e ({ e.g.observed (f.d.toNat % 32) with regs := { e.g.regs with tags := [none, none, none, none] } }.goto target))
      ∧ (e.b.kval (f.d.toNat % 32) ≠ 0 → ∃ t, exec (.kyield f) s = .next t
        ∧ Became s t e { e.g with wait := 13, waitFor := .kyield (f.d.toNat % 32) target, regs := { e.g.regs with tags := [none, none, none, none] } }))
    ∧ (∀ f, decodeCause (.krd f) e.g = none → ∃ t, exec (.krd f) s = .next t
      ∧ Became (if e.b.kval (f.x.toNat % 32) = 0 then s.observe e.gid e.g.block (f.x.toNat % 32) else s) t e
        { (if e.b.kval (f.x.toNat % 32) = 0 then e.g.observed (f.x.toNat % 32) else e.g) with
          regs := e.g.regs.sset (regOf f.d) (BitVec.ofNat 32 (e.b.kval (f.x.toNat % 32))) }.advance)
    ∧ (∀ f c, decodeCause (.kwait f) e.g = none → e.b.stoppedOn (f.x.toNat % 32) = some c → ∃ u, Counted s u e ∧ exec (.kwait f) s = .next (u.copyTrap e c))
    ∧ ∀ f c, decodeCause (.kyield f) e.g = none → e.b.stoppedOn (f.d.toNat % 32) = some c → ∃ u, Counted s u e ∧ exec (.kyield f) s = .next (u.copyTrap e c))

/-- R184-R186, R196, R400, R402, R403: the special registers, the performance counters and IFLUSH. -/
def Obligations.SystemRegisterResults : Prop :=
  ∀ (s : State) (e : Env), s.env = some e →
    (∀ f, decodeCause (.srd f) e.g = none → ∃ t, exec (.srd f) s = .next t ∧ Became s t e
      { (if e.g.s32 f.a = 13 then { e.g with cych := (s.core e.g.core).cycles.extractLsb' 32 32 } else e.g) with
        regs := e.g.regs.sset (regOf f.d) (s.special e (e.g.s32 f.a).toNat) }.advance)
    ∧ (∀ row ∈ [
      (0, BitVec.ofNat 32 e.g.index), (1, BitVec.ofNat 32 e.b.ngrp), (2, e.b.bidx), (3, e.b.bidy), (4, e.b.bidz), (5, BitVec.ofNat 32 e.l.recd.nx),
      (6, BitVec.ofNat 32 e.l.recd.ny), (7, BitVec.ofNat 32 e.l.recd.nz), (8, BitVec.ofNat 32 e.g.core), (9, BitVec.ofNat 32 (s.sectorOf e.g.core)),
      (10, BitVec.ofNat 32 (s.dieOf e.g.core)), (11, BitVec.ofNat 32 (e.l.ctx / 256)), (12, (s.ctx e.l.ctx).brand.setWidth 32),
      (13, (s.core e.g.core).cycles.setWidth 32), (14, e.g.cych), (15, e.g.fmt), (16, e.b.tcfg), (17, e.g.repcnt), (19, 0),
      (20, e.g.trap.base.setWidth 32), (21, e.g.trap.base.extractLsb' 32 32), (22, e.g.trap.pc.setWidth 32), (23, e.g.trap.pc.extractLsb' 32 32),
      (24, e.g.trap.cause), (25, e.g.trap.mask.extractLsb' 0 32), (26, e.g.trap.mask.extractLsb' 32 32), (27, e.g.trap.mask.extractLsb' 64 32),
      (28, e.g.trap.mask.extractLsb' 96 32), (29, e.g.trap.addr.setWidth 32), (30, e.g.trap.addr.extractLsb' 32 32), (31, (e.g.trap.iter[0]?).getD 0),
      (35, (e.g.trap.iter[4]?).getD 0), (36, e.g.pctl), (37, BitVec.ofNat 32 e.l.depth), (38, BitVec.ofNat 32 e.g.role)], s.special e row.1 = row.2)
    ∧ (∀ n, 38 < n → s.special e n = 0)
    ∧ (∀ f i v g, decodeCause (.swr f) e.g = none → i = (e.g.s32 f.a).toNat → v = e.g.s32 f.b → e.g.writeSpecial i v = some g → i ≠ 15 →
      ∃ t, exec (.swr f) s = .next t ∧ Became s t e g.advance)
    ∧ (∀ f, decodeCause (.swr f) e.g = none → e.g.s32 f.a = 15 → fmtLegal (e.g.s32 f.b) = true →
      ∃ t, exec (.swr f) s = .next t ∧ Became s t e { e.g with fmt := e.g.s32 f.b }.advance)
    ∧ (∀ f, decodeCause (.swr f) e.g = none → e.g.s32 f.a ≠ 15 → e.g.writeSpecial (e.g.s32 f.a).toNat (e.g.s32 f.b) = none →
      ∃ u, Counted s u e ∧ exec (.swr f) s = .next (u.trapWord e 0x03))
    ∧ (∀ v : Word, ∀ n ≤ 16, e.g.writeSpecial n v = none) ∧ (∀ v : Word, ∀ n ∈ [18, 19, 37, 38], e.g.writeSpecial n v = none)
    ∧ (∀ v : Word, ∀ n, 38 < n → e.g.writeSpecial n v = none)
    ∧ (∀ v : Word, v.extractLsb' 0 3 = 0 → e.g.writeSpecial 20 v = some { e.g with trap := { e.g.trap with base := e.g.trap.base.extractLsb' 32 32 ++ v } })
    ∧ (∀ v : Word, v.extractLsb' 0 3 ≠ 0 → e.g.writeSpecial 20 v = none)
    ∧ (∀ v : Word, e.g.writeSpecial 22 v = some { e.g with trap := { e.g.trap with pc := e.g.trap.pc.extractLsb' 32 32 ++ v } })
    ∧ (∀ f, decodeCause (.pctr f) e.g = none →
      ((e.g.s32 f.a).toNat ≤ 3 → ∃ t, exec (.pctr f) s = .next t ∧ Did s t e (e.g.regs.sset (regOf f.d) ((e.g.pcs[(e.g.s32 f.a).toNat]?).getD 0)))
      ∧ (3 < (e.g.s32 f.a).toNat → ∃ u, Counted s u e ∧ exec (.pctr f) s = .next (u.trapWord e 0x03)))
    ∧ (∀ f a b, decodeCause (.pcfg f) e.g = none → a = (e.g.s32 f.a).toNat → b = e.g.s32 f.b → a ≤ 3 → b.toNat ≤ 17 →
      ∃ t, ∃ g : Group, exec (.pcfg f) s = .next t ∧ t = { s with groups := kmod s.groups e.gid fun _ => g.advance, freeCtr := t.freeCtr }
        ∧ g = { e.g with pctl := g.pctl, pcs := e.g.pcs.set a 0 } ∧ g.pctl.extractLsb' (6 * a) 6 = b.setWidth 6
        ∧ g.pctl.getLsbD (24 + a) = decide (b ≠ 0) ∧ ∀ j < 32, ¬(6 * a ≤ j ∧ j < 6 * a + 6) → j ≠ 24 + a → g.pctl.getLsbD j = e.g.pctl.getLsbD j)
    ∧ (∀ f, decodeCause (.iflush f) e.g = none → s.writesPending e.g.uid = false → ∃ t u, exec (.iflush f) s = .next t
      ∧ Became s u e { e.g with flushed := true, uncode := [] }.advance ∧ t = { u with cores := kmod s.cores e.g.core fun c => { c with icache := [] } })

/-- R277-R279, R400, R401: TRAP and BRK enter the handler; TRET leaves it as RESUME directs. -/
def Obligations.SoftwareTrapAndReturnResults : Prop :=
  ∀ (s : State) (e : Env), s.env = some e →
    (∀ f, decodeCause (.trap f) e.g = none → e.g.doubleTrap = false → ∃ t, exec (.trap f) s = .next t ∧ Became s t e
      (e.g.enterTrap { cause := 0x10, pc := e.g.pc + 8, addr := f.imm.signExtend 64 }))
    ∧ (∀ f, decodeCause (.brk f) e.g = none → e.g.doubleTrap = false → ∃ t, exec (.brk f) s = .next t ∧ Became s t e
      (e.g.enterTrap { cause := 0x11, pc := e.g.pc + 8 }))
    ∧ (∀ f, decodeCause (.tret f) e.g = none → e.g.trap.cause.getLsbD 8 = false → ∃ u, Counted s u e ∧ exec (.tret f) s = .next (u.trapWord e 0x01))
    ∧ (∀ f, decodeCause (.tret f) e.g = none → e.g.trap.cause.getLsbD 8 = true → e.g.trap.pc.extractLsb' 0 3 = 0 → canonical e.g.trap.pc = true →
      s.repTarget e e.g.trap.pc = none → ∃ t g, exec (.tret f) s = .next t ∧ Became s t e g
        ∧ g.trap = { e.g.trap with cause := e.g.trap.cause &&& ~~~0x100#32 } ∧ g.regs = e.g.regs ∧ g.wait = 0 ∧ g.repcnt = 0 ∧ g.rep = none
        ∧ (e.g.trap.cause.getLsbD 9 = false → g.pc = e.g.trap.pc ∧ g.replay = none)
        ∧ (e.g.trap.cause.getLsbD 9 = true → e.g.trap.mask ≠ 0 → g.pc = e.g.trap.pc ∧ g.replay = some e.g.trap.mask)
        ∧ (e.g.trap.cause.getLsbD 9 = true → e.g.trap.mask = 0 → g.pc = e.g.trap.pc + 8 ∧ g.replay = none))
    ∧ (∀ f r, decodeCause (.tret f) e.g = none → e.g.trap.cause.getLsbD 8 = true → e.g.trap.pc.extractLsb' 0 3 = 0 → canonical e.g.trap.pc = true →
      s.repTarget e e.g.trap.pc = some r → e.g.trap.cause.getLsbD 9 = false → ∃ t g, exec (.tret f) s = .next t ∧ Became s t e g
        ∧ g.pc = e.g.trap.pc ∧ g.rep = some r ∧ g.repcnt = e.g.repcnt)

/-- R406, R423-R425, R427, R428: loads of device memory. The data are owed to the group, one read for each thread (R258), and the group moves on; with
every line present nothing holds them and memory is as it was. R406, R425: a response writes the words that the loads read, zero- or sign-extended, and
nothing else; a FILL handler that has not ended holds it, and so do a link that retrains (R29) and an awl that holds the line (R246). R216: an acquire
gives up the core's L1 lines when its value returns. -/
def Obligations.GlobalLoadResults : Prop :=
  (∀ (s : State) (e : Env) (f : F3) (pa : Nat → Nat) (unc : Nat → Bool), s.env = some e →
    ∀ row ∈ ([(Instr.ldg, false, e.g.gthreads f true), (Instr.ldgs, true, [(0, e.g.gaddr f true 0)])] :
      List ((F3 → Instr) × Bool × List (Nat × DWord))),
    decodeCause (row.1 f) e.g = none → Reaches s e .read (widthBytes f.ty) row.2.2 pa unc →
      ∃ t g fills, exec (row.1 f) s = .next t ∧ kget t.groups e.gid = some g
        ∧ CountsOnly { e.g with
            unfenced := g.unfenced, uncode := g.uncode
            resps := e.g.resps ++ if row.2.2 = [] ∧ acqOrder f = false then [] else [Resp.mk (row.2.2.map fun (x : Nat × DWord) =>
              .dev row.2.1 (if row.2.1 then regOf f.d else 128 * regOf f.d + x.1) (pa x.1) (widthBytes f.ty) (f.ty = 0 || f.ty = 2)
                (if unc x.1 = true ∨ f.md = 3 then .bypass else if f.md = 1 then .look else .allocate)) fills (acquires f) (acqOrder f)] }.advance g
        ∧ OthersKept s t e ∧ t.blocks = s.blocks ∧ (Hits s row.2.2 pa → fills = [] ∧ g.unfenced = e.g.unfenced ∧ t.mem = s.mem))
  ∧ (∀ (s : State) (gid : Nat) (g : Group) (r : Resp) (rest : List Resp), kget s.groups gid = some g → g.resps = r :: rest →
    (r.fills ≠ [] → exec (.memoryResponse gid) s = .next s)
    ∧ (∀ sc key pa n sg, r.fills = [] → r.acq = false → r.ord = false → r.items = [.dev sc key pa n sg .bypass] → n ∈ [1, 2, 4, 8, 16] → pa % n = 0 →
      s.link.retraining = false → kget s.heldLines (lineOf pa) = none → (∀ w ∈ s.pendingWrites, w.own = false ∨ w.core ≠ some (coreOfGid gid)) → ∃ t, exec (.memoryResponse gid) s = .next t
      ∧ kget t.groups gid = some { g with
          resps := rest
          regs := (List.range ((n + 3) / 4)).foldl (fun q k =>
            setWordReg q sc (key + if sc then k else 128 * k) (extendLoad sg (s.readMem (pa + 4 * k) (min 4 n)))) g.regs }
      ∧ (∀ j, j ≠ gid → kget t.groups j = kget s.groups j) ∧ t.mem = s.mem)
    ∧ (r.fills = [] → r.items ≠ [] → (∀ x ∈ r.items, s.blocked (coreOfGid gid) r.acq x = true) → ∃ t, exec (.memoryResponse gid) s = .next t
      ∧ kget t.groups gid = some (if r.ord then g.acquired else g) ∧ t.mem = s.mem
      ∧ t.cores = if r.acq then kmod s.cores (coreOfGid gid) fun c => { c with l1 := [] } else s.cores)
    ∧ (r.fills = [] → r.items = [] → ∃ t, exec (.memoryResponse gid) s = .next t
      ∧ t = { s with
        groups := kmod s.groups gid fun g => if r.ord then Group.acquired { g with resps := rest } else { g with resps := rest }
        cores := if r.acq then kmod s.cores (coreOfGid gid) fun c => { c with l1 := [] } else s.cores })
    ∧ (∀ l : List Byte, l.length ≤ 4 → extendLoad false l = BitVec.ofNat 32 (leNat l))
    ∧ ∀ b0 b1 : Byte, extendLoad true [b0] = b0.signExtend 32 ∧ extendLoad true [b0, b1] = (b1 ++ b0).signExtend 32)

/-- R423-R429: stores to device memory. With every line present and no copy to acknowledge (R218) the bytes are in memory at once, those of a thread
that overlaps no other thread are its own, and every byte outside the threads' addresses is as it was. R424, R280, R210: global accesses that do not
all succeed. A misaligned address traps MISALIGNED with the mask of the threads not finished and the lowest such thread's address; with no cause, a
page that is pending parks the group with its threads. -/
def Obligations.GlobalStoreResults : Prop :=
  (∀ (s : State) (e : Env) (f : F3) (pa : Nat → Nat) (unc : Nat → Bool), s.env = some e →
    ∀ row ∈ ([(Instr.stg, e.g.gthreads f true), (Instr.stgs, [(0, e.g.gaddr f true 0)])] : List ((F3 → Instr) × List (Nat × DWord))),
    decodeCause (row.1 f) e.g = none → Reaches s e .write (widthBytes f.ty) row.2 pa unc →
    (ordOf f = 2 ∧ 2 ≤ scopeOf f → s.writesPending e.g.uid = false) →
      ∃ t g, exec (row.1 f) s = .next t ∧ kget t.groups e.gid = some g
        ∧ CountsOnly { e.g with resps := g.resps, unfenced := g.unfenced, uncode := g.uncode }.advance g ∧ OthersKept s t e
        ∧ (Lands s row.2 pa → g.resps = e.g.resps
          ∧ (∀ x ∈ row.2, Alone (row.2.map Prod.fst) pa (widthBytes f.ty) x.1 → ∀ i < widthBytes f.ty, sget t.mem (pa x.1 + i) = storeByte e.g f x.1 i)
          ∧ ∀ a, Outside (row.2.map Prod.fst) pa (widthBytes f.ty) a → sget t.mem a = sget s.mem a))
  ∧ (∀ (s : State) (e : Env) (f : F3) (t : Nat), s.env = some e → NoLatch f → bitsOf (e.g.pred f.pm.toNat) = [t] → e.g.doubleTrap = false →
    ∀ row ∈ ([(Instr.ldg, .read), (Instr.stg, .write)] : List ((F3 → Instr) × Access)),
    decodeCause (row.1 f) e.g = none → (ordOf f ≠ 2 ∨ s.writesPending e.g.uid = false) →
      ((e.g.gaddr f true t).toNat % widthBytes f.ty ≠ 0 → ∃ s' g, exec (row.1 f) s = .next s' ∧ kget s'.groups e.gid = some g
        ∧ CountsOnly (Group.enterTrap { e.g with resps := g.resps } { cause := 0x04, pc := e.g.pc, mask := 1#128 <<< t, addr := e.g.gaddr f true t, resume := true }) g
        ∧ s'.mem = s.mem)
      ∧ (∀ ipa, (e.g.gaddr f true t).toNat % widthBytes f.ty = 0 → (∀ n, (s.access n e.ck (e.g.gaddr f true t) row.2).1 = .park ipa false) →
        ∃ s' g, exec (row.1 f) s = .next s' ∧ kget s'.groups e.gid = some g ∧ g.wait = 9 ∧ g.parkIpa = some ipa ∧ g.replay = some (1#128 <<< t)
          ∧ g.pc = e.g.pc ∧ g.regs = e.g.regs ∧ g.trap.cause = e.g.trap.cause ∧ s'.mem = s.mem)
      ∧ (∀ c, c ∈ [0x05, 0x0E] → (e.g.gaddr f true t).toNat % widthBytes f.ty = 0 → (∀ n, (s.access n e.ck (e.g.gaddr f true t) row.2).1 = .stop c none) →
        ∃ s' g, exec (row.1 f) s = .next s' ∧ kget s'.groups e.gid = some g
          ∧ CountsOnly (Group.enterTrap { e.g with resps := g.resps } { cause := c, pc := e.g.pc, mask := 1#128 <<< t, addr := e.g.gaddr f true t, resume := true }) g
          ∧ s'.mem = s.mem))

/-- R426, R430-R432, R191, R194: loads of the scratchpad, the team's and the B-store, with every thread aligned and inside. Nothing but the registers is
written; an order of acquire gives up the core's L1. R463: while an MST of the group awaits its MWAIT a load may find old bytes, and otherwise the
present ones. -/
def Obligations.LocalLoadResults : Prop :=
  (∀ (s : State) (e : Env) (a : SpmAt) (off n : Nat), a ≠ .block e.g.block ∨ (∀ x ∈ e.g.unfenced, mstEntry x = false) → s.spmLoad e a off n = s.spmRead a off n)
  ∧ ∀ (s : State) (e : Env) (f : F3) (read : Nat → List Byte), s.env = some e → e.travel = false →
    ∀ row ∈ ([
      (Instr.lds, fun t a => a + widthBytes f.ty ≤ e.b.spmSize ∧ read t = s.spmLoad e (.block e.g.block) a (widthBytes f.ty)),
      (Instr.ldt, fun t a => ∃ p n o, s.teamSpm e (BitVec.ofNat 32 a) = some (p, n, o) ∧ o + widthBytes f.ty ≤ n ∧ read t = s.spmLoad e p o (widthBytes f.ty)),
      (Instr.ldb, fun t a => e.b.matrix = true ∧ a + widthBytes f.ty ≤ 2 ^ 22 ∧ read t = bytesAt (s.core e.g.core).bstore a (widthBytes f.ty))] :
        List ((F3 → Instr) × (Nat → Nat → Prop))),
    decodeCause (row.1 f) e.g = none → (row.1 f = .ldb f → e.b.matrix = true) →
    (∀ t ∈ bitsOf (e.g.pred f.pm.toNat), (e.g.laddr f true t).toNat % widthBytes f.ty = 0 ∧ row.2 t (e.g.laddr f true t).toNat) →
      ∃ t u r, exec (row.1 f) s = .next t ∧ Did s u e r ∧ t = (if ordOf f = 1 then u.acquireBy e.gid e.g.core (scopeOf f) else u)
        ∧ r = { e.g.regs with v := r.v }
        ∧ (∀ i < 128, ∀ k < memRegs f.ty, r.vget (regOf f.d + k) i = if (e.g.pred f.pm.toNat).getLsbD i
            then extendLoad (f.ty = 0 || f.ty = 2) (((read i).drop (4 * k)).take 4) else e.g.regs.vget (regOf f.d + k) i)
        ∧ ∀ i < 128, ∀ q, q < regOf f.d ∨ regOf f.d + memRegs f.ty ≤ q → r.vget q i = e.g.regs.vget q i

/-- R426, R430, R431: stores to the scratchpad and the team's, with every thread aligned and inside. R432, R194: a store to the B-store, by a block that
owns the matrix array; another block's traps MATRIX_OWNER. -/
def Obligations.LocalStoreResults : Prop :=
  (∀ (s : State) (e : Env) (f : F3) (pl : Nat → SpmAt) (off : Nat → Nat), s.env = some e → e.travel = false →
    (ordOf f = 2 ∧ 2 ≤ scopeOf f → s.writesPending e.g.uid = false) →
    ∀ row ∈ ([
      (Instr.sts, fun t => pl t = .block e.g.block ∧ off t = (e.g.laddr f true t).toNat ∧ off t + widthBytes f.ty ≤ e.b.spmSize),
      (Instr.stt, fun t => ∃ n, s.teamSpm e (e.g.laddr f true t) = some (pl t, n, off t) ∧ off t + widthBytes f.ty ≤ n)] :
        List ((F3 → Instr) × (Nat → Prop))),
    decodeCause (row.1 f) e.g = none →
    (∀ t ∈ bitsOf (e.g.pred f.pm.toNat), (e.g.laddr f true t).toNat % widthBytes f.ty = 0 ∧ off t + widthBytes f.ty ≤ 2 ^ 20 ∧ row.2 t) →
      ∃ t g, exec (row.1 f) s = .next t ∧ kget t.groups e.gid = some g ∧ CountsOnly { e.g with unfenced := g.unfenced }.advance g
        ∧ OthersKept s t e ∧ t.mem = s.mem
        ∧ (∀ i ∈ bitsOf (e.g.pred f.pm.toNat),
          (∀ j ∈ bitsOf (e.g.pred f.pm.toNat), j ≠ i → pl j ≠ pl i ∨ off j + widthBytes f.ty ≤ off i ∨ off i + widthBytes f.ty ≤ off j) →
          t.spmRead (pl i) (off i) (widthBytes f.ty) = (List.range (widthBytes f.ty)).map (storeByte e.g f i))
        ∧ ∀ p o, (∀ j ∈ bitsOf (e.g.pred f.pm.toNat), pl j ≠ p ∨ o < off j ∨ off j + widthBytes f.ty ≤ o) → t.spmRead p o 1 = s.spmRead p o 1)
  ∧ (∀ (s : State) (e : Env) (f : F3), s.env = some e → decodeCause (.stb f) e.g = none →
    (e.b.matrix = false → ∃ u, Counted s u e ∧ exec (.stb f) s = .next (u.trapWord e 0x0B))
    ∧ (e.b.matrix = false → decodeCause (.ldb f) e.g = none → ∃ u, Counted s u e ∧ exec (.ldb f) s = .next (u.trapWord e 0x0B))
    ∧ (e.b.matrix = true → (ordOf f = 2 ∧ 2 ≤ scopeOf f → s.writesPending e.g.uid = false) → (kget s.cores e.g.core).isSome →
      (∀ t ∈ bitsOf (e.g.pred f.pm.toNat), (e.g.laddr f true t).toNat % widthBytes f.ty = 0 ∧ (e.g.laddr f true t).toNat + widthBytes f.ty ≤ 2 ^ 22) →
      ∃ t g, exec (.stb f) s = .next t ∧ kget t.groups e.gid = some g ∧ CountsOnly { e.g with unfenced := g.unfenced }.advance g
        ∧ OthersKept s t e ∧ t.mem = s.mem ∧ t.blocks = s.blocks
        ∧ (∀ i ∈ bitsOf (e.g.pred f.pm.toNat), Alone (bitsOf (e.g.pred f.pm.toNat)) (fun j => (e.g.laddr f true j).toNat) (widthBytes f.ty) i →
          ∀ k < widthBytes f.ty, sget (t.core e.g.core).bstore ((e.g.laddr f true i).toNat + k) = storeByte e.g f i k)
        ∧ ∀ a, Outside (bitsOf (e.g.pred f.pm.toNat)) (fun j => (e.g.laddr f true j).toNat) (widthBytes f.ty) a →
          sget (t.core e.g.core).bstore a = sget (s.core e.g.core).bstore a))

/-- R437-R439: the atomics on device memory and on the scratchpad. A thread that overlaps no other gets the old value in D and leaves the row's function
of it in memory. -/
def Obligations.AtomicResults : Prop :=
  ∀ (s : State) (e : Env) (f : F3), s.env = some e → (ordOf f = 2 ∨ ordOf f = 3 → s.writesPending e.g.uid = false) →
    ∀ row ∈ ([
      (Instr.aaddG, Instr.aaddS, 0, fun _ o b _ => o + b), (Instr.aminG, Instr.aminS, 0, fun w o b _ => BitVec.ofInt w (min o.toInt b.toInt)),
      (Instr.amaxG, Instr.amaxS, 0, fun w o b _ => BitVec.ofInt w (max o.toInt b.toInt)),
      (Instr.aminuG, Instr.aminuS, 0, fun w o b _ => BitVec.ofNat w (min o.toNat b.toNat)),
      (Instr.amaxuG, Instr.amaxuS, 0, fun w o b _ => BitVec.ofNat w (max o.toNat b.toNat)), (Instr.aandG, Instr.aandS, 0, fun _ o b _ => o &&& b),
      (Instr.aorG, Instr.aorS, 0, fun _ o b _ => o ||| b), (Instr.axorG, Instr.axorS, 0, fun _ o b _ => o ^^^ b),
      (Instr.axchgG, Instr.axchgS, 0, fun _ _ b _ => b), (Instr.acasG, Instr.acasS, 0, fun _ o b c => if o = c then b else o),
      (Instr.afaddG, Instr.afaddS, 8, fun w o b _ => (f32Add (o.setWidth 32) (b.setWidth 32)).setWidth w),
      (Instr.afminG, Instr.afminS, 8, fun w o b _ => (f32Min (o.setWidth 32) (b.setWidth 32)).setWidth w),
      (Instr.afmaxG, Instr.afmaxS, 8, fun w o b _ => (f32Max (o.setWidth 32) (b.setWidth 32)).setWidth w)] :
        List ((F3 → Instr) × (F3 → Instr) × Nat × ((w : Nat) → BitVec w → BitVec w → BitVec w → BitVec w))),
    (∀ (pa : Nat → Nat) (unc : Nat → Bool), decodeCause (row.1 f) e.g = none → Reaches s e .atomic (widthBytes f.ty) (e.g.gthreads f false) pa unc →
      ∃ t g, exec (row.1 f) s = .next t ∧ kget t.groups e.gid = some g
        ∧ CountsOnly { e.g with resps := g.resps, unfenced := g.unfenced, uncode := g.uncode, regs := g.regs }.advance g ∧ OthersKept s t e
        ∧ (Lands s (e.g.gthreads f false) pa → g.resps = e.g.resps ∧ g.regs = { e.g.regs with v := g.regs.v }
          ∧ (∀ a, Outside (bitsOf (e.g.pred f.pm.toNat)) pa (widthBytes f.ty) a → sget t.mem a = sget s.mem a)
          ∧ (∀ i < 128, ∀ q, (e.g.pred f.pm.toNat).getLsbD i = false ∨ q < regOf f.d ∨ regOf f.d + memRegs f.ty ≤ q → g.regs.vget q i = e.g.regs.vget q i)
          ∧ ∀ i ∈ bitsOf (e.g.pred f.pm.toNat), Alone (bitsOf (e.g.pred f.pm.toNat)) pa (widthBytes f.ty) i →
            (f.ty = 4 → g.regs.vget (regOf f.d) i = word32 (s.readMem (pa i) 4)
              ∧ word32 (t.readMem (pa i) 4) = row.2.2.2 32 (word32 (s.readMem (pa i) 4)) (e.g.src row.2.2.1 f.b i) (e.g.regs.vget (regOf f.d) i))
            ∧ (f.ty = 5 → pair64 (g.regs.vget (regOf f.d) i) (g.regs.vget (regOf f.d + 1) i) = word64 (s.readMem (pa i) 8)
              ∧ word64 (t.readMem (pa i) 8) = row.2.2.2 64 (word64 (s.readMem (pa i) 8)) (e.g.src64 f.b i)
                (pair64 (e.g.regs.vget (regOf f.d) i) (e.g.regs.vget (regOf f.d + 1) i)))))
    ∧ ∀ (pl : Nat → SpmAt) (off : Nat → Nat), decodeCause (row.2.1 f) e.g = none → e.travel = false →
      (∀ t ∈ bitsOf (e.g.pred f.pm.toNat), (e.g.laddr f false t).toNat % 4 = 0 ∧ ∃ n, s.teamSpm e (e.g.laddr f false t) = some (pl t, n, off t) ∧ off t + 4 ≤ n) →
      ∃ t g, exec (row.2.1 f) s = .next t ∧ kget t.groups e.gid = some g ∧ CountsOnly { e.g with unfenced := g.unfenced, regs := g.regs }.advance g
        ∧ OthersKept s t e ∧ t.mem = s.mem ∧ g.regs = { e.g.regs with v := g.regs.v }
        ∧ (∀ p o, (∀ j ∈ bitsOf (e.g.pred f.pm.toNat), pl j ≠ p ∨ o < off j ∨ off j + 4 ≤ o) → t.spmRead p o 1 = s.spmRead p o 1)
        ∧ (∀ i < 128, ∀ q, (e.g.pred f.pm.toNat).getLsbD i = false ∨ q ≠ regOf f.d → g.regs.vget q i = e.g.regs.vget q i)
        ∧ ∀ i ∈ bitsOf (e.g.pred f.pm.toNat), (∀ j ∈ bitsOf (e.g.pred f.pm.toNat), j ≠ i → pl j ≠ pl i ∨ off j + 4 ≤ off i ∨ off i + 4 ≤ off j) →
          g.regs.vget (regOf f.d) i = word32 (s.spmRead (pl i) (off i) 4)
          ∧ word32 (t.spmRead (pl i) (off i) 4) = row.2.2.2 32 (word32 (s.spmRead (pl i) (off i) 4)) (e.g.src row.2.2.1 f.b i) (e.g.regs.vget (regOf f.d) i)

/-- R257, R440-R442: fences and messages. A release waits until the group's writes are acknowledged, an acquire gives up the core's L1; AFENCE covers
the group's ordinary writes; AMSG sends a message for each thread, and AMSGW waits for the replies. -/
def Obligations.FenceAndMessageResults : Prop :=
  ∀ (s : State) (e : Env) (f : F3), s.env = some e →
    (decodeCause (.fence f) e.g = none → (ordOf f = 2 ∨ ordOf f = 3) → 2 ≤ scopeOf f → s.writesPending e.g.uid = true →
      ∃ t, exec (.fence f) s = .next t ∧ Became s t e { e.g with wait := 0, waitFor := .writes })
    ∧ (decodeCause (.fence f) e.g = none → s.writesPending e.g.uid = false → ∃ t u, exec (.fence f) s = .next t ∧ Did s u e e.g.regs
      ∧ t = if ordOf f = 1 ∨ ordOf f = 3 then u.acquireBy e.gid e.g.core (scopeOf f) else u)
    ∧ (decodeCause (.afence f) e.g = none → ∃ t, exec (.afence f) s = .next t
      ∧ Became s t e { e.g with unfenced := e.g.unfenced.filter fun x => !afenced x }.advance)
    ∧ (decodeCause (.amsg f) e.g = none → s.writesPending e.g.uid = false → (∀ x ∈ e.g.gthreads f false, canonical x.2 = true) →
      ∃ t u, exec (.amsg f) s = .next t ∧ Did s u e e.g.regs ∧ t = { u with freeCtr := t.freeCtr, awlMsgs := s.awlMsgs ++ (e.g.gthreads f false).map fun x =>
        ({ ctx := e.ck, va := x.2, payload := e.g.src 0 f.b x.1, fwd := 0, reply := .discard, die := s.dieOf e.g.core } : AwlMsg) })
    ∧ (decodeCause (.amsgw f) e.g = none → s.writesPending e.g.uid = false → e.g.pred f.pm.toNat = 0 → ∃ t, exec (.amsgw f) s = .next t ∧ Did s t e e.g.regs)
    ∧ (decodeCause (.amsgw f) e.g = none → s.writesPending e.g.uid = false → e.g.pred f.pm.toNat ≠ 0 → (∀ x ∈ e.g.gthreads f false, canonical x.2 = true) →
      ∃ t u, exec (.amsgw f) s = .next t ∧ Became s u e { e.g with wait := 12, waitFor := .replies, awl := some {
          dst := regOf f.d, sent := e.g.pred f.pm.toNat, owed := e.g.pred f.pm.toNat, later := none } }
        ∧ t = { u with awlMsgs := s.awlMsgs ++ (e.g.gthreads f false).map fun x =>
            ({ ctx := e.ck, va := x.2, payload := e.g.src 0 f.b x.1, fwd := 0, reply := .thread e.g.uid x.1, die := s.dieOf e.g.core } : AwlMsg) })

/-- R220, R221, R246, R433-R436: pins and flushes, which wait for a line that an awl holds, and the reads of a precision resource, for one thread. -/
def Obligations.PinAndLevelResults : Prop :=
  ∀ (s : State) (e : Env) (f : F3) (i : Nat), s.env = some e → NoLatch f → bitsOf (e.g.pred f.pm.toNat) = [i] →
    (∀ pa, (∀ n, (s.access n e.ck (e.g.gaddr f true i) .read).1 = .dev pa false) → kget s.heldLines (lineOf pa) = none →
      (decodeCause (.pin f) e.g = none → (s.line? pa).isSome = true ∨ e.ctx.windows = [] → ∃ t g n, exec (.pin f) s = .next t ∧ kget t.groups e.gid = some g
        ∧ CountsOnly { e.g with regs := e.g.regs.vset (regOf f.d) i (BitVec.ofNat 32 n), unfenced := g.unfenced, uncode := g.uncode }.advance g ∧ n ≤ 3
        ∧ (∀ ln, s.line? pa = some ln → e.ck ∈ ln.pins → n = 0)
        ∧ (∀ ln, s.line? pa = some ln → e.ck ∉ ln.pins → (s.ctx e.ck).pinquota.toNat < s.pinnedBy e.ck + 1 → n = 1)
        ∧ (n = 0 → ∃ ln, t.line? pa = some ln ∧ e.ck ∈ ln.pins))
      ∧ (decodeCause (.unpin f) e.g = none → ∃ t g n, exec (.unpin f) s = .next t ∧ kget t.groups e.gid = some g
        ∧ CountsOnly { e.g with regs := e.g.regs.vset (regOf f.d) i (BitVec.ofNat 32 n) }.advance g ∧ t.mem = s.mem
        ∧ (∀ ln, s.line? pa = some ln → e.ck ∈ ln.pins → n = 0) ∧ ((∀ ln, s.line? pa = some ln → e.ck ∉ ln.pins) → n = 5)
        ∧ ∀ ln, t.line? pa = some ln → e.ck ∉ ln.pins)
      ∧ (decodeCause (.cflush f) e.g = none → ∃ t g, exec (.cflush f) s = .next t ∧ kget t.groups e.gid = some g ∧ CountsOnly e.g.advance g
        ∧ t.mem = s.mem ∧ (∀ ln, s.line? pa = some ln → ln.pins = [] → t.line? pa = none)
        ∧ ∀ sec, sec / 4 = lineOf pa → kget (t.core e.g.core).l1 sec = none))
    ∧ (∀ pa n, (∀ n, (s.access n e.ck (e.g.gaddr f true i) .read).1 = .dev pa false) → s.holders pa = [n] →
      ∀ i' ∈ [Instr.pin f, .unpin f, .cflush f], decodeCause i' e.g = none →
        ∃ t, exec i' s = .next t ∧ Became s t e { e.g with wait := 0, waitFor := .fills [n] })
    ∧ (∀ d x y ch, (e.plainRd s).desc (e.g.regs.sget64 (regOf f.a)) = (x, .ok (some d)) → d.precision = true → (e.g.src 0 f.b i).toNat < 65536 * d.pages 0 →
        x.choose d 0 (precisionFoot (e.g.src 0 f.b i).toNat) = (y, .ok ch) →
        (s.touchBoth (e.requester 0 f.md.toNat) y.seen []).2 = [] → kget y.s.groups e.gid = some e.g → decodeCause (.lodq f) e.g = none →
        ∃ t g, exec (.lodq f) s = .next t ∧ kget t.groups e.gid = some g
          ∧ CountsOnly { e.g with unfenced := g.unfenced, uncode := g.uncode, resps := e.g.resps ++ [Resp.mk [.val false (128 * regOf f.d + i) ch.status] [] false false] }.advance g)
    ∧ ∀ d x y v ch, (e.plainRd s).desc (e.g.regs.sget64 (regOf f.a)) = (x, .ok (some d)) → d.precision = true → (e.g.src 0 f.b i).toNat < 65536 * d.pages 0 →
        x.precision d (e.g.src 0 f.b i).toNat fmtF32 = (y, .ok (v, ch)) → (s.touchBoth (e.requester 0 f.md.toNat) y.seen []).2 = [] →
        kget y.s.groups e.gid = some e.g → decodeCause (.ldlod f) e.g = none → d.ring = 0 →
        ∃ t g, exec (.ldlod f) s = .next t ∧ kget t.groups e.gid = some g
          ∧ CountsOnly { e.g with unfenced := g.unfenced, uncode := g.uncode, resps := e.g.resps ++ [Resp.mk [.val false (128 * regOf f.d + i) (BitVec.ofNat 32 v),
              .val false (128 * (regOf f.d + 1) + i) ch.status] [] false false] }.advance g

/-- R115, R116, R128: the check of a launch record, which leaves the agents alone. R126, R399, R488: LAUNCH and KARM of a record that has been checked. -/
def Obligations.LaunchResults : Prop :=
  (∀ (s : State) (ck : Nat) (tag : DWord) (host : Bool) (depth : Nat) (va : DWord),
    ReadOnly s (s.checkLaunch ck tag host depth va).1
    ∧ (10 < depth → s.checkLaunch ck tag host depth va = (s, .refuse 1))
    ∧ (depth ≤ 10 → va.toNat % 64 ≠ 0 → s.checkLaunch ck tag host depth va = (s, .refuse 2))
    ∧ ∀ u l, depth ≤ 10 → va.toNat % 64 = 0 → s.readVirt ck (some tag) va 128 = (u, .bytes l) →
      (recordOk host false l = false → s.checkLaunch ck tag host depth va = (u, .refuse 2))
      ∧ ∀ r, r = LaunchRec.parse l → recordOk host false l = true → r.graphics = false → r.travel = false → r.graph = false →
        (r.total = 0 ∨ u.couldHold (partOfCtx ck) r.shape = true → s.checkLaunch ck tag host depth va = (u, .accept r .plain))
        ∧ (r.total ≠ 0 → u.couldHold (partOfCtx ck) r.shape = false → s.checkLaunch ck tag host depth va = (u, .refuse 3)))
  ∧ (∀ (s : State) (e : Env) (f : F3) (va : DWord) (u : State), s.env = some e → va = e.g.regs.sget64 (regOf f.a) →
    (∀ i, i ∈ [Instr.launch f, Instr.karm f] → decodeCause i e.g = none → (i = .launch f → s.writesPending e.g.uid = false) →
      (i = .karm f → (e.g.s32 f.b).toNat ≤ 31) →
      (∀ c, s.groupLaunch e va = (u, .refuse c) → ∃ t, exec i s = .next t ∧ t = { u with groups := kmod u.groups e.gid fun g =>
        { g with regs := e.g.regs.sset (regOf f.d) (BitVec.ofNat 32 c) }.advance })
      ∧ ∀ c a, e.g.doubleTrap = false → s.groupLaunch e va = (u, .stop (.bad c a)) → ∃ t, exec i s = .next t
        ∧ t = { u with groups := kmod u.groups e.gid fun g => g.enterTrap { cause := c, pc := e.g.pc, addr := a, resume := true } })
    ∧ (∀ r kind k die, decodeCause (.launch f) e.g = none → s.writesPending e.g.uid = false → s.groupLaunch e va = (u, .accept r kind) →
      k = f.x.toNat % 32 → die = u.dieOf e.g.core →
      (e.b.kval k = 0xFFFF → ∃ t, exec (.launch f) s = .next t ∧ t = { u with groups := kmod u.groups e.gid fun g =>
        { g with wait := 3, waitFor := .counterRoom k 1, held := some (r, kind) } })
      ∧ (e.b.kval k ≠ 0xFFFF → u.queueFull die e.part = true → ∃ t, exec (.launch f) s = .next t ∧ t = { u with groups := kmod u.groups e.gid fun g =>
        { g with wait := 8, waitFor := .launchRoom, held := some (r, kind) } })
      ∧ (e.b.kval k ≠ 0xFFFF → u.queueFull die e.part = false → u.reserveKind e.part die kind = none → ∃ t, exec (.launch f) s = .next t
        ∧ t = { u with groups := kmod u.groups e.gid fun g => { g with regs := e.g.regs.sset (regOf f.d) 5 }.advance })
      ∧ (∀ kind', e.b.kval k ≠ 0xFFFF → u.queueFull die e.part = false → u.reserveKind e.part die kind = some kind' →
        ∃ t, exec (.launch f) s = .next t ∧ ∃ l, ChildOf e va r die k l ∧ l.kind = kind' ∧ (l.blocksLeft = true →
          t = { u with
            nextId := u.nextId + 1, launches := kset u.launches u.nextId l
            groups := kmod u.groups e.gid fun g => { g with regs := e.g.regs.sset (regOf f.d) 0 }.advance
            blocks := kmod u.blocks e.g.block fun b => { b with k := b.k.set k (BitVec.ofNat 16 (e.b.kval k + 1)), openOps := b.openOps + 1 } }))
      ∧ (e.b.kval k ≠ 0xFFFF → u.queueFull die e.part = false → kind = .plain → r.total = 0 → e.travel = false → k < e.b.k.length →
        (∀ x ∈ s.blocks, x.2.launch ≠ s.nextId) → (∀ x ∈ s.launches, x.2.parentLaunch ≠ some s.nextId) → (∀ w ∈ s.pendingWrites, w.lid ≠ s.nextId) →
        ∃ t, exec (.launch f) s = .next t ∧ kget t.launches s.nextId = none ∧ (∃ b, kget t.blocks e.g.block = some b ∧ b.kval k = e.b.kval k)
          ∧ kget t.groups e.gid = some { e.g with regs := e.g.regs.sset (regOf f.d) 0 }.advance))
    ∧ ∀ r kind n m, decodeCause (.karm f) e.g = none → s.groupLaunch e va = (u, .accept r kind) → n = f.x.toNat % 32 →
      m = (e.g.s32 f.b).toNat →
      (31 < m → exec (.karm f) s = .next (s.trapWord e 0x03))
      ∧ (m ≤ 31 → 8 ≤ e.b.armed.length → ∃ t, exec (.karm f) s = .next t ∧ t = { u with groups := kmod u.groups e.gid fun g =>
        { g with wait := 8, waitFor := .armedRoom, held := some (r, kind) } })
      ∧ (m ≤ 31 → e.b.armed.length < 8 → e.b.kval m = 0xFFFF → ∃ t, exec (.karm f) s = .next t ∧ t = { u with groups := kmod u.groups e.gid fun g =>
        { g with wait := 3, waitFor := .counterRoom m 1, held := some (r, kind) } })
      ∧ (m ≤ 31 → e.b.armed.length < 8 → e.b.kval m ≠ 0xFFFF → e.b.k.length = 32 → n = m ∨ e.b.kval n ≠ 0 → ∃ t, exec (.karm f) s = .next t
        ∧ t = { u with
          groups := kmod u.groups e.gid fun g => { g with regs := e.g.regs.sset (regOf f.d) 0 }.advance
          blocks := kmod u.blocks e.g.block fun b => { b with
            k := b.k.set m (BitVec.ofNat 16 (e.b.kval m + 1))
            armed := b.armed ++ [{ k := n, due := false, done := m, recAddr := va, recd := r, kind := kind, stamp := e.l.stamp, depth := e.l.depth + 1 }] } })
      ∧ (m ≤ 31 → e.b.armed.length < 8 → e.b.kval m ≠ 0xFFFF → e.b.k.length = 32 → n ≠ m → e.b.kval n = 0 → (∀ a ∈ e.b.armed, a.due = true → a.k ≠ n) →
        (∀ g, kind ≠ .graph g) → ∃ t, exec (.karm f) s = .next t ∧ ∃ l, ChildOf e va r (u.dieOf e.g.core) m l ∧ l.kind = kind ∧ (l.blocksLeft = true →
          t = { u with
            nextId := u.nextId + 1, launches := kset u.launches u.nextId l
            groups := kmod u.groups e.gid fun g => { g with regs := e.g.regs.sset (regOf f.d) 0 }.advance
            blocks := kmod u.blocks e.g.block fun b => { b with k := b.k.set m (BitVec.ofNat 16 (e.b.kval m + 1)), openOps := b.openOps + 1 } })))

/-- R129-R131, R489-R491, R499: the records of a work graph. R131, R132: the batches of a work graph. -/
def Obligations.WorkGraphResults : Prop :=
  (∀ (s : State) (e : Env) (f : F3) (g : GraphSt), s.env = some e → e.l.kind = .graph g →
    (∀ ts, decodeCause (.emit f) e.g = none → ts = bitsOf (e.g.pred f.pm.toNat) →
      (g.pooln < ts.length → exec (.emit f) s = .next (s.trapWord e 0x03))
      ∧ (ts = [] → ∃ t, exec (.emit f) s = .next t ∧ Did s t e e.g.regs)
      ∧ (ts ≠ [] → ts.length ≤ g.pooln → g.free.length < ts.length → ∃ t g', exec (.emit f) s = .next t ∧ kget t.groups e.gid =
          some { e.g with wait := 6, waitFor := .pool ts.length } ∧ t.graphOf e.b.launch = some g' ∧ e.g.uid ∈ g'.waiting ∧ g' = { g with waiting := g'.waiting })
      ∧ (ts ≠ [] → ts.length ≤ g.pooln → ts.length ≤ g.free.length → g.waiting = [] → ∃ t g' recs r, exec (.emit f) s = .next t
        ∧ kget t.groups e.gid = some { e.g with regs := r }.advance ∧ PairsWrote e (regOf f.d) (ts.zip (recs.map g.addrOf)) r
        ∧ recs.length = ts.length ∧ (recs ++ g'.free).Perm g.free ∧ (∀ x ∈ recs, kget g'.taken x = some e.g.block)
        ∧ t.graphOf e.b.launch = some g' ∧ g' = { g with free := g'.free, taken := g'.taken }))
    ∧ (∀ i n node b rec', decodeCause (.emitc f) e.g = none → s.writesPending e.g.uid = false → bitsOf (e.g.pred f.pm.toNat) = [i] → node = f.x.toNat →
      g.nodes[node]? = some n → e.b.mayCommit node = true → g.takenAt (e.g.src64 f.a i) = some rec' →
      b = (kget g.opened (16 * s.dieOf e.g.core + node)).getD { recs := [], age := 0 } →
      ∃ t g', exec (.emitc f) s = .next t ∧ kget t.groups e.gid = some e.g.advance ∧ t.graphOf e.b.launch = some g'
        ∧ g'.committed = g.committed ++ [rec'] ∧ kget g'.taken rec' = none ∧ g'.free = g.free
        ∧ (b.recs.length + 1 < n.batch → kget g'.opened (16 * s.dieOf e.g.core + node) = some { b with recs := b.recs ++ [rec'] } ∧ g'.ready0 = g.ready0 ∧ g'.ready1 = g.ready1)
        ∧ (n.batch ≤ b.recs.length + 1 → kget g'.opened (16 * s.dieOf e.g.core + node) = none
          ∧ { stamp := s.plat.fabricCycles (s.dieOf e.g.core), node := node, recs := b.recs ++ [rec'] } ∈ g'.ready (s.dieOf e.g.core)))
    ∧ (decodeCause (.emitc f) e.g = none → g.nodes.length ≤ f.x.toNat ∨ e.b.mayCommit f.x.toNat = false → exec (.emitc f) s = .next (s.trapWord e 0x03))
    ∧ (∀ nb, decodeCause (.recget f) e.g = none → e.b.node = some nb → ∃ t r, exec (.recget f) s = .next t ∧ Did s t e r
      ∧ PairsWrote e (regOf f.d) ((bitsOf (e.g.pred f.pm.toNat)).map fun i => (i, match nb.recs[(e.g.src 0 f.a i).toNat]? with
          | some n => g.addrOf n
          | none => pair64 (BitVec.ofNat 32 nb.recs.length) 0x80000000#32)) r)
    ∧ (∀ i nb n, decodeCause (.recdone f) e.g = none → s.writesPending e.g.uid = false → NoLatch f → bitsOf (e.g.pred f.pm.toNat) = [i] → e.b.node = some nb →
      n = (e.g.src 0 f.a i).toNat →
      (∀ r, nb.recs[n]? = some r → n ∉ nb.returned → ∃ t, exec (.recdone f) s = .next t ∧ kget t.groups e.gid = some e.g.advance
        ∧ t.graphOf e.b.launch = some { g with free := g.free ++ [r], committed := g.committed.filter (· ≠ r) }
        ∧ kget t.blocks e.g.block = some { e.b with node := some { nb with returned := nb.returned ++ [n] } })
      ∧ (nb.recs[n]? = none ∨ n ∈ nb.returned → ∃ t, exec (.recdone f) s = .next t ∧ Did s t e e.g.regs)))
  ∧ (∀ (s : State) (lid : Nat) (l : Launch) (g : GraphSt), kget s.launches lid = some l → l.kind = .graph g →
    (∀ die node b n, die < 2 → node < 16 → kget g.opened (16 * die + node) = some b → g.nodes[node]? = some n →
      (b.age < n.timeout → exec (.batchTimeout lid die node) s = .next s)
      ∧ (n.timeout ≤ b.age → ∃ t g', exec (.batchTimeout lid die node) s = .next t ∧ t.graphOf lid = some g' ∧ kget g'.opened (16 * die + node) = none
        ∧ { stamp := s.plat.fabricCycles die, node := node, recs := b.recs } ∈ g'.ready die ∧ t.groups = s.groups ∧ t.blocks = s.blocks))
    ∧ (∀ die b n cl rest later, s.readyQueue die = (lid, b) :: later →
      (∀ x ∈ s.readyQueue die, ∀ k, kget s.launches x.1 = some k → (s.part (partOfCtx k.ctx)).temporal = false) → g.nodes[b.node]? = some n → s.requesting die 0 l n = cl :: rest →
      ∃ t bid blk, exec (.batchDispatch die) s = .next t ∧ s.nextId ≤ bid ∧ kget t.blocks bid = some blk ∧ blk.launch = lid ∧ blk.core = cl.core
        ∧ blk.node = some { node := b.node, recs := b.recs })
    ∧ (∀ die b n, s.readyQueue die = [(lid, b)] → (s.part (partOfCtx l.ctx)).temporal = false → g.nodes[b.node]? = some n → s.requesting die 0 l n = [] → (∀ r ∈ g.reserved, r.node ≠ b.node ∨ r.block.isSome) →
      exec (.batchDispatch die) s = .next s)
    ∧ ∀ die, s.readyQueue die = [] → exec (.batchDispatch die) s = .next s)

/-- R118, R120, R127: the scheduler places the next team of a partition's first launch; an armed launch that is due starts; a block whose groups have
ended retires. R124, R125, R80: a block retires when nothing of it is left, and with its last block the launch is over; a core whose partition has
spent its credit is to be emptied. -/
def Obligations.BlockSchedulingResults : Prop :=
  (∀ (s : State) (lid : Nat) (l : Launch), kget s.launches lid = some l →
    (∀ die cls, l.kind = .plain → (s.part (partOfCtx l.ctx)).temporal = false → s.headLaunch die (partOfCtx l.ctx) = some (lid, l) → l.recd.team = 1 →
      s.placeTeam l.ctx 1 l.recd.shape (s.candidates (partOfCtx l.ctx)) ((s.part (partOfCtx l.ctx)).pointer die) = some cls →
      ∃ t cl b, exec (.blockPlace die (partOfCtx l.ctx)) s = .next t ∧ cls = [cl] ∧ kget t.blocks s.nextId = some b ∧ b.launch = lid ∧ b.core = cl.core
        ∧ b.lin = l.next ∧ b.bidx = BitVec.ofNat 32 (l.next % l.recd.nx) ∧ b.k = List.replicate 32 0 ∧ b.resident = true
        ∧ kget t.launches lid = some { l with next := l.next + 1 } ∧ (t.core cl.core).l1 = []
        ∧ (l.recd.nroles = 0 → 1 ≤ l.recd.threads → l.recd.threads ≤ 128 → ∃ gid g, kget t.groups gid = some g ∧ g.block = s.nextId ∧ g.core = cl.core
          ∧ g.pc = l.recd.entry ∧ g.regs.sget64 0 = l.recd.args ∧ g.regs.mget 0 = BitVec.ofNat 128 (2 ^ l.recd.threads - 1) ∧ g.regs.v = []
          ∧ g.trap = { base := (s.ctx l.ctx).trapbase } ∧ g.fmt = 0x899#32 ∧ g.wait = 0))
    ∧ (∀ die part, (s.part part).temporal = false → s.headLaunch die part = none → exec (.blockPlace die part) s = .next s)
    ∧ (∀ die cls, l.kind = .plain → (s.part (partOfCtx l.ctx)).temporal = false → s.headLaunch die (partOfCtx l.ctx) = some (lid, l) →
      s.placeTeam l.ctx l.recd.team l.recd.shape (s.candidates (partOfCtx l.ctx)) ((s.part (partOfCtx l.ctx)).pointer die) = cls → cls = none →
      exec (.blockPlace die (partOfCtx l.ctx)) s = .next s)
    ∧ ∀ bid k b a, kget s.blocks bid = some b → b.launch = lid → (b.armed.find? fun a => a.due && a.k = k) = some a → (∀ g, a.kind ≠ .graph g) →
      ∃ t c, exec (.armedLaunchStart bid k) s = .next t ∧ c.recd = a.recd ∧ c.parent = some (bid, a.done) ∧ c.kind = a.kind ∧ c.depth = a.depth
        ∧ (c.blocksLeft = true → kget t.launches s.nextId = some c ∧ ∃ b', kget t.blocks bid = some b'
          ∧ b'.armed = b.armed.erase a ∧ b'.openOps = b.openOps + 1 ∧ b'.k = b.k))
  ∧ (∀ (s : State) (bid : Nat) (b : Block) (l : Launch), kget s.blocks bid = some b → kget s.launches b.launch = some l → l.kind = .plain → b.prog = .compute →
    (s.mayRetire bid b = false → exec (.blockRetire bid) s = .next s)
    ∧ (s.mayRetire bid b = true → ∃ t, exec (.blockRetire bid) s = .next t ∧ kget t.blocks bid = none ∧ (∀ x ∈ t.groups, x.2.block ≠ bid) ∧ t.mem = s.mem
      ∧ ((l.next < l.recd.total ∨ ∃ x ∈ s.blocks, x.1 ≠ bid ∧ x.2.launch = b.launch) → t.launches = s.launches ∧ t.blocks = kdel s.blocks bid)
      ∧ (l.recd.total ≤ l.next → (∀ x ∈ s.blocks, x.1 ≠ bid → x.2.launch ≠ b.launch) → (∀ x ∈ s.launches, x.2.parentLaunch ≠ some b.launch) →
        (∀ w ∈ s.pendingWrites, w.lid ≠ b.launch) →
        kget t.launches b.launch = none))
    ∧ (s.mayRetire bid b = true ↔ b.resident = true ∧ b.openOps = 0 ∧ (∀ a ∈ b.armed, a.due = false) ∧ (∀ o ∈ (s.core b.core).pipe, o.bid ≠ bid)
      ∧ ((s.groups.filter fun x => x.2.block = bid) = [] ∨ ∃ x, (s.groups.filter fun x => x.2.block = bid) = [x] ∧ x.2.waitFor = .children))
    ∧ ∀ p, (s.core b.core).holder = some p → b.resident = true →
      (0 < (s.core b.core).getDeficit p → exec (.temporalQuantumExpiry b.core) s = .next s)
      ∧ ((s.core b.core).getDeficit p ≤ 0 → ∃ t, exec (.temporalQuantumExpiry b.core) s = .next t
        ∧ t = { s with cores := kmod s.cores b.core fun c => { c with preempting := true } }))

/-- R443, R446, R447: LAYMAKE checks a record in order and marks it; LAYCHK answers the bytes of its local image. R449: an element's index vector and
its number determine each other, for a record that LAYMAKE accepts. -/
def Obligations.LayoutRecordResults : Prop :=
  (∀ (s : State) (e : Env) (f : F3) (l : Layout), s.env = some e → l = e.g.regs.layout (regOf f.a) →
    (decodeCause (.laymake f) e.g = none →
      (l.cause = 0 → ∃ t, exec (.laymake f) s = .next t ∧ Did s t e ((e.g.regs.sset (regOf f.a + 20) 0x80000000#32).cset f.x.toNat true))
      ∧ (l.cause ≠ 0 → ∃ t, exec (.laymake f) s = .next t
        ∧ Did s t e ((e.g.regs.sset (regOf f.a + 20) ((l.status &&& 0x70FFFFFF#32) ||| (BitVec.ofNat 32 l.cause <<< 24))).cset f.x.toNat false)))
    ∧ (decodeCause (.laychk f) e.g = none → l.column = false → ∃ t, exec (.laychk f) s = .next t ∧ Did s t e (e.g.regs.sset (regOf f.d)
        (if l.cause ≠ 0 ∨ 0xFFFFFFFE < (l.count * nibbles l.ty + 1) / 2 then 0xFFFFFFFF#32 else BitVec.ofNat 32 ((l.count * nibbles l.ty + 1) / 2))))
    ∧ l.base = e.g.regs.sget64 (regOf f.a) ∧ l.ndim = e.g.regs.sget (regOf f.a + 3) ∧ l.flags = e.g.regs.sget (regOf f.a + 19)
    ∧ (∀ k < 5, l.extent k = (e.g.regs.sget (regOf f.a + 4 + k)).toNat ∧ l.strideOf k = (e.g.regs.sget64 (regOf f.a + 9 + 2 * k)).toNat)
    ∧ (canonical l.base = false → l.cause = 1)
    ∧ (canonical l.base = true → l.base.toNat % 64 = 0 → 16 ≤ l.format.toNat ∨ l.format = 15 → l.cause = 2)
    ∧ (canonical l.base = true → l.base.toNat % 64 = 0 → l.format.toNat < 15 → l.ndim = 0 ∨ 5 < l.ndim.toNat → l.cause = 3)
    ∧ ∀ k < l.ndim.toNat, canonical l.base = true → l.base.toNat % 64 = 0 → l.format.toNat < 15 → l.ndim.toNat ≤ 5 → l.extent k = 0 → l.cause = 4)
  ∧ (∀ (l : Layout) (n : Nat), l.cause = 0 → n < l.count →
    l.linear (l.indexOf n) = n ∧ (l.indexOf n).length = 5 ∧ (∀ k < l.dims, ((l.indexOf n)[k]?).getD 0 < l.extent k)
      ∧ ∀ k, l.dims ≤ k → ((l.indexOf n)[k]?).getD 0 = 0)

/-- R195, R448, R452: a copy of a record without levels that passes its checks enters its core's queue and is counted; one that fails a check traps.
R448, R451, R452: CBLOAD. R451, R453, R454: a copy that has moved its last byte leaves the queue and its counter is decremented; CBLOAD's bytes are
then the codebook store's; a copy that meets a fault stops and its counter goes on counting it. -/
def Obligations.AsyncCopyResults : Prop :=
  (∀ (s : State) (e : Env) (f : F3) (l : Layout) (c0 : Copy) (kind : Bool) (vlen : Nat), s.env = some e → l = e.g.regs.layout (regOf f.a) → l.lod = false →
    kind = f.x.getLsbD 5 → (kind = true → e.b.matrix = true) → vlen = ((s.core e.g.core).codebook.map (·.vlen)).getD 1 →
    ∀ row ∈ ([(Instr.cpyin, 0), (Instr.cpyout, 1), (Instr.cpymc, 2), (Instr.cpycb, 3)] : List ((F3 → Instr) × Nat)),
    decodeCause (row.1 f) e.g = none → (row.2 = 2 → e.travel = false) → c0 = e.copyOf row.2 f l →
      (recordFits row.2 f.ty.toNat kind l = false → exec (row.1 f) s = .next (s.trapHere e 0x07 (BitVec.ofNat 64 (regOf f.a))))
      ∧ (recordFits row.2 f.ty.toNat kind l = true → (row.2 = 2 → multicastPart l e.l.recd.team c0.dval ≠ none) →
        (row.2 = 3 → ∃ b, (s.core e.g.core).codebook = some b ∧ b.kset = e.b.kset ∧ b.ty = f.ty.toNat) →
        (c0.off % (if kind then 16 else 32) ≠ 0 ∨ (if kind then 131072 else e.ownSpm.2) < copyEnd c0 e.l.recd.team (copyNibbles c0 vlen) →
          exec (row.1 f) s = .next (s.trapHere e 0x08 (BitVec.ofNat 64 (e.g.s32 f.b).toNat)))
        ∧ (c0.off % (if kind then 16 else 32) = 0 → copyEnd c0 e.l.recd.team (copyNibbles c0 vlen) ≤ (if kind then 131072 else e.ownSpm.2) → f.x.getLsbD 6 = false →
          (s.copyEntry e.g.core e.g.block = none → ∃ t, exec (row.1 f) s = .next t ∧ Became s t e { e.g with wait := 5, waitFor := .copyEntry })
          ∧ (∀ res, s.copyEntry e.g.core e.g.block = some res → e.b.kval c0.k ≠ 0xFFFF → ∃ t c, exec (row.1 f) s = .next t
            ∧ c = { c0 with vlen := vlen, reserved := res, issued := s.nextId }
            ∧ c.fn = row.2 ∧ c.k = f.x.toNat % 32 ∧ c.bid = e.g.block ∧ c.recd = l ∧ c.off = (e.g.s32 f.b).toNat ∧ c.start = [0, 0, 0, 0, 0]
            ∧ t = { s with
              nextId := s.nextId + 1
              cores := kmod s.cores e.g.core fun q => { q with copyq := q.copyq ++ [c] }
              blocks := kmod s.blocks e.g.block fun b => { b with k := b.k.set c0.k (BitVec.ofNat 16 (e.b.kval c0.k + 1)), openOps := b.openOps + 1 }
              groups := kmod s.groups e.gid fun g => Group.advance { g with regs := { g.regs with awaits := g.regs.awaits ++ [(regOf f.a + 20, s.nextId)] } } }))))
  ∧ (∀ (s : State) (e : Env) (f : F3) (b : Word), s.env = some e → decodeCause (.cbload f) e.g = none → b = e.g.s32 f.b →
    ((e.g.regs.sget64 (regOf f.a)).toNat % 16 ≠ 0 ∨ cbloadOk f.ty.toNat b = false →
      exec (.cbload f) s = .next (s.trapHere e 0x07 (BitVec.ofNat 64 (regOf f.a))))
    ∧ (∀ res, (e.g.regs.sget64 (regOf f.a)).toNat % 16 = 0 → cbloadOk f.ty.toNat b = true → s.copyEntry e.g.core e.g.block = some res →
      e.b.kval (f.x.toNat % 32) ≠ 0xFFFF → ∃ t c, exec (.cbload f) s = .next t ∧ c.fn = 4 ∧ c.recd.base = e.g.regs.sget64 (regOf f.a) ∧ c.nent = b.toNat % 512
        ∧ c.vlen = 2 ^ (b.toNat / 2 ^ 16 % 16) ∧ c.ty = f.ty.toNat ∧ c.k = f.x.toNat % 32 ∧ c.bid = e.g.block ∧ c.issued = s.nextId
        ∧ t = { s with
          nextId := s.nextId + 1
          cores := kmod s.cores e.g.core fun q => { q with copyq := q.copyq ++ [c] }
          blocks := kmod s.blocks e.g.block fun b => { b with k := b.k.set (f.x.toNat % 32) (BitVec.ofNat 16 (e.b.kval (f.x.toNat % 32) + 1)), openOps := b.openOps + 1 }
          groups := kmod s.groups e.gid Group.advance })
    ∧ (cbloadOk f.ty.toNat b = true ↔ (1 ≤ b.toNat % 512 ∧ b.toNat % 512 ≤ 256 ∧ b.toNat / 2 ^ 9 % 2 ^ 7 = 0 ∧ b.toNat / 2 ^ 20 = 0 ∧ b.toNat / 2 ^ 16 % 16 ≤ 4
      ∧ 2 ^ (b.toNat / 2 ^ 16 % 16) * nibbles f.ty.toNat ≤ 32)))
  ∧ (∀ (s : State) (core idx : Nat) (c : Copy) (b : Block) (l : Launch), (s.core core).copyq[idx]? = some c → kget s.blocks c.bid = some b →
    kget s.launches b.launch = some l →
    (s.copyMayRun core idx c = false → exec (.copyComplete core idx) s = .next s ∧ exec (.copyStop core idx) s = .next s)
    ∧ (s.copyMayRun core idx c = true →
      (∀ x bytes, c.fn = 4 → c.written = false → (Rd.new s core l.ctx c.unfenced).read c.recd.base (16 * c.nent) = (x, .ok bytes) →
        (s.touchBoth (copyRequester core l.ctx) x.seen []).2 = [] → s.writesPending c.issued = false → c.k < b.k.length →
        ∃ t b', exec (.copyComplete core idx) s = .next t ∧ (t.core core).copyq.map (·.issued) = ((s.core core).copyq.eraseIdx idx).map (·.issued)
          ∧ (t.core core).codebook = some { kset := b.kset, ty := c.ty, nent := c.nent, vlen := c.vlen, bytes := bytes }
          ∧ kget t.blocks c.bid = some b' ∧ b'.kval c.k = b.kval c.k - 1 ∧ b'.openOps = b.openOps - 1)
      ∧ (∀ a u b1, s.runCopy core l.ctx l.recd.team b.kset false c = .done a none → (s.touchBoth (copyRequester core l.ctx) a.x.seen a.wrote).2 = [] →
        u = (a.x.s.touchBoth (copyRequester core l.ctx) a.x.seen a.wrote).1 →
        u.writesPending c.issued = false → kget u.blocks c.bid = some b1 → c.k < b1.k.length →
        ∃ t b', exec (.copyComplete core idx) s = .next t ∧ (t.core core).copyq = (u.core core).copyq.eraseIdx idx ∧ t.mem = u.mem
          ∧ kget t.blocks c.bid = some b' ∧ b'.kval c.k = b1.kval c.k - 1 ∧ b'.openOps = b1.openOps - 1 ∧ b'.spm = b1.spm)
      ∧ (∀ a ad cause start, s.runCopy core l.ctx l.recd.team b.kset false c = .broken a none ad (.stop cause none) start → a.x.seen = [] → a.wrote = [] →
        (∃ x ∈ a.x.s.groups, x.2.block = c.bid ∧ x.2.waitFor ≠ .children) → kget a.x.s.blocks c.bid = some b →
        ∃ t b' c', exec (.copyStop core idx) s = .next t ∧ (t.core core).copyq = (a.x.s.core core).copyq.eraseIdx idx ∧ kget t.blocks c.bid = some b'
          ∧ b'.k = b.k ∧ b'.openOps = b.openOps ∧ b'.stopped = (b.stopped.filter fun o => o.issued < c.issued) ++ c' :: b.stopped.filter (fun o => c.issued ≤ o.issued) ∧ c'.issued = c.issued
          ∧ c'.fault = ad ∧ c'.start = start ∧ c'.k = c.k
          ∧ c'.poison = decide (cause = 0x0E) ∧ exec (.copyComplete core idx) s = .next s)))

/-- R194, R457, R462: a matrix word of a block that does not own the array traps MATRIX_OWNER; TCFG, MFENCE, MBATCH and MWAIT. R192, R307, R458-R460: a
matrix operation enters the pipeline with its operands, the group's FMT and live mask and the block's tile configuration; one that breaks a bound
traps ILLEGAL_OPERAND with the offset, and one without a TCFG before it with the word. R459: the bounds of MMA without scales. -/
def Obligations.MatrixInstructionResults : Prop :=
  (∀ (s : State) (e : Env) (f : F3) (v : Nat → Word), s.env = some e → v = (fun i => e.g.regs.sget (regOf f.a + i)) →
    (∀ i ∈ [Instr.tcfg f, .mma f, .mmaz f, .mclr f, .mld f, .mst f, .mstv f, .mfence f, .mbatch f, .mwait f], decodeCause i e.g = none → e.b.matrix = false →
      exec i s = .next (s.trapWord e 0x0B))
    ∧ (e.b.matrix = true →
      (decodeCause (.tcfg f) e.g = none → (1 ≤ (v 0).toNat ∧ (v 0).toNat ≤ 64 ∧ 1 ≤ (v 1).toNat ∧ (v 1).toNat ≤ 32 ∧ (v 2).toNat % 16 = 0 ∧ 16 ≤ (v 2).toNat
          ∧ (v 2).toNat ≤ 262144 ∧ (v 3).toNat ≤ 131071) → s.batchDone e.g.core e.g.block e.b.batch = true →
        ∃ t, exec (.tcfg f) s = .next t ∧ t = { s with
          blocks := kmod s.blocks e.g.block fun b =>
            { b with tcfg := BitVec.ofNat 32 (2048 + 64 * ((v 1).toNat - 1) + ((v 0).toNat - 1)), astride := v 2, soff := v 3 }
          cores := kmod s.cores e.g.core fun c => { c with tiles := [] }
          groups := kmod s.groups e.gid Group.advance })
      ∧ (decodeCause (.tcfg f) e.g = none → (v 0 = 0 ∨ 64 < (v 0).toNat ∨ v 1 = 0 ∨ 32 < (v 1).toNat ∨ (v 2).toNat % 16 ≠ 0 ∨ v 2 = 0 ∨ 131071 < (v 3).toNat) →
        exec (.tcfg f) s = .next (s.trapWord e 0x03))
      ∧ (decodeCause (.mfence f) e.g = none → ∃ t u, exec (.mfence f) s = .next t ∧ Became s t e { e.g with unfenced := u }.advance
        ∧ u.length = e.g.unfenced.length ∧ ∀ x ∈ u, x.1 / 2 ^ 62 ≠ 1)
      ∧ (decodeCause (.mbatch f) e.g = none → e.b.batch < 128 ∨ s.batchDone e.g.core e.g.block (e.b.batch - 128) = true → ∃ t, exec (.mbatch f) s = .next t
        ∧ t = { s with
          blocks := kmod s.blocks e.g.block fun b => { b with batch := b.batch + 1 }
          groups := kmod s.groups e.gid fun g => { g with regs := e.g.regs.sset (regOf f.d) (BitVec.ofNat 32 (e.b.batch % 256)) }.advance })
      ∧ (decodeCause (.mwait f) e.g = none → 256 ≤ (e.g.s32 f.a).toNat → exec (.mwait f) s = .next (s.trapWord e 0x03))
      ∧ (decodeCause (.mwait f) e.g = none → (e.g.s32 f.a).toNat < 256 → batchNamed e.b.batch (e.g.s32 f.a).toNat = none →
        ∃ t u, exec (.mwait f) s = .next t ∧ Became s t e { e.g with unfenced := u }.advance ∧ ∀ x ∈ u, x ∈ e.g.acquired.unfenced)
      ∧ (∀ n, decodeCause (.mwait f) e.g = none → (e.g.s32 f.a).toNat < 256 → batchNamed e.b.batch (e.g.s32 f.a).toNat = some n →
        (s.batchDone e.g.core e.g.block n = false → ∃ t, exec (.mwait f) s = .next t ∧ Became s t e { e.g with wait := 4, waitFor := .batch n })
        ∧ (s.batchDone e.g.core e.g.block n = true → ∃ t u, exec (.mwait f) s = .next t ∧ Became s t e { e.g with unfenced := u }.advance
          ∧ ∀ x ∈ u, x ∈ e.g.acquired.unfenced)))
    ∧ (∀ n j, j < 128 → j < n → batchNamed n ((n - 1 - j) % 256) = some (n - 1 - j)))
  ∧ (∀ (s : State) (e : Env) (f : F3), s.env = some e → e.b.matrix = true →
    ∀ row ∈ ([
      (Instr.mma, 1, fun o => { o with a := e.g.s32 f.a, b := e.g.s32 f.b, d := e.g.s32 f.d }, mmaBad e),
      (Instr.mmaz, 2, fun o => { o with a := e.g.s32 f.a, b := e.g.s32 f.b, d := e.g.s32 f.d }, mmaBad e),
      (Instr.mclr, 3, id, fun _ => none),
      (Instr.mld, 4, fun o => { o with a := e.g.s32 f.a }, fun o =>
        if o.a.toNat % 4 ≠ 0 ∨ e.b.spmSize < o.a.toNat + (o.m - 1) * o.astride + o.n * 4 then some o.a.toNat else none),
      (Instr.mst, 5, fun o => { o with a := e.g.s32 f.a }, fun o =>
        if (mstConvert (FmtAcc o.fmt) o.ty o.md).isNone then some e.word.toNat
        else if o.a.toNat % 4 ≠ 0 ∨ e.b.spmSize < o.a.toNat + (o.m - 1) * o.astride + o.n * (elemBits o.ty / 8) then some o.a.toNat else none),
      (Instr.mstv, 6, fun o => { o with b := e.g.s32 f.b, d := BitVec.ofNat 32 (regOf f.d) }, fun o =>
        if o.b.toNat % 4 ≠ 0 ∨ 60 < o.b.toNat then some o.b.toNat else none)] : List ((F3 → Instr) × Nat × (MatOp → MatOp) × (MatOp → Option Nat))),
    decodeCause (row.1 f) e.g = none →
      (32 ≤ (s.core e.g.core).pipe.length → ∃ t, exec (row.1 f) s = .next t ∧ Became s t e { e.g with wait := 0, waitFor := .matrixRoom })
      ∧ ((s.core e.g.core).pipe.length < 32 → e.b.tcfg.getLsbD 11 = false → exec (row.1 f) s = .next (s.trapWord e 0x03))
      ∧ ((s.core e.g.core).pipe.length < 32 → e.b.tcfg.getLsbD 11 = true → ∀ o, o = row.2.2.1 (e.matOp row.2.1 f) →
        (o.fn = row.2.1 ∧ o.tile = f.x.toNat % 8 ∧ o.fmt = e.g.fmt ∧ o.m = e.b.tcfg.toNat % 64 + 1 ∧ o.n = e.b.tcfg.toNat / 64 % 32 + 1 ∧ o.bid = e.g.block
          ∧ o.astride = e.b.astride.toNat ∧ o.soff = e.b.soff.toNat ∧ o.live = e.g.live ∧ o.batch = e.b.batch ∧ o.groupUid = e.g.uid)
        ∧ (∀ w, row.2.2.2 o = some w → exec (row.1 f) s = .next (s.trapHere e 0x03 (BitVec.ofNat 64 w)))
        ∧ (row.2.2.2 o = none → ∃ t u, exec (row.1 f) s = .next t ∧ Became s u e e.g.advance
          ∧ t = { u with cores := kmod u.cores e.g.core fun c => { c with pipe := c.pipe ++ [o] } })))
  ∧ (∀ (e : Env) (o : MatOp), FmtScale o.fmt = 0 →
    (mmaBad e o = none ↔ o.a.toNat < 2 ^ 18 ∧ o.a.toNat % 16 = 0 ∧ o.b.toNat / 2 ^ 17 % 2 ^ 7 = 0 ∧ o.b.toNat % 2 ^ 17 % 16 = 0
      ∧ o.a.toNat + (o.m - 1) * o.astride + 16 * (o.b.toNat / 2 ^ 24 + 1) * nibbles (o.fmt.toNat % 16) / 2 ≤ e.b.spmSize
      ∧ o.b.toNat % 2 ^ 17 + 16 * (o.b.toNat / 2 ^ 24 + 1) * nibbles (o.fmt.toNat / 16 % 16) / 2 ≤ 131072))

/-- R308-R310, R458-R461: the operation that the pipeline finishes. -/
def Obligations.MatrixFinishResults : Prop :=
  ∀ (s : State) (core : Nat) (o : MatOp) (rest : List MatOp) (old : Nat → Nat → Word), (s.core core).pipe = o :: rest → o.unfenced = [] →
    o.m ≤ 64 → o.n ≤ 32 → old = (fun i j => sget (s.core core).tiles (2048 * o.tile + 32 * i + j)) →
    ∃ t, exec (.matrixOpFinish core) s = .next t ∧ (t.core core).pipe.length = rest.length ∧ t.mem = s.mem
      ∧ (o.fn ≠ 6 → ∀ g, (kget t.groups g).map (·.regs) = (kget s.groups g).map (·.regs))
      ∧ (∀ k, o.fn ∈ [5, 6] ∨ k / 2048 ≠ o.tile → sget (t.core core).tiles k = sget (s.core core).tiles k)
      ∧ (o.fn ∈ [1, 2] → FmtScale o.fmt = 0 → ∀ i < o.m, ∀ j < o.n, ∀ (ra cb : Nat → Nat),
        ra = rowElem (FmtA o.fmt) (s.spmRead (.block o.bid) (o.aoff + i * o.astride) ((o.k * nibbles (FmtA o.fmt) + 1) / 2)) →
        cb = rowElem (FmtB o.fmt) (bytesAt (s.core core).bstore (131072 * j + o.boff) ((o.k * nibbles (FmtB o.fmt) + 1) / 2)) →
        (FmtAcc o.fmt = 0 → sget (t.core core).tiles (2048 * o.tile + 32 * i + j) = (if o.fn = 2 then 0 else old i j)
          + BitVec.ofInt 32 ((List.range o.k).map fun x => intElem (FmtA o.fmt) (ra x) * intElem (FmtB o.fmt) (cb x)).sum)
        ∧ (FmtAcc o.fmt = 8 → sget (t.core core).tiles (2048 * o.tile + 32 * i + j) = BitVec.ofNat 32 ((List.range (o.k / 16)).foldl (fun c g =>
          matSum fmtF32 (fmtF32.decode c :: (List.range 16).map fun q =>
            (expand (fmtOf (FmtA o.fmt)) (ra (16 * g + q)) 127).mul (expand (fmtOf (FmtB o.fmt)) (cb (16 * g + q)) 127))) (if o.fn = 2 then 0 else (old i j).toNat))))
      ∧ (o.fn = 3 → ∀ i j, i < 64 → j < 32 → sget (t.core core).tiles (2048 * o.tile + 32 * i + j) = 0)
      ∧ (o.fn = 4 → ∀ i < o.m, ∀ j < o.n, sget (t.core core).tiles (2048 * o.tile + 32 * i + j)
        = word32 (s.spmRead (.block o.bid) (o.a.toNat + i * o.astride + 4 * j) 4))
      ∧ (o.fn = 5 → FmtAcc o.fmt = 0 ∨ FmtAcc o.fmt = 8 → o.ty = FmtAcc o.fmt → o.md = 0 → 4 * o.n ≤ o.astride → (kget s.blocks o.bid).isSome →
        (∀ i < o.m, ∀ j < o.n, word32 (t.spmRead (.block o.bid) (o.a.toNat + i * o.astride + 4 * j) 4) = old i j)
        ∧ ∀ a, (∀ i < o.m, a < o.a.toNat + i * o.astride ∨ o.a.toNat + i * o.astride + 4 * o.n ≤ a) → t.spmRead (.block o.bid) a 1 = s.spmRead (.block o.bid) a 1)
      ∧ (o.fn = 6 → ∀ g, kget s.groups o.gid = some g → g.uid = o.groupUid → ∃ g', kget t.groups o.gid = some g' ∧ ∀ i < 128, ∀ q,
        g'.regs.vget q i = if q = o.d.toNat ∧ o.live.getLsbD i then old (o.b.toNat + i / 32) (i % 32) else g.regs.vget q i)

/-- R468-R470, R464-R466: the texture reads of one thread of a surface without levels whose brand the context may see: the words owed to the group. R93,
R94, R471: IMGST of one thread inside the surface. A context of the surface's brand writes the pixel; another writes nothing, the write is counted,
and a strict context traps ACCESS. What QLOD writes for a NaN λ is the model's reading (log 76). -/
def Obligations.TextureResults : Prop :=
  (∀ (s : State) (e : Env) (f : F3) (i : Nat) (x : Rd) (t : Tex) (u v : Word), s.env = some e → bitsOf (e.g.pred f.pm.toNat) = [i] →
    (e.texRd s).tex e (e.g.regs.sget64 (regOf f.b)) = (x, .ok (.ok t)) → t.lod = none → t.surf.capture = false → t.surf.brand = 0 ∨ t.surf.brand = t.brand →
    u = e.g.regs.vget (regOf f.a) i → v = e.g.regs.vget (regOf f.a + 1) i →
    (∀ y l a col, a = t.around x.s.freeCtr 0 (decide (t.surf.filter ≠ 0)) u v → ({ x with s := x.s.skip 16 } : Rd).texels t a.1 = (y, .ok l) →
      (s.touchBoth (e.requester 0 0) y.seen []).2 = [] → kget y.s.groups e.gid = some e.g → col = filtered l a.2.1 a.2.2 →
      ∀ i' ∈ [Instr.sample f, .samplel f, .sampleg f], decodeCause i' e.g = none →
        ∃ r, exec i' s = .next r ∧ Owes e (regOf f.d) i r [(0, (col[0]?).getD 0), (1, (col[1]?).getD 0), (2, (col[2]?).getD 0), (3, (col[3]?).getD 0), (4, 0)])
    ∧ (∀ y l, 0 ≤ u.toInt → u.toInt < t.surf.levelW 0 → 0 ≤ v.toInt → v.toInt < t.surf.levelH 0 →
      ({ x with s := x.s.skip 16 } : Rd).texelBytes t { lv := 0, x := u.toNat, y := v.toNat } = (y, .ok l) →
      (s.touchBoth (e.requester 0 0) y.seen []).2 = [] → kget y.s.groups e.gid = some e.g →
      (decodeCause (.tfetch f) e.g = none → ∀ col, col = pixelRead t.surf.format l → ∃ r, exec (.tfetch f) s = .next r
        ∧ Owes e (regOf f.d) i r [(0, (col[0]?).getD 0), (1, (col[1]?).getD 0), (2, (col[2]?).getD 0), (3, (col[3]?).getD 0), (4, 0)])
      ∧ (decodeCause (.imgld f) e.g = none → ∀ c : Nat → Word, c = (fun k => word32 ((l.drop (4 * k)).take 4)) → ∃ r, exec (.imgld f) s = .next r
        ∧ Owes e (regOf f.d) i r [(0, c 0), (1, c 1), (2, c 2), (3, c 3), (4, 0)]))
    ∧ (∀ i' ∈ [Instr.tfetch f, .imgld f], u.toInt < 0 ∨ t.surf.levelW 0 ≤ u.toInt ∨ v.toInt < 0 ∨ t.surf.levelH 0 ≤ v.toInt → decodeCause i' e.g = none →
      (s.touchBoth (e.requester 0 0) x.seen []).2 = [] → kget x.s.groups e.gid = some e.g →
        ∃ r, exec i' s = .next r ∧ Owes e (regOf f.d) i r [(0, 0), (1, 0), (2, 0), (3, 0), (4, 0)])
    ∧ (∀ y l a (c : Nat → Word), a = t.around x.s.freeCtr 0 true u v → ({ x with s := x.s.skip 16 } : Rd).texels t a.1 = (y, .ok l) →
      (s.touchBoth (e.requester 0 0) y.seen []).2 = [] → kget y.s.groups e.gid = some e.g →
      c = (fun k => ((l[k]?).bind fun p => p[f.x.toNat % 4]?).getD 0) → decodeCause (.gather4 f) e.g = none →
        ∃ r, exec (.gather4 f) s = .next r ∧ Owes e (regOf f.d) i r [(0, c 2), (1, c 3), (2, c 1), (3, c 0), (4, 0)])
    ∧ ((s.touchBoth (e.requester 0 0) x.seen []).2 = [] → kget x.s.groups e.gid = some e.g → decodeCause (.qlod f) e.g = none →
        ∃ r, exec (.qlod f) s = .next r ∧ Owes e (regOf f.d) i r [(0, implicitLambda f e t i), (1, 0)]))
  ∧ (∀ (s : State) (e : Env) (f : F3) (i : Nat) (x : Rd) (sf : Surf) (t : Tex) (u : State) (cx cy : Word) (pa : Nat) (unc : Bool) (data : List Byte), s.env = some e →
    decodeCause (.imgst f) e.g = none → bitsOf (e.g.pred f.pm.toNat) = [i] → (e.texRd s).surf (e.g.regs.sget64 (regOf f.b)) = (x, .ok (some sf)) →
    sf.levels = false → sf.capture = false → t = { surf := sf, lod := none, brand := e.ctx.brand, grants := [] } → (s.touchBoth (e.requester 0 0) x.seen []).2 = [] →
    u = (x.s.touchBoth (e.requester 0 0) x.seen []).1 → kget u.groups e.gid = some e.g → cx = e.g.regs.vget (regOf f.a) i → cy = e.g.regs.vget (regOf f.a + 1) i →
    0 ≤ cx.toInt → cx.toInt < t.surf.levelW 0 → 0 ≤ cy.toInt → cy.toInt < t.surf.levelH 0 →
    (∀ n, (u.access n e.ck (t.addr 0 cx.toNat cy.toNat) .write).1 = .dev pa unc) →
    data = (if f.x.getLsbD 0 then ((List.range 4).flatMap fun k => leBytes 4 (e.g.regs.vget (regOf f.d + k) i).toNat).take (formatBytes t.surf.format)
      else pixelWrite t.surf.format ((List.range 4).map fun k => e.g.regs.vget (regOf f.d + k) i)) →
      (t.surf.brand = e.ctx.brand → Lands u [(i, 0)] (fun _ => pa) → ∃ r g, exec (.imgst f) s = .next r ∧ kget r.groups e.gid = some g
        ∧ CountsOnly { e.g with unfenced := g.unfenced, uncode := g.uncode }.advance g ∧ (∀ k < data.length, sget r.mem (pa + k) = (data[k]?).getD 0)
        ∧ ∀ a, a < pa ∨ pa + data.length ≤ a → sget r.mem a = sget u.mem a)
      ∧ (t.surf.brand ≠ e.ctx.brand → e.ctx.strict = false → ∃ r g, exec (.imgst f) s = .next r ∧ kget r.groups e.gid = some g ∧ CountsOnly e.g.advance g
        ∧ r.mem = u.mem ∧ ((kget u.ctxs e.ck).isSome → (r.ctx e.ck).suppressed = (u.ctx e.ck).suppressed + 1))
      ∧ (t.surf.brand ≠ e.ctx.brand → e.ctx.strict = true → e.g.doubleTrap = false → ∃ r g, exec (.imgst f) s = .next r ∧ kget r.groups e.gid = some g
        ∧ CountsOnly (e.g.enterTrap { cause := 0x05, pc := e.g.pc, mask := 1#128 <<< i, addr := t.addr 0 cx.toNat cy.toNat, resume := true }) g ∧ r.mem = u.mem))

/-- R170, R174, R473: the instructions of a pixel program. The threads that work are those of the predicate that are in m1. -/
def Obligations.PixelInstructionResults : Prop :=
  ∀ (s : State) (e : Env) (f : F3) (g : GfxSt) (m : Mask) (st : Word), s.env = some e → e.l.kind = .gfx g → m = e.g.pred f.pm.toNat &&& e.g.regs.mget 1 →
    st = ((kget g.draws e.g.gfx.draw).map (·.pstate)).getD 0 →
    (∀ i ∈ [Instr.pixout f, .zout f, .discard f, .pixld f], decodeCause i e.g = none → e.b.prog ≠ .tile → ∃ u, Counted s u e ∧ exec i s = .next (u.trapWord e 0x01))
    ∧ (e.b.prog = .tile →
      (∀ sf, decodeCause (.pixout f) e.g = none → g.surf f.x.toNat = some sf → ∃ t o, exec (.pixout f) s = .next t
        ∧ Became s t e { e.g with gfx := { e.g.gfx with out := o } }.advance ∧ ∀ i < 128, kget o i = if m.getLsbD i
          then some { ((kget e.g.gfx.out i).getD {}) with colours := kset ((kget e.g.gfx.out i).getD {}).colours f.x.toNat ((List.range 4).map fun k => e.g.srcAt f.a i k) }
          else kget e.g.gfx.out i)
      ∧ (decodeCause (.pixout f) e.g = none → g.surf f.x.toNat = none → exec (.pixout f) s = .next (s.trapWord e 0x03))
      ∧ (decodeCause (.zout f) e.g = none → st.getLsbD 9 = false ∨ m = 0 → ∃ t o, exec (.zout f) s = .next t
        ∧ Became s t e { e.g with gfx := { e.g.gfx with out := o } }.advance ∧ ∀ i < 128, kget o i = if m.getLsbD i
          then some { ((kget e.g.gfx.out i).getD {}) with depth := some (e.g.src 8 f.a i) } else kget e.g.gfx.out i)
      ∧ (decodeCause (.discard f) e.g = none → st.getLsbD 8 = false ∨ m = 0 → ∃ t, exec (.discard f) s = .next t
        ∧ Became s t e { e.g with
          gfx := { e.g.gfx with out := e.g.gfx.out.filter fun x => !m.getLsbD x.1 }
          regs := e.g.regs.mset 1 (e.g.regs.mget 1 &&& ~~~m) }.advance)
      ∧ (∀ row ∈ [(Instr.zout f, 9), (Instr.discard f, 8)], decodeCause row.1 e.g = none → st.getLsbD row.2 = true → m ≠ 0 → e.g.doubleTrap = false →
        ∃ t q, exec row.1 s = .next t ∧ Became s t e ({ e.g with gfx := { e.g.gfx with dropped := q } }.enterTrap { cause := 0x0C, pc := e.g.pc, mask := m, addr := e.word })
          ∧ ∀ i < 128, m.getLsbD i = true → q.getLsbD i = true)
      ∧ (∀ sf rt, decodeCause (.pixld f) e.g = none → rt = (if f.x.getLsbD 2 then 4 else f.x.toNat % 4) → g.surf rt = some sf →
        ∃ t r, exec (.pixld f) s = .next t ∧ Did s t e r ∧ r = { e.g.regs with v := r.v } ∧ (∀ i < 128, ∀ q, ¬((e.g.pred f.pm.toNat).getLsbD i ∧ regOf f.d ≤ q
            ∧ q < regOf f.d + if rt = 4 then 1 else 4) → r.vget q i = e.g.regs.vget q i)
          ∧ ∀ i < 128, ∀ p, (e.g.pred f.pm.toNat).getLsbD i = true → kget e.g.gfx.px i = some p →
            (p.x < g.width → p.y < g.height → rt = 4 → r.vget (regOf f.d) i = word32 (e.b.pixel g 4 p.x p.y))
            ∧ (p.x < g.width → p.y < g.height → rt ≠ 4 → ∀ k < 4, r.vget (regOf f.d + k) i = ((pixelRead sf.format (e.b.pixel g rt p.x p.y))[k]?).getD 0)
            ∧ (g.width ≤ p.x ∨ g.height ≤ p.y → r.vget (regOf f.d) i = 0)))

/-- R474, R475: the outputs of a vertex or mesh program, for one thread. A vertex, slot or primitive that does not exist traps ILLEGAL_OPERAND. R178,
R391, R476, R477: TASKOUT hands a payload to the slot of its core's ring; MESHEND ends the group with its counts. -/
def Obligations.GeometryResults : Prop :=
  (∀ (s : State) (e : Env) (f : F3) (i v : Nat), s.env = some e → bitsOf (e.g.pred f.pm.toNat) = [i] →
    v = (if e.b.prog = .mesh then (e.g.src 0 f.b i).toNat else i) →
    (∀ row ∈ [(Instr.vtxout f, [Prog.attr, .mesh]), (Instr.posout f, [.position, .mesh]), (Instr.primout f, [.mesh])], decodeCause row.1 e.g = none →
      e.b.prog ∉ row.2 → ∃ u, Counted s u e ∧ exec row.1 s = .next (u.trapWord e 0x01))
    ∧ (∀ row ∈ [(Instr.vtxout f, Prog.attr), (Instr.posout f, .position)], decodeCause row.1 e.g = none → (e.b.prog = .mesh ∨ (e.b.prog = row.2 ∧ f.b = 0x200#11)) →
      128 ≤ v → e.g.doubleTrap = false → ∃ t, exec row.1 s = .next t
        ∧ Became s t e (e.g.enterTrap { cause := 0x03, pc := e.g.pc, mask := 1#128 <<< i, addr := e.word }))
    ∧ (decodeCause (.vtxout f) e.g = none → (e.b.prog = .mesh ∨ (e.b.prog = .attr ∧ f.b = 0x200#11)) → v < 128 → ∃ t l, exec (.vtxout f) s = .next t
      ∧ Became s t e { e.g with gfx := { e.g.gfx with geom := { e.g.gfx.geom with slots := l } } }.advance
      ∧ ∀ k, sget l k = if k = 16 * v + f.x.toNat then e.g.src 8 f.a i else sget e.g.gfx.geom.slots k)
    ∧ (decodeCause (.posout f) e.g = none → (e.b.prog = .mesh ∨ (e.b.prog = .position ∧ f.b = 0x200#11)) → v < 128 → ∃ t l, exec (.posout f) s = .next t
      ∧ Became s t e { e.g with gfx := { e.g.gfx with geom := { e.g.gfx.geom with pos := l } } }.advance
      ∧ ∀ k, sget l k = if 4 * v ≤ k ∧ k < 4 * v + 4 then e.g.srcAt f.a i (k - 4 * v) else sget e.g.gfx.geom.pos k)
    ∧ (decodeCause (.primout f) e.g = none → e.b.prog = .mesh → ∀ p w, p = (e.g.src 0 f.b i).toNat → w = e.g.src 0 f.a i →
      (p < 256 → w.toNat < 2 ^ 24 → ∃ t l, exec (.primout f) s = .next t
        ∧ Became s t e { e.g with gfx := { e.g.gfx with geom := { e.g.gfx.geom with prims := l } } }.advance
        ∧ ∀ k, kget l k = if k = p then some w else kget e.g.gfx.geom.prims k)
      ∧ (256 ≤ p ∨ 2 ^ 24 ≤ w.toNat → e.g.doubleTrap = false → ∃ t, exec (.primout f) s = .next t
        ∧ Became s t e (e.g.enterTrap { cause := 0x03, pc := e.g.pc, mask := 1#128 <<< i, addr := e.word }))))
  ∧ (∀ (s : State) (e : Env) (f : F3) (g : GfxSt) (a b : Word), s.env = some e → e.l.kind = .gfx g → a = e.g.s32 f.a → b = e.g.s32 f.b →
    (decodeCause (.taskout f) e.g = none →
      (e.b.prog ≠ .task → exec (.taskout f) s = .next (s.trapWord e 0x01))
      ∧ (e.b.prog = .task → taskoutOk a b e.b.spmSize = false → exec (.taskout f) s = .next (s.trapWord e 0x03))
      ∧ (e.b.prog = .task → taskoutOk a b e.b.spmSize = true → s.freeRingSlot e.g.core e.b.launch = none → ∃ t, exec (.taskout f) s = .next t
        ∧ Became s t e { e.g with wait := 7, waitFor := .ringSlot })
      ∧ (∀ slot, e.b.prog = .task → taskoutOk a b e.b.spmSize = true → s.freeRingSlot e.g.core e.b.launch = some slot → e.g.unfenced = [] →
        ∃ t p, exec (.taskout f) s = .next t ∧ kget t.groups e.gid = some { e.g with gfx := { e.g.gfx with calls := e.g.gfx.calls + 1 } }.advance
          ∧ kget t.blocks s.nextId = some p ∧ p.prog = .mesh ∧ p.core = e.g.core ∧ p.spmSize = 16384 ∧ p.gfx.meshes = b.toNat / 2 ^ 16 % 32 + 1
          ∧ p.gfx.task = e.b.gfx.task ∧ p.gfx.slot = slot ∧ (∃ r, kget (t.core e.g.core).rings e.b.launch = some r ∧ kget r.slots slot = some s.nextId)
          ∧ ∀ k < b.toNat % 2 ^ 15, (kget p.spm k).map (fun x => [x]) = some (s.spmRead (.block e.g.block) (a.toNat + k) 1)))
    ∧ (taskoutOk a b e.b.spmSize = true ↔ b.toNat / 2 ^ 15 % 2 = 0 ∧ b.toNat / 2 ^ 21 = 0 ∧ b.toNat % 2 ^ 15 % 16 = 0 ∧ 16 ≤ b.toNat % 2 ^ 15 ∧ b.toNat % 2 ^ 15 ≤ 16384
      ∧ a.toNat % 16 = 0 ∧ a.toNat + b.toNat % 2 ^ 15 ≤ e.b.spmSize)
    ∧ (decodeCause (.meshend f) e.g = none →
      (e.b.prog ≠ .mesh → exec (.meshend f) s = .next (s.trapWord e 0x01))
      ∧ (e.b.prog = .mesh → 128 < a.toNat ∨ 256 < b.toNat → exec (.meshend f) s = .next (s.trapWord e 0x03))
      ∧ (∀ c, e.b.prog = .mesh → a.toNat ≤ 128 → b.toNat ≤ 256 → (∃ x ∈ s.groups, x.1 ≠ e.gid ∧ x.2.block = e.g.block) → g.chunks = [c] → c.num = e.b.gfx.chunk →
        e.b.gfx.ended = [] → ∃ t m k, exec (.meshend f) s = .next t ∧ kget t.groups e.gid = none
          ∧ m = { vertices := a.toNat, primitives := b.toNat, geom := e.g.gfx.geom } ∧ k = 2 ^ 40 * e.b.gfx.task + 2 ^ 8 * e.b.gfx.call + e.g.gfx.mesh
          ∧ t.gfxOf e.b.launch = some { g with chunks := [{ c with meshes := kset c.meshes k m }] })))

/-- R160, R163, R165-R169, R178: the events of a graphics launch. -/
def Obligations.GraphicsEventResults : Prop :=
  ∀ (s : State) (lid : Nat) (l : Launch) (g : GfxSt), kget s.launches lid = some l → l.kind = .gfx g → (s.part (partOfCtx l.ctx)).paused = false →
    (s.part (partOfCtx l.ctx)).temporal = false →
    (g.inTiles = true → exec (.binChunk lid) s = .next s)
    ∧ (g.inTiles = false → s.gfxTurn lid l = true → g.entries = [] → g.chunks = [] →
      (g.ndraws ≤ g.draw → ∃ t, exec (.binChunk lid) s = .next t ∧ t.gfxOf lid = some { g with inTiles := true, last := true, tiles := kkeys g.lists }
        ∧ ∀ c, kget (t.core c).rings lid = none)
      ∧ (∀ d, g.draw < g.ndraws → kget g.draws g.draw = some d → ∃ t g' c, exec (.binChunk lid) s = .next t ∧ t.gfxOf lid = some g' ∧ g'.chunks = [c]
        ∧ c.draw = g.draw ∧ c.first = g.within ∧ c.count = min 256 (d.count - g.within) ∧ c.placed = 0
        ∧ c.groups = (if d.mesh then c.count else (3 * c.count + 127) / 128)
        ∧ (g.within + c.count < d.count → g'.draw = g.draw ∧ g'.within = g.within + c.count) ∧ (d.count ≤ g.within + c.count → g'.draw = g.draw + 1 ∧ g'.within = 0)))
    ∧ (g.inTiles = true → g.tiles = [] → g.last = false →
      ((∃ x ∈ s.blocks, x.2.launch = lid ∧ x.2.prog = .tile) → exec (.tilePassStart lid) s = .next s)
      ∧ ((∀ x ∈ s.blocks, ¬(x.2.launch = lid ∧ x.2.prog = .tile)) → ∃ t, exec (.tilePassStart lid) s = .next t
        ∧ t.gfxOf lid = some { g with inTiles := false, lists := [], binned := 0 }))
    ∧ (∀ die tile rest u buf cl, g.inTiles = true → g.tiles = tile :: rest → s.gfxTurn lid l = true → s.gfxDies (partOfCtx l.ctx) = [die] → die < 2 →
      g.tileWaits tile = false →
      ((s.skip 1).dieOrder (partOfCtx l.ctx) die).findSome? (fun k => (s.skip 1).tryCore l.ctx k
        { groups := [(l.recd.vregs, l.recd.sregs)], spm := tileBytes g.targets g.depth.isSome } []) = some cl →
      (s.skip 1).loadTile lid l.ctx g tile = (u, some buf) →
      ∃ t b, exec (.tilePassStart lid) s = .next t ∧ kget t.blocks u.nextId = some b ∧ b.prog = .tile ∧ b.gfx.tile = tile ∧ b.gfx.todo = (kget g.lists tile).getD []
        ∧ b.spm = buf ∧ b.core = cl.core)
    ∧ (∀ bid b q rest p d cp, kget s.blocks bid = some b → b.launch = lid → b.prog = .tile → b.resident = true → b.gfx.ended = [] → b.gfx.quads = q :: rest →
      b.gfx.cur = some p → kget g.draws p.draw = some d → (s.core b.core).preempting = false →
      s.tryGroup l.ctx b.core (l.recd.vregs, l.recd.sregs) (s.groups.all fun x => x.2.block ≠ bid) = some cp →
      (s.quadsBusy bid q = true → exec (.pixelGroupStart bid) s = .next s)
      ∧ (s.quadsBusy bid q = false → ∃ t gid n b', exec (.pixelGroupStart bid) s = .next t ∧ kget t.groups gid = some n ∧ n.block = bid ∧ n.core = b.core ∧ n.pc = d.pixpc
        ∧ n.gfx.quads = q.map Prod.fst ∧ n.regs.mget 0 = lowMask (4 * q.length) ∧ n.regs.sget64 0 = l.recd.args ∧ kget t.blocks bid = some b' ∧ b'.gfx.quads = rest))
    ∧ ∀ core bid b r d cp gs, (s.core core).rings = [(lid, r)] → s.firstSlot r = some (bid, b) → kget g.draws b.gfx.draw = some d → b.resident = true →
      s.mayRun core l.ctx = true → r.holder = none → r.claim.groups = cp :: gs → kget s.blocks bid = some b →
      ∃ t gid n b', exec (.meshGroupAdmit core) s = .next t ∧ kget t.groups gid = some n ∧ n.block = bid ∧ n.core = core ∧ n.cp = cp.1 ∧ n.pc = d.prog1
        ∧ n.index = b.gfx.started ∧ kget t.blocks bid = some b' ∧ b'.gfx.started = b.gfx.started + 1
        ∧ ∃ r', kget (t.core core).rings lid = some r' ∧ r'.holder = some gid

/-- R175, R479, R483-R486: the ray query instructions. R478, R480, R485: BOXTEST and TRITEST of one thread. -/
def Obligations.RayResults : Prop :=
  (∀ (s : State) (e : Env) (f : F3) (m : Mask), s.env = some e → m = e.g.pred f.pm.toNat →
    (decodeCause (.rqinit f) e.g = none →
      (e.g.ixu = false → s.freeIxu e.g.core = 0 → ∃ t, exec (.rqinit f) s = .next t ∧ Became s t e { e.g with wait := 0, waitFor := .ixuSlot })
      ∧ (e.g.ixu = true ∨ 0 < s.freeIxu e.g.core → ∃ t r, exec (.rqinit f) s = .next t ∧ Became s t e { e.g with ixu := true, rays := r }.advance
        ∧ ∀ i < 128, (m.getLsbD i = false → kget r i = kget e.g.rays i) ∧ (m.getLsbD i = true → ∃ q, kget r i = some q
          ∧ q.ray = (List.range 8).map (fun k => e.g.regs.vget (regOf f.a + k) i) ∧ q.base = e.g.regs.sget64 (regOf f.b) ∧ q.flags = f.x.setWidth 3
          ∧ q.hit = none ∧ q.cand = none ∧ q.done = false ∧ q.trail = 0 ∧ q.restarts = 0 ∧ q.stack = [] ∧ q.marked = false
          ∧ q.cur = some { addr := q.base, base := q.base, depth := 0, child := 0, inst := none })))
    ∧ (∀ i q x q', decodeCause (.rqstep f) e.g = none → bitsOf m = [i] → kget e.g.rays i = some q →
      Query.run traversalBound (e.rd s) { q with cand := none } = (x, q', none) → (s.touchBoth (e.requester 0 0) x.seen []).2 = [] → kget x.s.groups e.gid = some e.g →
      ∃ t g, exec (.rqstep f) s = .next t ∧ kget t.groups e.gid = some g ∧ CountsOnly { e.g with
        rays := kset e.g.rays i q', unfenced := g.unfenced, uncode := g.uncode
        resps := e.g.resps ++ [Resp.mk [.val false (128 * regOf f.d + i) (if q'.cand.isSome then 1 else 0)] [] false false] }.advance g)
    ∧ (∀ i q, decodeCause (.rqstep f) e.g = none → bitsOf m = [i] → kget e.g.rays i = some q → q.done = true →
      ∃ t g, exec (.rqstep f) s = .next t ∧ kget t.groups e.gid = some g ∧ CountsOnly { e.g with
        rays := kset e.g.rays i { q with cand := none }
        resps := e.g.resps ++ [Resp.mk [.val false (128 * regOf f.d + i) 0] [] false false] }.advance g)
    ∧ (decodeCause (.rqcommit f) e.g = none → ∃ t r, exec (.rqcommit f) s = .next t ∧ Became s t e { e.g with rays := r }.advance
      ∧ ∀ i < 128, kget r i = (kget e.g.rays i).map fun (q : Query) => match q.cand with
        | some h => if m.getLsbD i then { q with hit := some h, cand := none, done := q.done || q.flags.getLsbD 1 } else q
        | none => q)
    ∧ (∀ i q, decodeCause (.rqget f) e.g = none → bitsOf m = [i] → kget e.g.rays i = some q → ∃ t v, exec (.rqget f) s = .next t ∧ Owes e (regOf f.d) i t [(0, v)]
      ∧ (f.x.toNat % 16 = 0 → (v.getLsbD 0 = q.done ∧ v.getLsbD 1 = q.cand.isSome ∧ v.getLsbD 2 = q.hit.isSome ∧ v.getLsbD 3 = q.overdepth ∧ v.getLsbD 4 = q.badnode
        ∧ v.getLsbD 5 = decide (0 < q.restarts) ∧ v.toNat < 64))
      ∧ (f.x.toNat % 16 = 8 → v = BitVec.ofNat 32 q.restarts)
      ∧ ∀ h, h = (if f.x.getLsbD 4 then q.cand else q.hit) →
        (f.x.toNat % 16 = 1 → v = (h.map (·.t)).getD 0x7F800000#32) ∧ (f.x.toNat % 16 = 2 → v = (h.map (·.u)).getD 0) ∧ (f.x.toNat % 16 = 3 → v = (h.map (·.v)).getD 0)
        ∧ (f.x.toNat % 16 = 4 → v = (h.map (·.prim)).getD 0xFFFFFFFF#32) ∧ (f.x.toNat % 16 = 5 → v = (h.map (·.inst)).getD 0xFFFFFFFF#32)
        ∧ (f.x.toNat % 16 = 6 → v = (h.map (·.shader)).getD 0xFFFFFFFF#32) ∧ (f.x.toNat % 16 = 7 → v = if (h.map (·.front)).getD false then 1 else 0))
    ∧ (∀ i, decodeCause (.rqget f) e.g = none → bitsOf m = [i] → kget e.g.rays i = none → ∃ t, exec (.rqget f) s = .next t
      ∧ Owes e (regOf f.d) i t [(0, match f.x.toNat % 16 with | 1 => 0x7F800000#32 | 4 | 5 | 6 => 0xFFFFFFFF#32 | _ => 0)])
    ∧ (∀ i q, decodeCause (.rqtrail f) e.g = none → bitsOf m = [i] → kget e.g.rays i = some q → ∃ t, exec (.rqtrail f) s = .next t
      ∧ Owes e (regOf f.d) i t [(0, q.trail.extractLsb' 0 32), (1, q.trail.extractLsb' 32 32)]))
  ∧ (∀ (s : State) (e : Env) (f : F3) (i : Nat) (x : Rd) (v : NodeView) (r : Ray), s.env = some e → bitsOf (e.g.pred f.pm.toNat) = [i] →
    (e.rd s).node (e.g.src64 f.b i) = (x, .ok v) → (s.touchBoth (e.requester 0 0) x.seen []).2 = [] → kget x.s.groups e.gid = some e.g →
    r = rayOf ((List.range 8).map fun k => e.g.regs.vget (regOf f.a + k) i) →
    (decodeCause (.boxtest f) e.g = none → ∃ t, ∃ w : Nat → Word, exec (.boxtest f) s = .next t ∧ Owes e (regOf f.d) i t [(0, w 0), (1, w 1), (2, w 2), (3, w 3)]
      ∧ (∀ n b, v = .box n b → ∀ c < 4, w c = if c < n then (r.boxOf b c).getD 0x7F800000#32 else 0x7F800000#32)
      ∧ ((∀ n b, v ≠ .box n b) → ∀ c < 4, w c = 0x7F800000#32))
    ∧ (decodeCause (.tritest f) e.g = none → ∃ t, ∃ w : Nat → Word, exec (.tritest f) s = .next t ∧ Owes e (regOf f.d) i t [(0, w 0), (1, w 1), (2, w 2), (3, w 3)]
      ∧ (∀ b a, v = .tri b → r.triangle false (nodeVec b 8) (nodeVec b 20) (nodeVec b 32) = some a →
        w 0 = a.1 ∧ w 1 = a.2.1 ∧ w 2 = a.2.2.1 ∧ w 3 = if a.2.2.2 then 1 else 0)
      ∧ (∀ b, v = .tri b → r.triangle false (nodeVec b 8) (nodeVec b 20) (nodeVec b 32) = none → w 0 = 0x7F800000#32 ∧ w 1 = 0 ∧ w 2 = 0 ∧ w 3 = 0)
      ∧ ((∀ b, v ≠ .tri b) → ∀ c < 4, w c = 0x7F800000#32)))

/-- R144, R146, R154: HOP, HOPL of one thread, and SEGID. A hop waits until the block's counters are zero and its writes acknowledged; then the group is
gone and its record is in flight. R141, R145, R147, R149-R152: the events of a travelling launch whose pool is settled. -/
def Obligations.TravelResults : Prop :=
  (∀ (s : State) (e : Env) (tr : TravelSt), s.env = some e →
    (∀ f g, (∀ t, e.l.kind ≠ .travel t) → (decodeCause (.hop f) e.g = none → exec (.hop f) s = .next (s.trapWord e 0x01))
      ∧ exec (.hopl g) s = .next (s.trapWord e 0x01) ∧ exec (.segid g) s = .next (s.trapWord e 0x01))
    ∧ (e.l.kind = .travel tr →
      (∀ (f : FI) (n : Int), decodeCause (.hop f) e.g = none → n = (f.imm.signExtend 64).toInt →
        (n < 0 ∨ tr.entries[n.toNat]? = none ∨ (∃ ent, tr.entries[n.toNat]? = some ent ∧ ent.lane = true) →
          exec (.hop f) s = .next (s.trapHere e 0x12 (f.imm.signExtend 64)))
        ∧ (∀ ent, 0 ≤ n → tr.entries[n.toNat]? = some ent → ent.lane = false → ent.vin ≤ e.g.vregs → ent.sin ≤ e.g.sregs →
          ((∃ k ∈ e.b.k, k ≠ 0#16) → ∃ t, exec (.hop f) s = .next t ∧ Became s t e { e.g with wait := 3, waitFor := .countersZero })
          ∧ ((∀ k ∈ e.b.k, k = 0#16) → s.writesPending e.g.uid = true → ∃ t, exec (.hop f) s = .next t ∧ Became s t e { e.g with wait := 0, waitFor := .writes })
          ∧ (∀ c, (∀ k ∈ e.b.k, k = 0#16) → s.writesPending e.g.uid = false → s.chooseReplica e.b.launch e.g.core ent.seg = some c →
            ∃ t r, exec (.hop f) s = .next t ∧ kget t.groups e.gid = none ∧ kget t.blocks e.g.block = none ∧ t.travelOf e.b.launch = some { tr with flying := tr.flying ++ [r] }
              ∧ r.core = c ∧ r.entry = n.toNat ∧ r.lane = false ∧ r.m0 = e.g.regs.mget 0 ∧ r.c = e.g.regs.c ∧ r.depth = e.l.depth ∧ r.cap = e.b.cap ∧ r.bidx = e.b.bidx
              ∧ (∀ q < ent.vin, ∀ i < 128, (e.g.regs.mget 0).getLsbD i = true → sget r.v (128 * q + i) = e.g.regs.vget q i)
              ∧ ∀ q < ent.sin, sget r.s q = e.g.regs.sget q)))
      ∧ (∀ (f : F3) i n ent c, decodeCause (.hopl f) e.g = none → NoLatch f → bitsOf (e.g.pred f.pm.toNat) = [i] → n = (e.g.src 0 f.a i).toInt → 0 ≤ n →
        tr.entries[n.toNat]? = some ent → ent.lane = true → ent.vin ≤ e.g.vregs → (∀ k ∈ e.b.k, k = 0#16) → s.writesPending e.g.uid = false →
        s.chooseReplica e.b.launch e.g.core ent.seg = some c →
        ∃ t r t2, exec (.hopl f) s = .next t ∧ kget t.groups e.gid = none ∧ kget t.blocks e.g.block = none ∧ t.travelOf e.b.launch = some t2
          ∧ t2.flying = tr.flying ++ [r] ∧ r.core = c ∧ r.entry = n.toNat ∧ r.lane = true ∧ r.cap = 1 ∧ ∀ q < ent.vin, sget r.v (128 * q) = e.g.regs.vget q i)
      ∧ (∀ (f : F3) i, decodeCause (.hopl f) e.g = none → NoLatch f → bitsOf (e.g.pred f.pm.toNat) = [i] → (e.g.src 0 f.a i).toInt < 0 → e.g.doubleTrap = false →
        ∃ t g, exec (.hopl f) s = .next t ∧ kget t.groups e.gid = some g ∧ g.pc = e.g.trap.base ∧ g.trap.cause = 0x112#32 ∧ g.trap.mask = 1#128 <<< i ∧ g.regs = e.g.regs)
      ∧ ∀ (f : F3) n, decodeCause (.segid f) e.g = none → n = (e.g.s32 f.a).toInt →
        (n < 0 ∨ tr.entries[n.toNat]? = none → ∃ t, exec (.segid f) s = .next t ∧ Did s t e (e.g.regs.sset (regOf f.d) 0xFFFFFFFF#32))
        ∧ ∀ ent, 0 ≤ n → tr.entries[n.toNat]? = some ent → ∃ t, exec (.segid f) s = .next t ∧ Did s t e (e.g.regs.sset (regOf f.d)
          (BitVec.ofNat 32 (ent.seg + 256 * (s.replicas e.b.launch ent.seg).length + if ent.lane then 65536 else 0)))))
  ∧ (∀ (s : State) (lid : Nat) (l : Launch) (tr : TravelSt), kget s.launches lid = some l → l.kind = .travel tr → s.settlePool lid = s →
    (∀ sg c base rest u code, tr.pinned = false → tr.segs = [sg] → (s.part (partOfCtx l.ctx)).temporal = false → (s.headLaunch l.home (partOfCtx l.ctx)).map (·.1) = some lid →
      ((s.participating (partOfCtx l.ctx) tr.cores).filterMap fun c =>
        (s.eligibleSpm (partOfCtx l.ctx) c l.recd.spm).map fun b => (c, b)) = (c, base) :: rest →
      s.loadCode l.ctx sg = (u, some code) → (kget u.cores c).isSome →
      ∃ t p t2, exec (.travelPin lid) s = .next t ∧ (t.core c).pinned = some p ∧ p.launch = lid ∧ p.seg = 0 ∧ p.code = code ∧ p.spmBase = base ∧ p.spm = [] ∧ p.arrivals = []
        ∧ p.buffers.map (·.entry) = tr.laneEntries 0 ∧ (∀ a ∈ p.buffers, a.header = true ∧ a.threads = [])
        ∧ t.travelOf lid = some t2 ∧ (u.travelOf lid = some tr → t2.pinned = true ∧ t2.free = tr.free - tr.hrec * (tr.laneEntries 0).length))
    ∧ (tr.pinned = true → (s.part (partOfCtx l.ctx)).temporal = false → exec (.travelPin lid) s = .next s)
    ∧ (∀ idx r, tr.flying[idx]? = some r → (∀ p, (s.core r.core).pinned = some p → p.launch ≠ lid) → exec (.hopArrival lid idx) s = .next s)
    ∧ (∀ idx r, tr.flying[idx]? = some r → s.link.retraining = true → r.die ≠ s.dieOf r.core → exec (.hopArrival lid idx) s = .next s)
    ∧ (∀ idx r p, tr.flying[idx]? = some r → (∀ o ∈ tr.flying.take idx, o.src = r.src → o.entry = r.entry → o.core ≠ r.core) →
      s.link.retraining = false ∨ r.die = s.dieOf r.core → (s.core r.core).pinned = some p → p.launch = lid →
      (r.lane = false → ∃ t q, exec (.hopArrival lid idx) s = .next t ∧ t.travelOf lid = some { tr with flying := tr.flying.eraseIdx idx }
        ∧ (t.core r.core).pinned = some q ∧ q.arrivals = p.arrivals ++ [{ r with inBuf := decide (bufferHeld tr p + r.cap * tr.trsz ≤ 65536) }]
        ∧ (bufferHeld tr p + r.cap * tr.trsz ≤ 65536 → t.mem = s.mem ∧ t.groups = s.groups))
      ∧ (r.lane = true → ∃ t, ∃ u : State, ∃ q : Pinned, exec (.hopArrival lid idx) s = .next t ∧ t = u.settlePool lid ∧ u.travelOf lid = some { tr with flying := tr.flying.eraseIdx idx }
        ∧ (u.core r.core).pinned = some q ∧ ∀ a ∈ p.buffers, a.entry = r.entry → a.waiting = [] → a.threads.length < 128 → ∃ b ∈ q.buffers, b.entry = a.entry
          ∧ b.threads = a.threads ++ [(List.range (((tr.entries[r.entry]?).map (·.vin)).getD 0)).map fun n => sget r.v (128 * n)]))
    ∧ (∀ core p r rest sg ent cl, (s.core core).pinned = some p → p.launch = lid → p.arrivals = r :: rest → tr.segs[p.seg]? = some sg → tr.entries[r.entry]? = some ent →
      (s.tryCore l.ctx core { groups := [(sg.vregs, sg.sregs)] } [] = none ∨ s.usable core = false → exec (.arrivalAdmit core) s = .next s)
      ∧ (s.usable core = true → s.tryCore l.ctx core { groups := [(sg.vregs, sg.sregs)] } [] = some cl → ∃ t b gid g q, exec (.arrivalAdmit core) s = .next t
        ∧ kget t.blocks s.nextId = some b ∧ b.launch = lid ∧ b.core = core ∧ b.cap = r.cap ∧ b.bidx = r.bidx ∧ kget t.groups gid = some g ∧ g.block = s.nextId
        ∧ g.pc = sg.code + BitVec.ofNat 64 ent.offset ∧ g.vregs = sg.vregs ∧ g.regs.v = r.v ∧ g.regs.mget 0 = r.m0 ∧ g.regs.c = r.c
        ∧ (2 ≤ ent.sin → g.regs.s = r.s) ∧ (ent.sin = 0 → g.regs.sget64 0 = l.recd.args) ∧ (t.core core).pinned = some q ∧ q.arrivals = rest))
    ∧ (∀ core entry p a ent, (s.core core).pinned = some p → p.launch = lid → (p.buffers.find? fun b => b.entry = entry) = some a → tr.entries[entry]? = some ent →
      (a.threads = [] ∨ a.age < ent.timeout ∨ a.header = false → exec (.assemblyTimeout core entry) s = .next s)
      ∧ (a.threads ≠ [] → ent.timeout ≤ a.age → a.header = true → ∃ t, ∃ u : State, ∃ q : Pinned, ∃ r, exec (.assemblyTimeout core entry) s = .next t ∧ t = u.settlePool lid
        ∧ (u.core core).pinned = some q ∧ q.arrivals = p.arrivals ++ [r] ∧ r.entry = entry ∧ r.lane = true ∧ r.cap = a.threads.length + tr.hrec
        ∧ r.m0 = BitVec.ofNat 128 (2 ^ a.threads.length - 1) ∧ ∃ b ∈ q.buffers, b.entry = entry ∧ b.threads = a.waiting.take 128 ∧ b.header = false))
    ∧ (∀ seg sg b c base u code, busiest (s.replicas lid seg) = some b → tr.segs[seg]? = some sg → tr.repl = true → tr.pinned = true →
      (∀ x ∈ s.replicas lid seg, 4096 ≤ x.2.busy) → tr.hrec * (tr.laneEntries seg).length ≤ tr.free →
      (((s.participating (partOfCtx l.ctx) tr.cores).filter fun c => (kget l.pins c).isNone).filterMap fun c =>
        (s.eligibleSpm (partOfCtx l.ctx) c l.recd.spm).map fun o => (c, o)) = [(c, base)] →
      s.loadCode l.ctx sg = (u, some code) → (kget u.cores c).isSome →
      ∃ t p, exec (.segmentReplicate lid seg) s = .next t ∧ (t.core c).pinned = some p ∧ p.launch = lid ∧ p.seg = seg ∧ p.code = code ∧ p.arrivals = [] ∧ p.spm = [])
    ∧ ∀ core p, (s.core core).pinned = some p → p.launch = lid → p.retiring = false →
      (p.idle < 65536 ∨ (∀ x ∈ s.replicas lid p.seg, x.1 = core) → exec (.replicaRetire core) s = .next s)
      ∧ (65536 ≤ p.idle → (∃ x ∈ s.replicas lid p.seg, x.1 ≠ core) → ((∃ r ∈ tr.flying, r.core = core) ∨ s.replicaEmpty core p = false) →
        ∃ t, exec (.replicaRetire core) s = .next t ∧ (t.core core).pinned = some { p with retiring := true })
      ∧ (65536 ≤ p.idle → (∃ x ∈ s.replicas lid p.seg, x.1 ≠ core) → (∀ r ∈ tr.flying, r.core ≠ core) → s.replicaEmpty core p = true →
        ∃ t, ∃ u : State, exec (.replicaRetire core) s = .next t ∧ t = u.settlePool lid ∧ (u.core core).pinned = none))

/-- R239, R240, R249: the base instructions of an awl, as RISC-V gives them (log 12, the model's reading of a specification that the manual only names).
Each retires with its result, its next place and one less of budget; what the manual makes an exception aborts. -/
def Obligations.AwlBaseInstructionResults : Prop :=
  ∀ (s : State) (n : Nat) (q : AwlRun) (len : Nat) (rd r1 r2 : BitVec 5) (v : Word), AwlRuns s n q →
    let a := s.awl n
    let x := a.reg r1
    let y := a.reg r2
    let p := BitVec.ofNat 32 a.pc
    let next := (a.pc + len) % 2 ^ 32
    (∀ row ∈ ([
      (.lui rd v, rd, v, next), (.auipc rd v, rd, p + v, next), (.jal rd v, rd, BitVec.ofNat 32 next, (p + v).toNat),
      (.jalr rd r1 v, rd, BitVec.ofNat 32 next, (x + v).toNat / 2 * 2), (.fence, 0, 0, next),
      (.branch .eq r1 r2 v, 0, 0, if x = y then (p + v).toNat else next), (.branch .ne r1 r2 v, 0, 0, if x = y then next else (p + v).toNat),
      (.branch .lt r1 r2 v, 0, 0, if x.toInt < y.toInt then (p + v).toNat else next),
      (.branch .ge r1 r2 v, 0, 0, if x.toInt < y.toInt then next else (p + v).toNat),
      (.branch .ltu r1 r2 v, 0, 0, if x.toNat < y.toNat then (p + v).toNat else next),
      (.branch .geu r1 r2 v, 0, 0, if x.toNat < y.toNat then next else (p + v).toNat),
      (.opImm .add rd r1 v, rd, x + v, next), (.opImm .xor rd r1 v, rd, x ^^^ v, next), (.opImm .or rd r1 v, rd, x ||| v, next),
      (.opImm .and rd r1 v, rd, x &&& v, next), (.opImm .slt rd r1 v, rd, if x.toInt < v.toInt then 1 else 0, next),
      (.opImm .sltu rd r1 v, rd, if x.toNat < v.toNat then 1 else 0, next), (.opImm .sll rd r1 v, rd, BitVec.ofNat 32 (x.toNat * 2 ^ (v.toNat % 32)), next),
      (.opImm .srl rd r1 v, rd, BitVec.ofNat 32 (x.toNat / 2 ^ (v.toNat % 32)), next),
      (.opImm .sra rd r1 v, rd, BitVec.ofInt 32 (x.toInt / 2 ^ (v.toNat % 32)), next),
      (.op .add rd r1 r2, rd, x + y, next), (.op .sub rd r1 r2, rd, x - y, next), (.op .mul rd r1 r2, rd, x * y, next),
      (.op .mulh rd r1 r2, rd, BitVec.ofInt 32 (x.toInt * y.toInt / 2 ^ 32), next),
      (.op .mulhu rd r1 r2, rd, BitVec.ofNat 32 (x.toNat * y.toNat / 2 ^ 32), next),
      (.op .divu rd r1 r2, rd, if y = 0 then 0xFFFFFFFF#32 else BitVec.ofNat 32 (x.toNat / y.toNat), next),
      (.op .div rd r1 r2, rd, if y = 0 then 0xFFFFFFFF#32 else BitVec.ofInt 32 (x.toInt.tdiv y.toInt), next),
      (.op .remu rd r1 r2, rd, if y = 0 then x else BitVec.ofNat 32 (x.toNat % y.toNat), next),
      (.csr .rs rd 0x800 0, rd, a.ahi.setWidth 32, next), (.csr .rs rd 0xCC0 0, rd, BitVec.ofNat 32 a.budget, next)] :
        List (Rv × BitVec 5 × Word × Nat)),
      ∃ t, exec (.awlBaseInstruction row.1 len) s = .next t ∧ Retires s t n row.2.1 row.2.2.1 row.2.2.2)
    ∧ (0x10000 ≤ (x + v).toNat → (x + v).toNat + 4 ≤ 0x14000 →
      (∃ t, exec (.awlBaseInstruction (.load .w rd r1 v) len) s = .next t
        ∧ Retires s t n rd (BitVec.ofNat 32 (leNat (bytesAt a.sram ((x + v).toNat - 0x10000) 4))) next)
      ∧ ∃ t m, exec (.awlBaseInstruction (.store .w r2 r1 v) len) s = .next t ∧ Retires { s with awls := kmod s.awls n fun a => { a with sram := m } } t n 0 0 next
        ∧ ∀ k, sget m k = if (x + v).toNat ≤ 0x10000 + k ∧ 0x10000 + k < (x + v).toNat + 4 then
            y.extractLsb' (8 * (0x10000 + k - (x + v).toNat)) 8 else sget a.sram k)
    ∧ ∀ i ∈ ([.ecall, .ebreak, .wfi, .illegal] : List Rv), ∃ t, exec (.awlBaseInstruction i len) s = .next t ∧ AwlOver s t n q 1

/-- R246-R254, R218: the cache-side instructions. Each gives rd its status and retires; a refused access aborts, and AEND ends the invocation.
That ALRD of an rs2 that is not 128-aligned aborts is log 51, and how an awl's access meets the link is log 41 (the model's inferences). -/
def Obligations.AwlCacheSideResults : Prop :=
  ∀ (s : State) (n : Nat) (q : AwlRun) (r : AwlR), AwlRuns s n q →
    let a := s.awl n
    let va : DWord := (a.ahi ++ a.reg r.rs1 : BitVec 48).signExtend 64
    let w := (a.reg r.rs2).toNat
    let line (v : State) (i : Instr) (status : Word) : Prop := ∃ t, exec i s = .next t ∧ Retires v t n r.rd status (a.pc + 4)
    (∀ (u : State) (pa : Nat) (unc : Bool), s.sideAccess q.ev.ctx va false = (u, .ok pa unc) → s.far (n / 24) pa = true →
      ∀ i ∈ [Instr.alock r, .apin r, .aunpin r, .afill r], exec i s = .next s)
    ∧ (∀ (u : State) (pa : Nat) (unc : Bool), s.sideAccess q.ev.ctx va false = (u, .ok pa unc) → s.far (n / 24) pa = false →
      u = { s with tlb := u.tlb, freeCtr := u.freeCtr }
      ∧ (w % 128 = 0 → 0x10000 ≤ w → w + 128 ≤ 0x14000 → (s.heldByOther n pa = true → line u (.alrd r) 5)
        ∧ (s.heldByOther n pa = false → (s.line? pa).isSome → ∃ v m, Looked u v ∧ line { v with awls := kmod v.awls n fun a => { a with sram := m } } (.alrd r) 0
          ∧ ∀ k, sget m k = if w ≤ 0x10000 + k ∧ 0x10000 + k < w + 128 then sget s.mem (pa / 128 * 128 + (0x10000 + k - w)) else sget a.sram k))
      ∧ (sliceOf pa ≠ n → line u (.alock r) 6) ∧ (sliceOf pa = n → kget s.heldLines (pa / 128) = some n → line u (.alock r) 0)
      ∧ (sliceOf pa = n → kget s.heldLines (pa / 128) ≠ some n → 4 ≤ (s.heldLines.filter fun h => h.2 = n).length → line u (.alock r) 5)
      ∧ (sliceOf pa = n → kget s.heldLines (pa / 128) ≠ some n → (s.heldLines.filter fun h => h.2 = n).length < 4 →
        (∃ w ∈ s.pendingWrites, w.line = lineOf pa) → exec (.alock r) s = .next s)
      ∧ (sliceOf pa = n → kget s.heldLines (pa / 128) ≠ some n → (s.heldLines.filter fun h => h.2 = n).length < 4 →
        (∀ w ∈ s.pendingWrites, w.line ≠ lineOf pa) → (s.line? pa).isSome →
        ∃ v, Looked u v ∧ line { v with heldLines := kset s.heldLines (pa / 128) n } (.alock r) 0)
      ∧ (s.pinWaits n pa = true → exec (.apin r) s = .next s ∧ exec (.aunpin r) s = .next s)
      ∧ (s.pinWaits n pa = false → unc = true → line u (.apin r) 2 ∧ line u (.aunpin r) 2)
      ∧ (s.pinWaits n pa = false → unc = false → (s.line? pa).isSome → ∀ v m, u.pinLine q.ev.ctx pa = (v, m) →
        ∃ x, Looked v x ∧ line x (.apin r) (if m = 0 then 0 else 2))
      ∧ (s.pinWaits n pa = false → unc = false → ∀ v m, u.unpinLine q.ev.ctx pa = (v, m) → ∃ x status, Looked v x ∧ line x (.aunpin r) status ∧ (m = 0 → status = 0) ∧ (status = 0 ∨ status = 2))
      ∧ ((s.line? pa).isSome → ∃ v, Looked u v ∧ line v (.afill r) 0))
    ∧ (∀ (u : State) (pa : Nat) (unc : Bool), s.sideAccess q.ev.ctx va true = (u, .ok pa unc) → s.far (n / 24) pa = false → 0x10000 ≤ w / 128 * 128 → w / 128 * 128 + 128 ≤ 0x14000 →
      (s.heldByOther n pa = true → line u (.alwr r) 5)
      ∧ (s.heldByOther n pa = false → (s.line? pa).isSome → s.mustWait pa = true → ∃ t, exec (.alwr r) s = .next t
        ∧ t.awls = kmod s.awls n (fun a => retired a r.rd 0 (a.pc + 4)) ∧ t.mem = s.mem
        ∧ t.pendingWrites.length = s.pendingWrites.length + ((List.range 4).filter fun i => w.testBit i).length)
      ∧ (s.heldByOther n pa = false → (s.line? pa).isSome → s.mustWait pa = false → ∃ t, exec (.alwr r) s = .next t
        ∧ t.awls = kmod s.awls n (fun a => retired a r.rd 0 (a.pc + 4)) ∧ t.pendingWrites = s.pendingWrites
        ∧ ∀ x, sget t.mem x = if x / 128 = pa / 128 ∧ w.testBit (x % 128 / 32) = true then sget a.sram (w / 128 * 128 - 0x10000 + x % 128) else sget s.mem x))
    ∧ (∀ u : State, s.sideAccess q.ev.ctx va false = (u, .fault) → (∀ i ∈ [Instr.alock r, .apin r, .aunpin r, .afill r], line u i 1)
      ∧ (a.reg 15 ≠ 63 → q.replyTo ≠ none → line u (.afwd r) 1)
      ∧ (w % 128 = 0 → 0x10000 ≤ w → w + 128 ≤ 0x14000 → line u (.alrd r) 1))
    ∧ (∀ (u : State) (c : Nat), s.sideAccess q.ev.ctx va false = (u, .abort c) → ∀ i ∈ [Instr.alock r, .apin r, .aunpin r, .afill r],
      ∃ t, exec i s = .next t ∧ AwlOver s t n q 1)
    ∧ (w % 128 ≠ 0 → ∃ t, exec (.alrd r) s = .next t ∧ AwlOver s t n q 1)
    ∧ (q.replyTo = none → line s (.afwd r) 3 ∧ line s (.areply r) 3)
    ∧ (∀ uid i, q.replyTo = some (.thread uid i) →
      (a.reg 15 = 63 → line s (.afwd r) 4)
      ∧ (∀ (u : State) (pa : Nat) (unc : Bool), a.reg 15 ≠ 63 → s.sideAccess q.ev.ctx va false = (u, .ok pa unc) →
        line { u with awlMsgs := s.awlMsgs ++ [{ ctx := q.ev.ctx, va := va, payload := a.reg r.rs2, fwd := (a.reg 15 + 1).toNat, reply := .thread uid i, die := n / 24 }]
                      awls := kmod s.awls n fun a => { a with run := some { q with owed := false } } } (.afwd r) 0)
      ∧ line { s with awlReplies := s.awlReplies ++ [{ uid := uid, t := i, value := a.reg r.rs1, status := 0, die := n / 24 }]
                      awls := kmod s.awls n fun a => { a with run := some { q with owed := false } } } (.areply r) 0)
    ∧ ∃ t, exec (.aend r) s = .next t ∧ AwlOver s t n q 3

/-- R241, R245, R249-R252, R218, R442: how an awl takes the next event of its queue, what the arrival of a message, of a reply and of a write's
acknowledgement does, and an invocation whose budget is spent. -/
def Obligations.AwlEventResults : Prop :=
  ∀ (s : State) (n : Nat),
  (∀ ev w, (s.awl n).run = none → (s.awl n).queue.find? (fun (e : AwlEvent) => !(s.part (partOfCtx e.ctx)).paused) = some ev →
    kget (s.ctx ev.ctx).windows ev.window = some w →
    ∃ t, ∃ b : Awl, exec (.awlInvocation n) s = .next t ∧ t = { s with awls := t.awls } ∧ (∀ j, j ≠ n → t.awl j = s.awl j) ∧ t.awl n = b
      ∧ b.run = some { ev := ev, image := w.image, owed := ev.reply.isSome } ∧ b.pc = 0 ∧ b.budget = w.budget ∧ b.ahi = ev.va.extractLsb' 32 16
      ∧ (∀ i : BitVec 5, b.reg i = match i.toNat with
        | 10 => BitVec.ofNat 32 ev.code | 11 => lo32 ev.va | 12 => (ev.va.extractLsb' 32 16).setWidth 32 | 13 => ev.payload
        | 14 => BitVec.ofNat 32 ev.window | 15 => BitVec.ofNat 32 ev.fwd | _ => 0)
      ∧ (∀ k, sget b.sram k = if (s.awl n).sramCtx = some ev.ctx then sget (s.awl n).sram k else 0) ∧ b.sramCtx = some ev.ctx
      ∧ b.queue = (s.awl n).queue.eraseP fun (e : AwlEvent) => e.id = ev.id)
  ∧ ((s.awl n).run.isSome → exec (.awlInvocation n) s = .next s)
  ∧ (∀ q, (s.awl n).run = some q → (s.budgetSpent n q = true → ∃ t, exec (.awlBudgetExhausted n) s = .next t ∧ AwlOver s t n q 1)
    ∧ (s.budgetSpent n q = false → exec (.awlBudgetExhausted n) s = .next s)
    ∧ ∀ r, s.cur = .awl n → (s.awl n).budget = 0 → ∀ i ∈ [Instr.areply r, .aend r], ∃ t, exec i s = .next t ∧ AwlOver s t n q 1)
  ∧ (∀ (i : Nat) (m : AwlMsg), s.awlMsgs[i]? = some m → (s.ctx m.ctx).windowAt 3 m.va.toNat = none → ∀ uid th, m.reply = .thread uid th →
    exec (.awlMessageArrival i) s = .next { s with awlMsgs := s.awlMsgs.eraseIdx i
                                                   awlReplies := s.awlReplies ++ [{ uid := uid, t := th, value := 0, status := 2, die := m.die }] })
  ∧ (∀ (i : Nat) (m : AwlMsg) (win : Nat × Window) (pa : Nat) (unc : Bool), s.awlMsgs[i]? = some m → (s.ctx m.ctx).windowAt 3 m.va.toNat = some win →
    (∀ k, (s.access k m.ctx m.va .read).1 = .dev pa unc) →
    (s.far m.die pa = true → exec (.awlMessageArrival i) s = .next s)
    ∧ (s.far m.die pa = false → (kget s.awls (sliceOf pa)).isSome → (s.awl (sliceOf pa)).queue.length < 64 → ∃ t, exec (.awlMessageArrival i) s = .next t ∧ t.awlMsgs = s.awlMsgs.eraseIdx i ∧ t.awlReplies = s.awlReplies ∧ t.mem = s.mem
      ∧ (t.awl (sliceOf pa)).queue = (s.awl (sliceOf pa)).queue ++ [{ id := s.nextId, code := 3, ctx := m.ctx, window := win.1, va := m.va, payload := m.payload
                                                                      fwd := m.fwd, reply := some m.reply }]))
  ∧ (∀ (i : Nat) (m : AwlReply) (gid : Nat) (g : Group) (d : AwlWait), s.awlReplies[i]? = some m → s.groups.find? (fun e => e.2.uid = m.uid) = some (gid, g) →
    kget s.groups gid = some g → g.awl = some d →
    (s.link.retraining = true → s.dieOf g.core ≠ m.die → exec (.amsgReplyArrival i) s = .next s)
    ∧ (s.link.retraining = false ∨ s.dieOf g.core = m.die → (d.owed &&& ~~~((1#128) <<< m.t) ≠ 0 →
      ∃ t, exec (.amsgReplyArrival i) s = .next t ∧ t = { s with awlReplies := s.awlReplies.eraseIdx i, groups := kmod s.groups gid fun g =>
        { g with awl := some { d with owed := d.owed &&& ~~~((1#128) <<< m.t), got := kset d.got m.t (m.value, m.status) } } })
    ∧ (d.owed &&& ~~~((1#128) <<< m.t) = 0 → d.got = [] → d.later = none →
      ∃ t r, exec (.amsgReplyArrival i) s = .next t ∧ kget t.groups gid = some (Group.acquired { g with awl := none, regs := { g.regs with v := r } }).advance
        ∧ ∀ k, sget r k = if k = 128 * d.dst + m.t then m.value else if k = 128 * (d.dst + 1) + m.t then m.status else sget g.regs.v k)))
  ∧ (∀ (i : Nat) (w : PendingWrite), s.pendingWrites[i]? = some w →
    (s.link.retraining = true ∧ 3 ∈ w.sharers → exec (.writeAcknowledgement i) s = .next (s.launches.foldl (fun s e => s.checkDone e.1) s))
    ∧ (s.link.retraining = false ∨ 3 ∉ w.sharers → (s.pendingWrites.find? fun o => o.line = w.line) = some w →
      ∃ t, ∃ u : State, exec (.writeAcknowledgement i) s = .next t ∧ t = s.launches.foldl (fun s e => s.checkDone e.1) u
        ∧ u.pendingWrites = s.pendingWrites.erase w ∧ u.launches = s.launches ∧ u.blocks = s.blocks ∧ u.lines = s.lines
        ∧ ∀ a, sget u.mem a = if w.pa ≤ a ∧ a < w.pa + w.data.length then (w.data[a - w.pa]?).getD 0 else sget s.mem a))
  ∧ ∀ i, s.pendingWrites.length ≤ i → exec (.writeAcknowledgement i) s = .next (s.launches.foldl (fun s e => s.checkDone e.1) s)

/-- R11, R17, R24, R35-R37, R62, R63, R87, R291: the resets. A cold reset leaves no work, memory or record and samples the straps; a warm reset keeps
the straps, reliable mode and (log 41) the error table and its retirements; an FLR ends one partition's contexts and work. -/
def Obligations.ResetEventResults : Prop :=
  ∀ (s : State),
    (∀ st p r, s.plat.thermtrip = false → ∃ t, exec (.coldReset st p r) s = .next t
      ∧ t.groups = [] ∧ t.blocks = [] ∧ t.launches = [] ∧ t.mem = [] ∧ t.fot = [] ∧ t.lines = [] ∧ t.tlb = [] ∧ t.awls = State.reset.awls ∧ t.errTable = []
      ∧ t.parts = State.reset.parts ∧ t.ctxs = State.reset.ctxs ∧ t.hostCopies = [] ∧ t.link = {} ∧ t.mbox = {}
      ∧ t.plat.straps = st ∧ t.plat.reliable = r ∧ t.plat.presenceLow = p ∧ t.plat.powered = true ∧ t.plat.heldInReset = false
      ∧ t.plat.powerLimitW = (if s.plat.t64 then 300 else if s.plat.boardForm then 475 else 420) ∧ (2 ≤ st.bootsrc.toNat → t.plat.boot = .strapError)
      ∧ t.sec.session = p ∧ t.sec.nonce = none ∧ t.sec.slot0 = s.sec.slot0 ∧ t.sec.slot1 = s.sec.slot1 ∧ t.sec.slot2 = s.sec.slot2 ∧ t.sec.slot3 = s.sec.slot3
      ∧ t.sec.vendorOff = s.sec.vendorOff ∧ t.sec.minSvn = s.sec.minSvn ∧ t.sec.flashA = s.sec.flashA ∧ t.sec.flashB = s.sec.flashB ∧ t.hostMem = s.hostMem
      ∧ (st.bootsrc = 0 → s.sec.choose st.novendor = none → t.plat.boot = .failed ∧ (t.func 0).present = true ∧ ∀ f ∈ List.range 24, (t.func (f + 1)).present = false)
      ∧ (∀ b n, st.bootsrc = 0 → s.sec.choose st.novendor = some (b, n) → t.plat.boot = .booting ∧ t.funcs = State.reset.funcs ∧ t.sec.runningSlot = n
        ∧ t.sec.runningB = some b ∧ t.sec.usable st.novendor n = true ∧ t.sec.bootFuses = s.sec.fuses))
    ∧ (∀ st p r, s.plat.thermtrip = true → exec (.coldReset st p r) s = .next s)
    ∧ (s.running = true → ∃ t, exec .warmReset s = .next t ∧ t.groups = [] ∧ t.blocks = [] ∧ t.launches = [] ∧ t.mem = [] ∧ t.lines = [] ∧ t.tlb = []
      ∧ t.parts = State.reset.parts ∧ t.ctxs = State.reset.ctxs ∧ t.plat.straps = s.plat.straps ∧ t.plat.reliable = s.plat.reliable ∧ t.sec.session = false
      ∧ t.errTable = s.errTable ∧ t.errNext = s.errNext ∧ t.retiredFrames = s.retiredFrames ∧ (∀ f ∈ s.retiredFrames, t.fotEntry f = 0x9F)
      ∧ ∀ n ∈ List.range 96, (t.core n).retired = (s.core n).retired)
    ∧ (s.running = false → exec .warmReset s = .next s)
    ∧ (s.running = true → s.plat.boot = .booting →
      (s.sec.bootFuses ≠ [] → exec .firmwareReady s = .next { s with plat := { s.plat with boot := .ready } })
      ∧ (s.sec.bootFuses = [] → s.plat.straps.bootsrc = 0 →
        (s.sec.choose s.plat.straps.novendor = none → ∃ t, exec .firmwareReady s = .next t ∧ t.plat.boot = .failed
          ∧ ∀ n f, kget s.funcs n = some f → kget t.funcs n = some { f with present := decide (n = 0) })
        ∧ ∀ b n, s.sec.choose s.plat.straps.novendor = some (b, n) → ∃ t, exec .firmwareReady s = .next t ∧ t.plat = { s.plat with boot := .ready }
          ∧ t.sec.runningSlot = n ∧ t.sec.runningB = some b ∧ t.sec.bootFuses = s.sec.fuses))
    ∧ (s.plat.boot ≠ .booting → exec .firmwareReady s = .next s)
    ∧ (∃ t, exec .powerRemoval s = .next t ∧ t.running = false ∧ t.plat.thermtrip = false)
    ∧ ∀ fn, 1 ≤ fn → fn ≤ 24 → (kget s.funcs fn).isSome → s.funcHere fn = true → (s.part (fn - 1)).pausing = false → ∃ t, exec (.vfFlr fn) s = .next t
      ∧ (t.func fn).gen = (s.func fn).gen + 1
      ∧ (∀ ck, partOfCtx ck = fn - 1 → kget t.ctxs ck = if ck = ctxKey (fn - 1) 0 then some { allow := (s.part (fn - 1)).allow } else none)
      ∧ (∀ ck, partOfCtx ck ≠ fn - 1 → kget t.ctxs ck = kget s.ctxs ck)
      ∧ (∀ ck, (kget s.ctxs ck).isSome → partOfCtx ck = fn - 1 → (∀ l ∈ t.launches, l.2.ctx ≠ ck) ∧ (∀ h ∈ t.hostCopies, h.ctx ≠ ck)
        ∧ (∀ m ∈ t.awlMsgs, m.ctx ≠ ck) ∧ ∀ e ∈ t.tlb, ∀ i ∈ e.froms, i.stage2 = true ∨ i.owner ≠ ck)
      ∧ ∀ i, (∀ a ∈ s.awls, a.2.run = none ∧ a.2.queue = []) → (∀ l ∈ s.launches, l.1 = i → partOfCtx l.2.ctx ≠ fn - 1) → kget t.launches i = kget s.launches i

/-- R14, R16-R18, R28-R30, R33: power, thermal and link events change their own registers and nothing else. -/
def Obligations.PackageEventResults : Prop :=
  ∀ (s : State),
    (∃ t, exec .pwrbrakeAssert s = .next t ∧ t.plat.clock0 = 800 ∧ t.plat.clock1 = 800 ∧ t = { s with plat := { s.plat with pwrbrake := true, clock0 := 800, clock1 := 800 } })
    ∧ (∀ m n, clockLegal m = true → clockLegal n = true → s.plat.pwrbrake = true →
      exec (.pwrbrakeRelease m n) s = .next { s with plat := { s.plat with pwrbrake := false, clock0 := m, clock1 := n } })
    ∧ (∀ m, clockLegal m = true ↔ 800 ≤ m ∧ m ≤ 2100 ∧ ∃ k, m = 25 * k)
    ∧ (∀ m, s.running = true → clockLegal m = true → (s.plat.pwrbrake = true → m = 800) →
      exec (.coreClockChange 0 m) s = .next { s with plat := { s.plat with clock0 := m } } ∧ exec (.coreClockChange 1 m) s = .next { s with plat := { s.plat with clock1 := m } })
    ∧ (∀ m, s.plat.pwrbrake = true → m ≠ 800 → exec (.coreClockChange 0 m) s = .next s ∧ exec (.coreClockChange 1 m) s = .next s)
    ∧ (∀ k, s.running = true → exec (.thermalThrottle 0 k) s = .next { s with plat := { s.plat with clock0 := max 800 (s.plat.clock0 - 25 * k) } }
      ∧ exec (.thermalThrottle 1 k) s = .next { s with plat := { s.plat with clock1 := max 800 (s.plat.clock1 - 25 * k) } })
    ∧ (∀ d < 2, s.plat.powered = true → ∃ t, exec (.thermtrip d) s = .next t ∧ t.running = false ∧ t = { s with plat := { s.plat with thermtrip := true, heldInReset := true } })
    ∧ (∀ w m n, s.running = true → s.plat.powerLimitW < w → clockLegal m = true → clockLegal n = true → m ≤ s.plat.clock0 → n ≤ s.plat.clock1 →
      (m < s.plat.clock0 ∨ n < s.plat.clock1 → exec (.powerLimitExceeded w m n) s = .next { s with plat := { s.plat with clock0 := m, clock1 := n } })
      ∧ (m = s.plat.clock0 → n = s.plat.clock1 → exec (.powerLimitExceeded w m n) s = .next s))
    ∧ (∀ chan seq c, c = ((s.link.d0.replays ++ s.link.d1.replays).filter fun x => (s.plat.bridleCycles - x).toNat ≤ 1500).length →
      s.running = true → s.link.retraining = false → (chan, seq) ∈ s.link.d0.buffer → (s.link.d0.acked[chan]?).getD 0 ≤ seq →
      ∃ t d, exec (.flitCrcFail 0 chan seq) s = .next t ∧ d.buffer = s.link.d0.buffer ∧ d.nextSeq = s.link.d0.nextSeq ∧ d.acked = s.link.d0.acked
        ∧ d.resend = (s.link.d0.resend.filter fun f => f.1 ≠ chan) ++ s.link.d0.buffer.filter (fun f => f.1 = chan && (seq ≤ f.2 || s.link.d0.resend.contains f))
        ∧ (c < 8 → t = { s with link := { s.link with d0 := d } }
          ∧ d.replays.length = (s.link.d0.replays.filter fun x => (s.plat.bridleCycles - x).toNat ≤ 1500).length + 1)
        ∧ (8 ≤ c → d.replays = []
          ∧ t = { s with link := { s.link with retraining := true, d0 := d, d1 := { s.link.d1 with replays := [] } } }))
    ∧ (∀ chan seq, (chan, seq) ∉ s.link.d0.buffer ∨ seq < (s.link.d0.acked[chan]?).getD 0 → exec (.flitCrcFail 0 chan seq) s = .next s)
    ∧ (∀ m n, s.running = true → s.link.retraining = false → ∃ t, exec (.linkRetrain m n) s = .next t ∧ t = { s with link := { s.link with
        retraining := true, d0 := { s.link.d0 with failedLanes := s.link.d0.failedLanes + m, replays := [] }
        d1 := { s.link.d1 with failedLanes := s.link.d1.failedLanes + n, replays := [] } } })
    ∧ (s.running = true → s.link.retraining = true → s.link.fatal = false →
      (∃ t l, exec (.linkRetrainEnd true) s = .next t ∧ t = { s with link := l } ∧ l.retraining = false ∧ l.attempts = 0
        ∧ l.d0.half = decide (4 < s.link.d0.failedLanes ∨ 4 < s.link.d1.failedLanes) ∧ l.d1.half = l.d0.half ∧ l.d0.sparesUsed = min 4 s.link.d0.failedLanes
        ∧ l.d0.resend = s.link.d0.buffer.filter fun f => (s.link.d0.acked[f.1]?).getD 0 ≤ f.2)
      ∧ (s.link.attempts < 2 → exec (.linkRetrainEnd false) s = .next { s with link := { s.link with attempts := s.link.attempts + 1 } })
      ∧ (2 ≤ s.link.attempts → ∃ t, exec (.linkRetrainEnd false) s = .next t ∧ t.link.fatal = true ∧ t.link.retraining = true ∧ Noted s t))
    ∧ ∀ o ≤ 3, ∀ a, s.running = true → (kget s.outs o).isSome → ∃ t v, exec (.hotPlug o a) s = .next t ∧ v = { s with outs := kmod s.outs o fun x => { x with attached := a } }
      ∧ t = v.logNow 0 8 0xFFFF 0 [BitVec.ofNat 8 o]

/-- R85-R87: appending to an event log. A record of the present generation takes its place in the ring, ELWPTR advances and the vector is signalled or
pends; a full log counts a drop, an older generation is discarded, and a log that is off takes nothing. -/
def Obligations.EventLogAppends : Prop :=
  ∀ (s : State) (fn code ctx : Nat) (gen : Word) (tag : DWord) (data : List Byte) (f : Func), kget s.funcs fn = some f → (s.part (partOfFn fn)).paused = false →
    (gen.toNat < f.gen.toNat → s.log fn code ctx gen tag data = { s with funcs := kmod s.funcs 0 fun f => { f with dropgen := satInc f.dropgen } })
    ∧ (f.gen.toNat ≤ gen.toNat → f.elctl.getLsbD 8 = false → s.log fn code ctx gen tag data = s)
    ∧ (f.gen.toNat ≤ gen.toNat → f.elctl.getLsbD 8 = true → 2 ^ (f.elctl.toNat % 32) ≤ (f.elwptr - f.elrptr).toNat →
      s.log fn code ctx gen tag data = { s with funcs := kmod s.funcs fn fun f => { f with elovf := satInc f.elovf, elctl := f.elctl ||| 0x200 } })
    ∧ ∀ pa vec, f.gen.toNat ≤ gen.toNat → f.elctl.getLsbD 8 = true → (f.elwptr - f.elrptr).toNat < 2 ^ (f.elctl.toNat % 32) → data.length ≤ 16 →
      s.logPa fn (f.elbase.toNat + 32 * (f.elwptr.toNat % 2 ^ (f.elctl.toNat % 32))) = some pa →
      (∀ w ∈ s.pendingWrites, w.line ≠ pa / 128 ∧ w.line ≠ (pa + 31) / 128) →
      vec = (if code = 1 then f.elctl.toNat / 2 ^ 10 % 8 else f.elctl.toNat / 2 ^ 13 % 8) →
      ∃ t, s.log fn code ctx gen tag data = t ∧ (t.func fn).elwptr = f.elwptr + 1
        ∧ (∀ a, sget t.mem a = if pa ≤ a ∧ a < pa + 32 then
            ((leBytes 2 code ++ leBytes 2 ctx ++ leBytes 4 gen.toNat ++ leBytes 8 tag.toNat ++ data)[a - pa]?).getD 0 else sget s.mem a)
        ∧ (f.msixMask.getLsbD vec = false → t.irqs = s.irqs ++ [(fn, vec)] ∧ (t.func fn).msixPend = f.msixPend)
        ∧ (f.msixMask.getLsbD vec = true → t.irqs = s.irqs ∧ (t.func fn).msixPend.getLsbD vec = true)
        ∧ t = { s with mem := t.mem, funcs := t.funcs, irqs := t.irqs, groups := t.groups, cores := t.cores, ctxs := t.ctxs, outs := t.outs, lines := t.lines, stalled := t.stalled }
        ∧ Noted s t ∧ ∀ k, kget t.groups k = none ↔ kget s.groups k = none

/-- R22, R23, R38-R45, R66, R83, R84, R211: what the host does through a function's windows: memory accesses, writes and reads of control
registers, doorbells, ATS invalidations and page responses. Where the registers of configuration space stand, and when a read of one is
retried, are the model's choices (logs 14 and 86), as are the DATA of event 0x04 where stage 2 gives no physical address (log 50), what the host reaches
before the firmware is ready (log 69), and that an access waits for a line that an awl holds and for the link (logs 82 and 41). -/
def Obligations.HostAccessResults : Prop :=
  ∀ (s : State) (fn : Nat) (f : Func), kget s.funcs fn = some f →
    let to_ (t : State) (g : Func) : Prop := t = { s with funcs := t.funcs } ∧ t.func fn = g ∧ ∀ j, j ≠ fn → t.func j = s.func j
    (∀ off n a pa, a = f.wbase.toNat + off → s.hostReach fn = true → s.plat.boot = .ready → f.decodeOn = true → f.wen = true → off + n ≤ 2 ^ f.wsize → 1 ≤ n →
      a % 4096 + n ≤ 4096 → a + n ≤ 2 ^ 64 →
      (s.windowPa fn a n false = .ok pa → (s.cut pa n = true → exec (.windowAccess fn off none n) s = .next s)
        ∧ (s.cut pa n = false → exec (.windowAccess fn off none n) s = .next { s with hostCpl := s.hostCpl ++ [.success (bytesAt s.mem pa n)] }))
      ∧ (∀ l k, l.length = n → s.windowPa fn a n true = .ok pa → s.cut pa n = false →
        (∀ w ∈ s.pendingWrites, w.line < pa / 128 ∨ (pa + n - 1) / 128 < w.line) →
        ∃ t, exec (.windowAccess fn off (some l) k) s = .next t ∧ t.hostCpl = s.hostCpl ++ [.success []] ∧ Noted s t
          ∧ ∀ x, sget t.mem x = if pa ≤ x ∧ x < pa + n then (l[x - pa]?).getD 0 else sget s.mem x)
      ∧ (s.windowPa fn a n false = .error pa → ∃ t v, exec (.windowAccess fn off none n) s = .next t ∧ v = s.logNow fn 4 0xFFFF 0 (leBytes 8 pa)
        ∧ t = { v.modFunc fn (fun f => { f with aer := f.aer ||| 0x8000#32 }) with hostCpl := v.hostCpl ++ [.abort] }))
    ∧ (∀ off n, s.hostReach fn = false ∨ s.plat.boot ≠ .ready ∨ f.decodeOn = false ∨ f.wen = false ∨ 2 ^ f.wsize < off + n →
      exec (.windowAccess fn off none n) s = .next { s.modFunc fn (fun f => { f with aer := f.aer ||| 0x100000#32 }) with hostCpl := s.hostCpl ++ [.unsupported] })
    ∧ (s.hostReach fn = true →
      (∀ v, ∃ t, exec (.wctlWrite fn v) s = .next t ∧ to_ t { f with wen := v.getLsbD 0 && (f.wen || decide (f.wbase.toNat % 2 ^ f.wsize = 0)) })
      ∧ (∀ n, 28 ≤ n → n ≤ (if fn = 0 then 37 else 32) → ∃ t, exec (.barResize fn n) s = .next t ∧ to_ t { f with wsizeNext := n, wen := false })
      ∧ (∀ n, n < 28 ∨ (if fn = 0 then 37 else 32) < n → exec (.barResize fn n) s = .next s)
      ∧ (∀ v, ∃ t, exec (.registerWrite fn (if fn = 0 then 0x30000 else 0x2000) v) s = .next t
        ∧ to_ t (if f.wen then f else { f with wbase := pair64 v (hi32 f.wbase) }))
      ∧ (∀ v, ∃ t, exec (.registerWrite fn 0x100 v) s = .next t
        ∧ to_ t (if f.elctl.getLsbD 8 then f else { f with elbase := pair64 (v &&& 0xFFFFF000#32) (hi32 f.elbase) }))
      ∧ (∀ v, ∃ t, exec (.registerWrite fn 0x110 v) s = .next t ∧ to_ t { f with elrptr := v })
      ∧ (∀ off v, off % 4 ≠ 0 → exec (.registerWrite fn off v) s = .next s)
      ∧ (∀ v : Word, ∃ t, exec (.registerWrite fn decodeOffset v) s = .next t
        ∧ to_ t { f with decodeOn := v.getLsbD 1, wsize := if v.getLsbD 1 && !f.decodeOn then f.wsizeNext else f.wsize })
      ∧ (∀ v, ∃ t, exec (.registerWrite fn aerOffset v) s = .next t ∧ to_ t { f with aer := f.aer &&& ~~~v })
      ∧ (fn = 0 → ∀ v : Word, exec (.registerWrite 0 sriovOffset v) s = .next { s with plat := { s.plat with sriov := v.getLsbD 0 } })
      ∧ (∀ v : Word, f.elctl.getLsbD 8 = false → v.getLsbD 8 = true → v.toNat % 32 ∈ List.range' 6 11 → (s.part (partOfFn fn)).paused = false →
        ∃ t g, exec (.elctlWrite fn v) s = .next t ∧ to_ t g ∧ g.elctl.getLsbD 8 = true ∧ g.elctl.toNat % 32 = v.toNat % 32 ∧ g.elwptr = 0 ∧ g.elrptr = 0 ∧ g.elovf = 0)
      ∧ (∀ v : Word, f.elctl.getLsbD 8 = false → v.toNat % 32 ∉ List.range' 6 11 → ∃ t, exec (.elctlWrite fn v) s = .next t ∧ (t.func fn).elctl.getLsbD 8 = false)
      ∧ (∀ v : Word, f.elctl.getLsbD 8 = true → ∃ t g, exec (.elctlWrite fn v) s = .next t ∧ to_ t g ∧ g.elctl.toNat % 32 = f.elctl.toNat % 32
        ∧ g.elctl.getLsbD 8 = v.getLsbD 8 ∧ g.elctl.getLsbD 9 = (f.elctl.getLsbD 9 && !v.getLsbD 9) ∧ g = { f with elctl := g.elctl }))
    ∧ (∀ ctx ck x (q : Queue), ck = ctxKey (partOfFn fn) ctx → kget s.ctxs ck = some x → x.queue = q → s.hostReach fn = true →
      let queue (t : State) (p : Queue) : Prop := t = { s with ctxs := kmod s.ctxs ck fun x => { x with queue := p } }
      (∀ v : Word, v.getLsbD 7 = true → (q.en = true → exec (.qctlEnable fn ctx v) s = .next s ∨ ∃ t, exec (.qctlEnable fn ctx v) s = .next t ∧ queue t q)
        ∧ (q.en = false → v.toNat % 32 ∈ List.range' 6 11 → ∃ t, exec (.qctlEnable fn ctx v) s = .next t ∧ queue t { q with
          en := true, logsz := v.toNat % 32, hostmem := v.getLsbD 6, wptr := 0, rptr := 0, err := 0, halt := false, hold := none, parked := none })
        ∧ (q.en = false → v.toNat % 32 ∉ List.range' 6 11 → ∃ t p, exec (.qctlEnable fn ctx v) s = .next t ∧ queue t p ∧ p.en = false))
      ∧ (∀ v : Word, v.getLsbD 7 = false → ∃ t p, exec (.qctlDisable fn ctx v) s = .next t ∧ queue t p ∧ p.en = false)
      ∧ (∀ v : Word, q.en = true → q.halt = false →
        ((v - q.rptr).toNat ≤ 2 ^ q.logsz → ∃ t, exec (.qwptrWrite fn ctx v) s = .next t ∧ queue t { q with wptr := v })
        ∧ (2 ^ q.logsz < (v - q.rptr).toNat → ∃ t u, exec (.qwptrWrite fn ctx v) s = .next t ∧ queue u { q with halt := true, err := 1 }
          ∧ t = u.logNow fn 3 ctx 0 (leBytes 4 0x101)))
      ∧ (∀ v : Word, q.en = false ∨ q.halt = true → exec (.qwptrWrite fn ctx v) s = .next s)
      ∧ (ctx < 128 → ∀ v : Word, ∃ t, exec (.registerWrite fn ((if fn = 0 then 0x100000 else 0x10000) + 4096 * ctx) v) s = .next t
        ∧ queue t (if q.en then q else { q with base := pair64 (v &&& 0xFFFFF000#32) (hi32 q.base) })))
    ∧ (s.hostReach fn = false → ∀ ctx v, ∀ i ∈ [Instr.wctlWrite fn v, .qctlEnable fn ctx v, .qctlDisable fn ctx v, .qwptrWrite fn ctx v, .elctlWrite fn v],
      exec i s = .next s)
    ∧ (s.running = true → s.plat.boot = .booting → ∀ n v, ∀ i ∈ [Instr.barResize fn n, .registerWrite fn decodeOffset v],
      exec i s = .next { s with hostCpl := s.hostCpl ++ [.retry] })
    ∧ (fn = 0 → s.hostReach 0 = true → (s.mbox.go = false → ∀ v : Word, exec (.registerWrite 0 0x10004 v) s = .next { s with mbox := { s.mbox with go := v.getLsbD 0 } }
        ∧ exec (.registerWrite 0 0x10000 v) s = .next { s with mbox := { s.mbox with req := v } })
      ∧ (s.mbox.go = true → ∀ v : Word, exec (.registerWrite 0 0x10000 v) s = .next s))
    ∧ (s.registerAt fn 0x108 = some f.elctl ∧ s.registerAt fn 0x10C = some f.elwptr ∧ s.registerAt fn 0x114 = some f.elovf ∧ s.registerAt fn 0x118 = some f.gen
      ∧ s.registerAt fn (if fn = 0 then 0x3000C else 0x200C) = some (BitVec.ofNat 32 f.wsize) ∧ s.registerAt 0 0x10020 = some s.mbox.stat
      ∧ s.registerAt 0 0x10024 = some s.mbox.resOut ∧ s.registerAt 0 0x40000 = some 0 ∧ s.registerAt 0 0x40001 = some 0
      ∧ ∀ ctx < 128, ∀ x, kget s.ctxs (ctxKey (partOfFn fn) ctx) = some x → s.registerAt fn ((if fn = 0 then 0x100000 else 0x10000) + 4096 * ctx + 0x14) = some x.queue.rptr
        ∧ s.registerAt fn ((if fn = 0 then 0x100000 else 0x10000) + 4096 * ctx + 0x18) = some (BitVec.ofNat 32 (256 * x.queue.err.toNat + if x.queue.halt then 1 else 0)))
    ∧ (∀ off v rest, s.running = true → s.stalled = false → s.agenda = .registerRead fn off :: rest →
      (s.hostReach fn = true → s.registerAt fn off = some v →
        step s = .next { s with agenda := rest, cur := .none, freeCtr := s.freeCtr + 1, hostCpl := s.hostCpl ++ [.success (leBytes 4 v.toNat)] })
      ∧ (s.hostReach fn = false → ∃ t, step s = .next t ∧ t.agenda = rest
        ∧ t.hostCpl = s.hostCpl ++ [if s.plat.boot = .booting ∧ isConfig off then .retry else if s.plat.boot = .strapError ∧ isConfig off then .retry else .unsupported]))
    ∧ (∀ pasid page, s.hostInFlight pasid page = true → ∀ a, exec (.atsInvalidation pasid page a) s = .next s)
    ∧ (∀ pasid page, s.hostInFlight pasid page = false → (∃ t, exec (.atsInvalidation pasid page true) s = .next t ∧ (pasid, page) ∈ t.hostAbsent ∧ t = { s with hostAbsent := t.hostAbsent })
      ∧ ∃ t, exec (.atsInvalidation pasid page false) s = .next t ∧ (pasid, page) ∉ t.hostAbsent ∧ t = { s with hostAbsent := t.hostAbsent })
    ∧ (∀ pasid page, (pasid, page) ∈ s.hostAbsent → ∃ t, exec (.priResponse pasid page true) s = .next t ∧ (pasid, page) ∉ t.hostAbsent ∧ t.mem = s.mem
      ∧ ∀ gid g b l, kget s.groups gid = some g → kget s.blocks g.block = some b → kget s.launches b.launch = some l → (s.ctx l.ctx).pasid.toNat = pasid →
        g.waitFor = .page → g.parkIpa = none → g.trap.addr.toNat / 4096 = page →
        kget t.groups gid = some { g with wait := 0, waitFor := .nothing, resumed := g.resumed || g.rep.isSome, counted := false, replays := g.replay.isSome })
    ∧ (∀ pasid page, (pasid, page) ∈ s.hostAbsent → s.blocks = [] → s.hostCopies = [] → ∃ t, exec (.priResponse pasid page false) s = .next t
      ∧ t.hostAbsent = s.hostAbsent ∧ ∀ ck x a, kget s.ctxs ck = some x → x.pasid.toNat = pasid → x.queue.parked = some a → a.toNat / 4096 = page →
        (t.ctx ck).queue.halt = true ∧ (t.ctx ck).queue.err = 3 ∧ (t.ctx ck).queue.parked = none)
    ∧ ∀ pasid page ok, (pasid, page) ∉ s.hostAbsent → exec (.priResponse pasid page ok) s = .next s

/-- R34, R57-R67, R75, R209, R212-R214, R291, R292: the requests of the management mailbox. A request completes with its status and result, clears GO
and signals vector 9 of PF0. The order of FWSTAGE's checks, and which area it writes after a recovery, are log 41 (the model's). -/
def Obligations.MailboxRequestResults : Prop :=
  ∀ (s : State) (l : List Byte), s.running = true → s.plat.boot = .ready → s.mbox.go = true → s.mailArg = some l →
    let nv := s.plat.straps.novendor
    let asks (n : Nat) : Prop := s.mbox.req = BitVec.ofNat 32 n
    let keys (n : Nat) : Prop := s.mbox.req = BitVec.ofNat 32 n ∧ s.sec.session = true
    (∀ (u : State) st res, (u.mailDone st res).mbox = { u.mbox with go := false, stat := BitVec.ofNat 32 st, resOut := BitVec.ofNat 32 res.length }
      ∧ (u.mailDone st res).mem = u.mem ∧ Noted u (u.mailDone st res) ∧ (u.mailDone st res).sec = u.sec
      ∧ ((u.func 0).msixMask.getLsbD 9 = false → (u.mailDone st res).irqs = u.irqs ++ [(0, 9)])
      ∧ ∀ a, sget (u.mailDone st res).hostMem a = if hostKey busPasid u.mbox.res.toNat ≤ a ∧ a < hostKey busPasid u.mbox.res.toNat + min res.length u.mbox.resLen.toNat
        then (res[a - hostKey busPasid u.mbox.res.toNat]?).getD 0 else sget u.hostMem a)
    ∧ (∀ row ∈ ([(0x02, .enroll), (0x03, .revoke), (0x04, .vendoroff), (0x05, .svnset)] : List (Nat × Instr)), asks row.1 → s.sec.session = false →
      exec row.2 s = .next (s.mailDone 0x10 []))
    ∧ (asks 0x01 → s.busOk s.mbox.res (min 48 s.mbox.resLen.toNat) = true → ∃ n : BitVec 384, exec .nonce s =
      .next (({ s with freeCtr := s.freeCtr + 12, sec := { s.sec with nonce := some n } } : State).mailDone 0 (leBytes 48 n.toNat)))
    ∧ (keys 0x02 → 17056 ≤ l.length → ∀ n, n = field l 0 4 →
      (zeroAt l 4 12 = false → exec .enroll s = .next (s.mailDone 5 []))
      ∧ (zeroAt l 4 12 = true → n = 0 ∨ 3 < n ∨ (s.sec.slot n).enrolled = true ∨ (s.sec.slot n).revoked = true → exec .enroll s = .next (s.mailDone 4 []))
      ∧ (zeroAt l 4 12 = true → 1 ≤ n → n ≤ 3 → (s.sec.slot n).enrolled = false → (s.sec.slot n).revoked = false → enrollVerifies s.sec l = false →
        exec .enroll s = .next (s.mailDone 0x11 []))
      ∧ (zeroAt l 4 12 = true → 1 ≤ n → n ≤ 3 → (s.sec.slot n).enrolled = false → (s.sec.slot n).revoked = false → enrollVerifies s.sec l = true →
        ∃ k : KeySlot, k = { digest := Config.sha384 ((l.drop 16).take 384 ++ (l.drop 400).take 48), enrolled := true }
          ∧ exec .enroll s = .next (({ s with sec := s.sec.setSlot n k } : State).mailDone 0 [])))
    ∧ (keys 0x03 → 4 ≤ l.length → ∀ n c, n = field l 0 4 → c = s.sec.setSlot n { s.sec.slot n with revoked := true } →
      (3 < n ∨ c.bootable nv = false → exec .revoke s = .next (s.mailDone 4 []))
      ∧ (n ≤ 3 → c.bootable nv = true → exec .revoke s = .next (({ s with sec := c } : State).mailDone 0 [])))
    ∧ (keys 0x04 → ∀ c, c = { s.sec with vendorOff := true } → (c.bootable nv = false → exec .vendoroff s = .next (s.mailDone 4 []))
      ∧ (c.bootable nv = true → exec .vendoroff s = .next (({ s with sec := c } : State).mailDone 0 [])))
    ∧ (keys 0x05 → 4 ≤ l.length → ∀ c, c = { s.sec with minSvn := field l 0 4 } →
      (64 < field l 0 4 ∨ field l 0 4 < s.sec.minSvn ∨ c.bootable nv = false → exec .svnset s = .next (s.mailDone 4 []))
      ∧ (field l 0 4 ≤ 64 → s.sec.minSvn ≤ field l 0 4 → c.bootable nv = true → exec .svnset s = .next (({ s with sec := c } : State).mailDone 0 [])))
    ∧ (asks 0x06 → exec .seal s = .next (({ s with sec := { s.sec with session := false } } : State).mailDone 0 []))
    ∧ (asks 0x07 → ∀ legal unused : Prop, legal = (imageInRange l = true ∧ ∀ g ∈ imageSigList l, field g 0 4 ≤ 3) →
      unused = (zeroAt l 84 44 = true ∧ ∀ g ∈ imageSigList l, zeroAt g 4 12 = true) →
      (¬legal → exec .fwstage s = .next (s.mailDone 4 []))
      ∧ (legal → ¬unused → exec .fwstage s = .next (s.mailDone 5 []))
      ∧ (legal → unused → s.sec.verify nv l = none → exec .fwstage s = .next (s.mailDone 0x11 []))
      ∧ (legal → unused → s.sec.verify nv l ≠ none → s.sec.runningB = some false → ∃ t, exec .fwstage s = .next t ∧ t.sec = { s.sec with flashB := l, selector := 0x0B } ∧ t.mbox.stat = 0)
      ∧ (legal → unused → s.sec.verify nv l ≠ none → s.sec.runningB = some true → ∃ t v, exec .fwstage s = .next t ∧ v ≠ 0x0B ∧ t.sec = { s.sec with flashA := l, selector := v } ∧ t.mbox.stat = 0))
    ∧ (asks 0x10 → 16 ≤ l.length → s.inFlight (fun ck => partOfCtx ck = field l 0 4) = false → ∀ p root, p = field l 0 4 → root = field l 8 8 → zeroAt l 4 4 = true →
      (24 ≤ p ∨ root % 4096 ≠ 0 ∨ 2 ^ 46 ≤ root → exec .s2root s = .next (s.mailDone 4 []))
      ∧ (p < 24 → root % 4096 = 0 → root < 2 ^ 46 → (kget s.parts p).isSome → ∃ t, exec .s2root s = .next t ∧ (t.part p).s2root = some (BitVec.ofNat 64 root) ∧ t.mem = s.mem
        ∧ (∀ q, q ≠ p → t.part q = s.part q) ∧ (∀ e ∈ t.tlb, ∀ i ∈ e.froms, i.stage2 = true → i.owner ≠ p) ∧ t.mbox.stat = 0))
    ∧ (asks 0x11 → 16 ≤ l.length → s.inFlight (fun ck => partOfCtx ck = field l 0 4) = false → field l 0 4 < 24 → field l 8 8 % 4096 = 0 →
      ∃ t, exec .s2inval s = .next t ∧ t.mbox.stat = 0 ∧ t.mem = s.mem ∧ t.parts = s.parts ∧ (∀ e ∈ t.tlb, e ∈ s.tlb)
        ∧ (field l 4 4 = 0 → ∀ e ∈ t.tlb, ∀ i ∈ e.froms, i.stage2 = true → i.owner ≠ field l 0 4))
    ∧ (∀ frame owner, asks 0x12 → 16 ≤ l.length → s.inFlight (fun _ => true) = false → field l 0 8 = 65536 * frame → field l 8 4 = 1 → owner = field l 12 1 → field l 13 1 = 0 →
      zeroAt l 14 2 = true →
      (owner = 31 ∨ owner < 24 → s.backed (65536 * frame) = true → s.inFot (65536 * frame) = false → frame ∉ s.retiredFrames →
        (fotOwner (s.fotEntry frame) = owner ∨ s.framesOf owner + 1 ≤ (s.part owner).memquota.toNat) → ∃ t, exec .fotset s = .next t ∧ t.mbox.stat = 0
        ∧ fotOwner (t.fotEntry frame) = owner ∧ (t.fotEntry frame).getLsbD 5 = false ∧ (t.fotEntry frame).getLsbD 6 = false
        ∧ (∀ g, g ≠ frame → t.fotEntry g = s.fotEntry g) ∧ (∀ a, a / 65536 ≠ frame → sget t.mem a = sget s.mem a)
        ∧ (fotOwner (s.fotEntry frame) ≠ owner → ∀ a, a / 65536 = frame → sget t.mem a = 0)
        ∧ (fotOwner (s.fotEntry frame) = owner → t.mem = s.mem))
      ∧ (fotOwner (s.fotEntry frame) ≠ owner → (s.part owner).memquota.toNat < s.framesOf owner + 1 → exec .fotset s = .next (s.mailDone 4 [])))
    ∧ (∀ rs, asks 0x13 → 8 ≤ l.length → rs = (s.errTable.filter fun r => field l 0 4 ≤ r.number).take (field l 4 4) →
      s.busOk s.mbox.res (min (8 + 32 * rs.length) s.mbox.resLen.toNat) = true →
      exec .errread s = .next (s.mailDone 0 (leBytes 4 rs.length ++ [0, 0, 0, 0] ++ rs.flatMap ErrRec.bytes)))
    ∧ (∀ n c tr, asks 0x20 → 64 ≤ l.length → n = field l 0 1 → c = outCfgOf l → field l 1 1 < 32 → zeroAt l 31 1 = true → zeroAt l 48 16 = true →
      (3 < n ∨ outCfgOk n c = false → exec (.outset tr) s = .next (s.mailDone 4 []))
      ∧ (n ≤ 3 → outCfgOk n c = true → tr = false → exec (.outset tr) s = .next (s.mailDone 0x12 []))
      ∧ (n ≤ 3 → outCfgOk n c = true → tr = true → (kget s.outs n).isSome → ∃ t, exec (.outset tr) s = .next t ∧ t.mbox.stat = 0
        ∧ t.out n = { s.out n with pending := some c } ∧ ∀ m, m ≠ n → t.out m = s.out m))
    ∧ ((∀ c ∈ [0x01, 0x02, 0x03, 0x04, 0x05, 0x06, 0x07, 0x10, 0x11, 0x12, 0x13, 0x20], s.mbox.req.toNat ≠ c) → exec .unknownMailboxRequest s = .next (s.mailDone 1 []))

/-- R68-R70: the SPDM responder. The codes and layouts of its messages are SPDM 1.2's (log 38, the model's: the manual names them only). A response
joins the transcript, and a request out of order or too short is an error. -/
def Obligations.SpdmResponseResults : Prop :=
  ∀ (s : State) (req : List Byte), s.running = true → s.plat.boot = .ready →
    let code (n : Nat) : Prop := field req 1 1 = n ∧ field req 0 1 = if n = 0x84 then 0x10 else 0x12
    let gives (u : State) (i : Instr) (p : Spdm) (rsp : List Byte) : Prop :=
      exec i s = .next { u with spdm := { p with response := rsp, transcript := p.transcript ++ req ++ rsp } }
    (code 0x84 → 4 ≤ req.length → gives s (.getVersion req) { version := true } [0x10, 0x04, 0, 0, 0, 1, 0x00, 0x12])
    ∧ (code 0xE1 → 4 ≤ req.length → s.spdm.version = true → s.spdm.caps = false → ∃ rsp, rsp[1]? = some 0x61 ∧ gives s (.getCapabilities req) { s.spdm with caps := true } rsp)
    ∧ (code 0xE3 → 16 ≤ req.length → s.spdm.caps = true → s.spdm.algs = false → field req 8 4 / 4 % 2 = 1 → field req 12 4 / 2 % 2 = 1 →
      ∃ rsp, rsp[1]? = some 0x63 ∧ field rsp 12 4 = 4 ∧ field rsp 16 4 = 2 ∧ gives s (.negotiateAlgorithms req) { s.spdm with algs := true } rsp)
    ∧ (s.spdm.algs = true →
      (code 0x81 → 4 ≤ req.length → gives s (.getDigests req) s.spdm ([0x12, 0x01, 0, 1] ++ digestBytes (Config.sha384 Config.certChain)))
      ∧ (∀ off part, code 0x82 → 8 ≤ req.length → field req 2 1 = 0 → off = field req 4 2 → off < Config.certChain.length →
        part = (Config.certChain.drop off).take (field req 6 2) →
        gives s (.getCertificate req) s.spdm ([0x12, 0x02, 0, 0] ++ leBytes 2 part.length ++ leBytes 2 (Config.certChain.length - off - part.length) ++ part))
      ∧ (code 0x83 → 36 ≤ req.length → field req 2 1 = 0 → field req 3 1 = 0 → ∃ u rsp nonce, u = { s with freeCtr := u.freeCtr } ∧ nonce.length = 32
        ∧ rsp = [0x12, 0x03, 0, 1] ++ digestBytes (Config.sha384 Config.certChain) ++ nonce
        ∧ gives u (.challenge req) s.spdm (rsp ++ signed (s.spdm.transcript ++ req ++ rsp)))
      ∧ (code 0xE0 → 4 ≤ req.length → field req 2 1 % 2 = 0 → ∀ op ∈ [1, 2, 3, 4, 5, 6, 7], field req 3 1 = op → ∃ u nonce, u = { s with freeCtr := u.freeCtr } ∧ nonce.length = 32
        ∧ gives u (.getMeasurements req) s.spdm ([0x12, 0x60, 0, 0, 1] ++ leBytes 3 (s.measurementBlock op).length ++ s.measurementBlock op ++ nonce ++ [0, 0])))
    ∧ ((s.measurement 1).2 = digestBytes (Config.sha384 Config.bootRom) ∧ (s.measurement 2).2 = digestBytes s.sec.runningDigest
      ∧ (s.measurement 3).2 = leBytes 4 s.sec.runningSlot ++ digestBytes s.sec.slotDigest ∧ (s.measurement 4).2 = s.sec.bootFuses)
    ∧ (∀ row ∈ ([(0x84, 4, .getVersion req), (0xE1, 4, .getCapabilities req), (0xE3, 16, .negotiateAlgorithms req), (0x81, 4, .getDigests req),
        (0x82, 8, .getCertificate req), (0x83, 36, .challenge req)] : List (Nat × Nat × Instr)), code row.1 → req.length < row.2.1 →
      exec row.2.2 s = .next { s with spdm := { s.spdm with response := [0x12, 0x7F, 0x01, 0x00] } })
    ∧ (∀ row ∈ ([(0x84, 0x10, .getVersion req), (0xE1, 0x12, .getCapabilities req), (0xE3, 0x12, .negotiateAlgorithms req), (0x81, 0x12, .getDigests req),
        (0x82, 0x12, .getCertificate req), (0x83, 0x12, .challenge req), (0xE0, 0x12, .getMeasurements req)] : List (Nat × Nat × Instr)),
      (field req 1 1 = row.1 → field req 0 1 ≠ row.2.1 → exec row.2.2 s = .next { s with spdm := { s.spdm with response := [0x12, 0x7F, 0x41, 0x00] } })
      ∧ (field req 1 1 ∉ [0x84, 0xE1, 0xE3, 0x81, 0x82, 0x83, 0xE0] → exec row.2.2 s = .next { s with spdm := { s.spdm with response := [0x12, 0x7F, 0x07, 0x00] } }))
    ∧ (s.spdm.algs = false → ∀ row ∈ ([(0x81, .getDigests req), (0x82, .getCertificate req), (0x83, .challenge req), (0xE0, .getMeasurements req)] : List (Nat × Instr)),
      code row.1 → 37 ≤ req.length → exec row.2 s = .next { s with spdm := { s.spdm with response := [0x12, 0x7F, 0x04, 0x00] } })

/-- R43-R51, R115, R116: fetching a command, the order of its checks, NOP, an unknown opcode and LAUNCH. That the reserved
header is checked ahead of COUNT, and status 4 for a wrong COUNT, are the model's inference (log 71), and which cause a LAUNCH with several gets is its
choice (log 97). -/
def Obligations.CommandQueueResults : Prop :=
  ∀ (s : State) (fn num : Nat),
    (∀ (v : State) (c : Cmd) st more, v.done c = (if c.wants then v.log c.fn 1 c.num c.gen c.tag [] else v)
      ∧ v.refuse c st more = v.log c.fn 2 c.num c.gen c.tag (BitVec.ofNat 8 st :: more))
    ∧ (∀ ck x (q : Queue) h, ck = ctxKey (partOfFn fn) num → kget s.ctxs ck = some x → x.queue = q → s.fetches fn ck = true → s.mayVisit fn num = true → q.hostmem = true →
      (x.pasid.toNat, (q.base + BitVec.ofNat 64 (64 * (q.rptr.toNat % 2 ^ q.logsz))).toNat / 4096) ∉ s.hostAbsent →
      h = bytesAt s.hostMem (hostKey x.pasid.toNat (q.base + BitVec.ofNat 64 (64 * (q.rptr.toNat % 2 ^ q.logsz))).toNat) 64 →
      (field h 2 1 = 1 → s.headCmd fn num = (s.visit fn num, some { fn := fn, num := num, ck := ck, bytes := h, seq := q.seq, gen := (s.func fn).gen }))
      ∧ (field h 2 1 = 0 ∨ 4 < field h 2 1 ∨ (q.wptr - q.rptr).toNat < field h 2 1 → ∃ t u, exec (.cmdNop fn num) s = .next t
        ∧ u = { s.visit fn num with ctxs := kmod s.ctxs ck fun x => { x with queue := { x.queue with halt := true, err := 2 } } }
        ∧ t = u.logNow fn 3 num 0 (leBytes 4 0x201)))
    ∧ (s.fetches fn (ctxKey (partOfFn fn) num) = false ∨ s.mayVisit fn num = false → s.headCmd fn num = (s, none))
    ∧ (∀ p, kget s.parts (partOfFn fn) = some p → (s.mayVisit fn num = true ↔ (num = p.serving ∧ p.taken < 16)
        ∨ ∀ e ∈ s.ctxs, partOfCtx e.1 = partOfFn fn → s.fetches fn e.1 = true → (num + 255 - p.serving % 256) % 256 ≤ (numOfCtx e.1 + 255 - p.serving % 256) % 256)
      ∧ ∃ t, t = s.visit fn num ∧ t = { s with parts := t.parts } ∧ (∀ j, j ≠ partOfFn fn → kget t.parts j = kget s.parts j)
        ∧ kget t.parts (partOfFn fn) = some (if num = p.serving ∧ p.taken < 16 then p else { p with serving := num, taken := 0 }))
    ∧ (∀ ck x (q : Queue), ck = ctxKey (partOfFn fn) num → kget s.ctxs ck = some x → x.queue = q → s.fetches fn ck = true → s.mayVisit fn num = true → q.hostmem = true →
      ∀ va, va = q.base + BitVec.ofNat 64 (64 * (q.rptr.toNat % 2 ^ q.logsz)) → (x.pasid.toNat, va.toNat / 4096) ∈ s.hostAbsent →
      exec (.cmdNop fn num) s = .next { s.visit fn num with ctxs := kmod s.ctxs ck fun x => { x with queue := { x.queue with parked := some va } } })
    ∧ (∀ (u : State) (c : Cmd), Heads s u fn num 0 c.count none c → exec (.cmdNop fn num) s = .next ((offQueue u c).done c))
    ∧ (∀ (u : State) (c : Cmd), s.headCmd fn num = (u, some c) → 0x0C < c.opc → exec (.unknownCommand fn num) s = .next ((offQueue u c).refuse c 1 []))
    ∧ (∀ (u : State) (c : Cmd), s.headCmd fn num = (u, some c) → s.inFlight (fun k => k = ctxKey (partOfFn fn) num) = false →
      (s.queue (ctxKey (partOfFn fn) num)).readySignal = none → (s.queue (ctxKey (partOfFn fn) num)).hold = none →
      ∀ row ∈ ([(0x01, 1, 0, .cmdLaunch fn num), (0x02, 1, 1, .copy fn num), (0x03, 1, 2, .fenceWait fn num), (0x04, 1, 2, .fenceSignal fn num),
          (0x05, 1, 3, if c.at 25 1 = 1 then .presentCapture fn num else .presentShow fn num), (0x06, 1, 4, .inval fn num),
          (0x09, 2, 6, match c.at 16 1 with | 1 => .grantChange fn num | 2 => .grantWithdraw fn num | _ => .grantCreate fn num),
          (0x0A, 2, 6, match c.at 16 1 with | 1 => .ownmapBlocks fn num | 2 => .ownmapAssign fn num | 3 => .ownmapRegion fn num | _ => .ownmapTiles fn num)] :
            List (Nat × Nat × Nat × Instr)), c.opc = row.1 →
        (u.allowed c.ck (some row.2.2.1) = false → exec row.2.2.2 s = .next ((offQueue u c).refuse c 2 []))
        ∧ (u.allowed c.ck (some row.2.2.1) = true → 2 ≤ c.at 1 1 ∨ zeroAt c.bytes 3 5 = false → exec row.2.2.2 s = .next ((offQueue u c).refuse c 5 []))
        ∧ (u.allowed c.ck (some row.2.2.1) = true → c.at 1 1 < 2 → zeroAt c.bytes 3 5 = true → c.count ≠ row.2.1 → exec row.2.2.2 s = .next ((offQueue u c).refuse c 4 [])))
    ∧ ∀ (u w : State) (c : Cmd), Heads s u fn num 1 1 (some 0) c → zeroAt c.bytes 24 40 = true →
      (∀ n, (offQueue u c).checkLaunch c.ck c.tag true 0 (c.addr 16) = (w, .refuse n) → exec (.cmdLaunch fn num) s = .next (w.refuse c 4 [BitVec.ofNat 8 n]))
      ∧ (∀ g, (offQueue u c).checkLaunch c.ck c.tag true 0 (c.addr 16) = (w, .stop g) → exec (.cmdLaunch fn num) s = .next (w.refuse c 3 []))
      ∧ ∀ r kind, (offQueue u c).checkLaunch c.ck c.tag true 0 (c.addr 16) = (w, .accept r kind) →
        (w.queueFull r.die c.part = true → exec (.cmdLaunch fn num) s = .next (w.refuse c 4 [6]))
        ∧ (w.queueFull r.die c.part = false → w.reserveKind c.part r.die kind = none → exec (.cmdLaunch fn num) s = .next (w.refuse c 4 [5]))
        ∧ (∀ k, w.queueFull r.die c.part = false → w.reserveKind c.part r.die kind = some k → ∃ t, ∃ l : Launch, exec (.cmdLaunch fn num) s = .next t
          ∧ l.recd = r ∧ l.recAddr = c.addr 16 ∧ l.ctx = c.ck ∧ l.home = r.die ∧ l.depth = 0 ∧ l.parent = none ∧ l.host = some c.seq ∧ l.next = 0 ∧ l.kind = k
          ∧ l.stamp = (w.ctx c.ck).frame ∧ (l.blocksLeft = true → t = { started w c with nextId := w.nextId + 1, launches := kset w.launches w.nextId l }))

/-- R52, R53: COPY, FENCE_WAIT and FENCE_SIGNAL, with a host fence's value read and written at its address. That COPY is checked
at the first address of each range (log 84) and that a FENCE_SIGNAL holds no later command (log 70) are the model's inferences, and that a transfer waits
for a line that an awl holds and for the link is logs 82 and 41. -/
def Obligations.CopyAndFenceCommandResults : Prop :=
  ∀ (s u : State) (fn num : Nat) (c : Cmd) (v : State), v = offQueue u c →
    (Heads s u fn num 2 1 (some 1) c → c.at 40 1 < 4 → zeroAt c.bytes 41 23 = true → ∀ n fl, n = c.at 32 8 → fl = c.at 40 1 →
      (n = 0 ∨ 2 ^ 40 < n → exec (.copy fn num) s = .next (v.refuse c 4 []))
      ∧ (1 ≤ n → n ≤ 2 ^ 40 → hostRangeOk v c.ck (fl % 2 = 1) (c.addr 16) .read = false ∨ hostRangeOk v c.ck (fl / 2 = 1) (c.addr 24) .write = false →
        exec (.copy fn num) s = .next (v.refuse c 3 []))
      ∧ (1 ≤ n → n ≤ 2 ^ 40 → hostRangeOk v c.ck (fl % 2 = 1) (c.addr 16) .read = true → hostRangeOk v c.ck (fl / 2 = 1) (c.addr 24) .write = true →
        ∃ h : HostCopy, h = { id := u.nextId, ctx := c.ck, src := c.addr 16, dst := c.addr 24, bytes := n, srcHost := fl % 2 = 1, dstHost := fl / 2 = 1, seq := c.seq }
          ∧ exec (.copy fn num) s = .next { started v c with nextId := u.nextId + 1, hostCopies := u.hostCopies ++ [h] }))
    ∧ (∀ (h : HostCopy) pa unc, s.hostCopies.find? (fun x => x.id = h.id) = some h → h.srcHost = true → h.dstHost = false → 1 ≤ h.bytes →
      h.src.toNat % 4096 + h.bytes ≤ 4096 → h.dst.toNat % 4096 + h.bytes ≤ 4096 →
      ((s.pasidOf h.ctx, h.src.toNat / 4096) ∈ s.hostAbsent → exec (.hostCopyComplete h.id) s = .next s)
      ∧ ((s.pasidOf h.ctx, h.src.toNat / 4096) ∉ s.hostAbsent → (s.access s.freeCtr h.ctx h.dst .write).1 = .dev pa unc →
        s.firstPoison pa h.bytes = none → s.cut pa h.bytes = false → (∀ w ∈ s.pendingWrites, w.line < pa / 128 ∨ (pa + h.bytes - 1) / 128 < w.line) →
        (s.part (partOfCtx h.ctx)).pausing = false → (∀ o ∈ (s.queue h.ctx).opened, o.seq = h.seq → o.complete = false) →
        ∃ t, exec (.hostCopyComplete h.id) s = .next t ∧ t.hostCopies = s.hostCopies.filter (fun x => x.id ≠ h.id)
          ∧ (∀ o ∈ (t.queue h.ctx).opened, o.seq ≠ h.seq) ∧ t.hostMem = s.hostMem
          ∧ ∀ a, sget t.mem a = if pa ≤ a ∧ a < pa + h.bytes then sget s.hostMem (hostKey (s.pasidOf h.ctx) h.src.toNat + (a - pa)) else sget s.mem a))
    ∧ (Heads s u fn num 3 1 (some 2) c → c.at 32 1 = 1 → zeroAt c.bytes 33 31 = true → ∀ w, w = word64 (bytesAt u.hostMem (hostKey (u.pasidOf c.ck) (c.addr 16).toNat) 8) →
      (c.at 16 8 % 8 ≠ 0 → exec (.fenceWait fn num) s = .next (v.refuse c 4 []))
      ∧ (c.at 16 8 % 8 = 0 → (u.pasidOf c.ck, (c.addr 16).toNat / 4096) ∉ u.hostAbsent → w.toNat < (c.addr 24).toNat →
        exec (.fenceWait fn num) s = .next { started v c with ctxs := kmod (started v c).ctxs c.ck fun x =>
          { x with queue := { x.queue with hold := some (.wait (c.addr 16) (c.addr 24) true c.seq) } } })
      ∧ (c.at 16 8 % 8 = 0 → (u.pasidOf c.ck, (c.addr 16).toNat / 4096) ∉ u.hostAbsent → (c.addr 24).toNat ≤ w.toNat → ∃ t, exec (.fenceWait fn num) s = .next t
        ∧ (t.queue c.ck).hold = none ∧ (t.queue c.ck).opened = (u.queue c.ck).opened.filter (fun o => o.seq ≠ c.seq) ∧ (t.queue c.ck).rptr = (u.queue c.ck).rptr + 1))
    ∧ (∀ ck a b host seq (w : DWord), ck = ctxKey (partOfFn fn) num → (s.queue ck).hold = some (.wait a b host seq) → s.fenceRead ck host a = .value w →
      s.running = true → (s.queue ck).en = true → (s.part (partOfFn fn)).paused = false →
      (w.toNat < b.toNat → exec (.fenceWaitRecheck fn num) s = .next s)
      ∧ (b.toNat ≤ w.toNat → ∃ t, exec (.fenceWaitRecheck fn num) s = .next t ∧ (t.queue ck).hold = none
        ∧ (t.queue ck).opened = (s.queue ck).opened.filter (fun o => o.seq ≠ seq)))
    ∧ (Heads s u fn num 4 1 (some 2) c → c.at 32 1 = 1 → zeroAt c.bytes 33 31 = true → (s.queue (ctxKey (partOfFn fn) num)).signals = [] →
      (u.queue c.ck).signals = [] → c.at 16 8 % 8 = 0 → (∀ o ∈ (u.queue c.ck).opened, o.seq ≠ c.seq) →
      ((∃ o ∈ (u.queue c.ck).opened, o.seq < c.seq) → exec (.fenceSignal fn num) s = .next { started v c with ctxs := kmod (started v c).ctxs c.ck fun x =>
        { x with queue := { x.queue with signals := [{ addr := c.addr 16, value := c.addr 24, host := true, seq := c.seq }] } } })
      ∧ ((∀ o ∈ (u.queue c.ck).opened, c.seq ≤ o.seq) → (u.pasidOf c.ck, (c.addr 16).toNat / 4096) ∉ u.hostAbsent → ∃ t, exec (.fenceSignal fn num) s = .next t
        ∧ (t.queue c.ck).signals = [] ∧ (t.queue c.ck).opened = (u.queue c.ck).opened ∧ (∀ x, sget t.hostMem x =
          if hostKey (u.pasidOf c.ck) (c.addr 16).toNat ≤ x ∧ x < hostKey (u.pasidOf c.ck) (c.addr 16).toNat + 8 then
            (c.addr 24).extractLsb' (8 * (x - hostKey (u.pasidOf c.ck) (c.addr 16).toNat)) 8 else sget u.hostMem x)))

/-- R208, R209, R211, R237, R242, R243: INVAL, RES_FENCE and AWL_REG, once nothing that used an old entry is under way (log 5). -/
def Obligations.InvalidationAndAwlCommandResults : Prop :=
  ∀ (s u : State) (fn num : Nat) (c : Cmd) (v : State), v = offQueue u c → s.inFlight (fun k => k = ctxKey (partOfFn fn) num) = false →
    (Heads s u fn num 6 1 (some 4) c → zeroAt c.bytes 28 36 = true →
      ((c.addr 16).toNat % 4096 ≠ 0 → exec (.inval fn num) s = .next (v.refuse c 4 []))
      ∧ ((c.addr 16).toNat % 4096 = 0 → ∃ w : State, exec (.inval fn num) s = .next (w.done c) ∧ w.mem = u.mem
        ∧ (∀ e, e ∈ w.tlb ↔ e ∈ u.tlb ∧ ∀ i ∈ e.froms, i.covered false c.ck (c.addr 16).toNat (c.at 24 4) = false)
        ∧ (c.at 24 4 = 0 → ∀ e ∈ w.tlb, ∀ i ∈ e.froms, i.stage2 = true ∨ i.owner ≠ c.ck)
        ∧ ∀ gid g b l, kget u.groups gid = some g → kget u.blocks g.block = some b → kget u.launches b.launch = some l → l.ctx = c.ck → g.waitFor = .page →
          (c.at 24 4 = 0 ∨ (g.trap.addr - c.addr 16).toNat < 4096 * c.at 24 4) →
          kget w.groups gid = some { g with wait := 0, waitFor := .nothing, parkIpa := none, resumed := g.resumed || g.rep.isSome, counted := false, replays := g.replay.isSome }))
    ∧ (Heads s u fn num 7 1 (some 4) c → zeroAt c.bytes 24 40 = true → s.lodCopies (ctxKey (partOfFn fn) num) (c.addr 16) = false →
      ((c.addr 16).toNat % 64 ≠ 0 → exec (.resFence fn num) s = .next (v.refuse c 4 []))
      ∧ ((c.addr 16).toNat % 64 = 0 → v.operandOk c.ck (c.addr 16) .read = false → exec (.resFence fn num) s = .next (v.refuse c 3 []))
      ∧ (∀ w l, (c.addr 16).toNat % 64 = 0 → v.operandOk c.ck (c.addr 16) .read = true → v.readVirt c.ck none (c.addr 16) 320 = (w, .bytes l) →
        ∃ t : State, exec (.resFence fn num) s = .next (t.done c) ∧ t.mem = v.mem ∧ t.blocks = v.blocks ∧ t.launches = v.launches
          ∧ (∀ i k, kget v.cores i = some k → ∃ q, kget t.cores i = some ({ k with copyq := q }.forget c.ck (c.addr 16) l))
          ∧ ∀ i g, kget v.groups i = some g → ∃ o, kget t.groups i = some { g with unfenced := o } ∧ (∀ x ∈ o, x ∈ g.unfenced)
            ∧ ∀ b l', kget v.blocks g.block = some b → kget v.launches b.launch = some l' → partOfCtx l'.ctx = partOfFn fn →
              ∀ x ∈ o, x.1 % tagUnit ∉ w.sectorKeys c.ck (c.addr 16) 320))
    ∧ (Heads s u fn num 8 2 (some 5) c → awlReserved c = true →
      (c.at 16 1 = 0 → awlRangeOk c (u.ctx c.ck) = false → exec (.awlRegRegister fn num) s = .next (v.refuse c 4 []))
      ∧ (2 ≤ c.at 16 1 → exec (.awlRegRegister fn num) s = .next (v.refuse c 4 []))
      ∧ (c.at 16 1 = 0 → awlRangeOk c (u.ctx c.ck) = true → v.deviceOk c.ck (c.addr 56) .atomic false = false → exec (.awlRegRegister fn num) s = .next (v.refuse c 3 []))
      ∧ (∀ w l, c.at 16 1 = 0 → awlRangeOk c (u.ctx c.ck) = true → v.deviceOk c.ck (c.addr 56) .atomic false = true → v.readVirt c.ck (some c.tag) (c.addr 40) (c.at 48 4) = (w, .bytes l) →
        ∃ x : Window, x = { triggers := BitVec.ofNat 4 (c.at 18 1), budget := c.at 20 2, vbase := c.addr 24, vsize := c.at 32 8, image := l, logaddr := c.addr 56 }
          ∧ exec (.awlRegRegister fn num) s = .next (({ w with ctxs := kmod w.ctxs c.ck fun y => { y with windows := kset y.windows (c.at 17 1) x } } : State).done c))
      ∧ (c.at 16 1 = 1 → (∀ e ∈ s.awls, ∀ r, e.2.run = some r → r.ev.ctx ≠ c.ck) →
        ((7 < c.at 17 1 ∨ kget (u.ctx c.ck).windows (c.at 17 1) = none) → exec (.awlRegRemove fn num) s = .next (v.refuse c 4 []))
        ∧ (c.at 17 1 ≤ 7 → (kget (u.ctx c.ck).windows (c.at 17 1)).isSome →
          ∃ m, exec (.awlRegRemove fn num) s = .next (({ v with ctxs := kmod v.ctxs c.ck fun y => { y with windows := kdel y.windows (c.at 17 1) }, lines := m } : State).done c)
            ∧ ∀ i l, kget v.lines i = some l → kget m i = some (if l.ctx = c.ck ∧ l.window = some (c.at 17 1) then { l with window := none } else l))))
    ∧ ∀ x, awlRangeOk c x = true → 4 ≤ c.at 48 4 ∧ c.at 48 4 ≤ 16384 ∧ c.at 48 4 % 4 = 0 ∧ c.at 17 1 ≤ 7 ∧ 1 ≤ c.at 20 2 ∧ c.at 20 2 ≤ 1024
      ∧ c.at 24 8 % 4096 = 0 ∧ c.at 32 8 % 4096 = 0 ∧ 0 < c.at 32 8 ∧ c.at 40 8 % 8 = 0 ∧ c.at 56 8 % 64 = 0

/-- R50, R54, R55, R72-R75, R87-R89: CTX and PART_CFG. Status 3 for a PART_CFG of a virtual function (log 39) and that a destroy checks only CTXNUM (log 43)
are the model's inferences. -/
def Obligations.ContextAndPartitionCommandResults : Prop :=
  ∀ (s u : State) (fn num : Nat) (c : Cmd) (v : State), v = offQueue u c →
    (Heads s u fn num 11 4 (some 7) c → ctxReserved c = true → ∀ n act, n = ctxKey (partOfFn fn) (c.at 18 2) → act = c.at 16 1 →
      (∀ row ∈ ([(0, .ctxCreate fn num), (2, .ctxReconfigure fn num)] : List (Nat × Instr)), act = row.1 →
        (act = 0 ∧ ((kget u.ctxs n).isSome ∨ c.at 18 2 = 0 ∨ c.at 20 2 = 0 ∨ 0xFFF0 ≤ c.at 20 2) ∨ (if fn = 0 then 255 else 127) < c.at 18 2
            ∨ act = 2 ∧ (kget u.ctxs n = none ∨ ∃ l ∈ u.launches, l.2.ctx = n) → exec row.2 s = .next (v.refuse c 4 []))
        ∧ ∀ old new : Ctx, old = (if act = 0 then { brand := BitVec.ofNat 16 (c.at 20 2), allow := BitVec.ofNat 16 (c.at 22 2) &&& (u.ctx c.ck).allow } else v.ctx n) →
          new = { old with strict := c.at 17 1 % 2 = 1, s1root := c.addr 24, pasid := BitVec.ofNat 20 (c.at 32 4), wdog := BitVec.ofNat 16 (c.at 36 2), trapbase := c.addr 40
                           savebase := c.addr 48, savesize := c.addr 56, pinquota := BitVec.ofNat 32 (c.at 64 4) } →
          v.ctxStatus c new = 0 → exec row.2 s = .next (({ v with ctxs := kset v.ctxs n new } : State).done c))
      ∧ (act = 1 → (∀ h ∈ s.hostCopies, h.ctx ≠ n) →
        (c.at 18 2 = 0 ∨ kget u.ctxs n = none → exec (.ctxDestroy fn num) s = .next (v.refuse c 4 []))
        ∧ (c.at 18 2 ≠ 0 → c.at 18 2 ≤ (if fn = 0 then 255 else 127) → (kget u.ctxs n).isSome → ∃ w : State, exec (.ctxDestroy fn num) s = .next (w.done c)
          ∧ kget w.ctxs n = none ∧ (∀ k x, k ≠ n → kget v.ctxs k = some x → ∃ l, kget w.ctxs k = some { x with saved := l })
          ∧ (∀ l ∈ w.launches, l.2.ctx ≠ n) ∧ (∀ e ∈ w.tlb, ∀ i ∈ e.froms, i.stage2 = true ∨ i.owner ≠ n)
          ∧ (∀ l ∈ w.lines, n ∉ l.2.pins) ∧ ∀ o ≤ 3, ∀ p, p ∈ (w.out o).shows ∨ p ∈ (w.out o).captures → p.ctx ≠ n)))
    ∧ (Heads s u fn num 12 2 (some 8) c → partReserved c = true → ∀ p e, p = partNum c → e = partEntry c →
      ∀ row ∈ ([(.write, .partCfg fn num), (.disable, .partCfgDisable fn num), (.pause, .partPause fn num), (.resume, .partResume fn num)] : List (PartKind × Instr)),
      partKind s c = row.1 →
        (fn ≠ 0 → exec row.2 s = .next (v.refuse c 3 []))
        ∧ (fn = 0 → p ∉ partNumbers ∨ v.entryBad p e = true ∨ changeBad p (v.part p) e = true → exec row.2 s = .next (v.refuse c 4 []))
        ∧ (fn = 0 → p ∈ partNumbers → (kget v.parts p).isSome → v.entryBad p e = false → changeBad p (v.part p) e = false → ∃ w : State, exec row.2 s = .next (w.done c)
          ∧ (w.part p).en = (e.en || decide (p = 31)) ∧ (w.part p).temporal = e.temporal ∧ (w.part p).weight = e.weight ∧ (w.part p).allow = e.allow
          ∧ (w.part p).coreset = e.coreset ∧ (w.part p).pinquota = e.pinquota ∧ (w.part p).memquota = e.memquota ∧ (w.part p).colours = e.colours
          ∧ (∀ q, q ≠ p → (w.part q).coreset = (v.part q).coreset ∧ (w.part q).paused = (v.part q).paused)
          ∧ (row.1 = .write → (w.part p).paused = (v.part p).paused ∧ (p ≠ 31 → (kget v.ctxs (ctxKey p 0)).isSome → (w.ctx (ctxKey p 0)).allow = e.allow))
          ∧ (row.1 = .pause → (w.part p).paused = true)
          ∧ (row.1 = .resume → (kget v.funcs (fnOfPart p)).isSome → (w.part p).paused = false
            ∧ (w.func (fnOfPart p)).gen = (if (v.func (fnOfPart p)).gen.toNat < (v.part p).savedGen.toNat then (v.part p).savedGen else (v.func (fnOfPart p)).gen) + 1)
          ∧ (row.1 = .disable → (kget v.funcs (fnOfPart p)).isSome → (w.part p).paused = e.pause
            ∧ ((v.part p).paused = e.pause → (w.func (fnOfPart p)).gen = (v.func (fnOfPart p)).gen + 1)
            ∧ ∀ k, partOfCtx k = p → k ≠ ctxKey p 0 → kget w.ctxs k = none)))
    ∧ ∀ p (e : PartEntry), e.en = true → (e.coreset = 0 ∨ e.colours = 0 ∨ (e.temporal = true ∧ e.weight = 0) ∨ e.pinquota.toNat < v.pinnedByPart p
      ∨ e.memquota.toNat < v.framesOf p ∨ (∃ n < 96, e.coreset.getLsbD n = true ∧ v.usable n = false)
      ∨ (∃ o ∈ v.parts, o.1 ≠ p ∧ o.2.en = true ∧ o.2.coreset &&& e.coreset ≠ 0 ∧ (e.temporal = false ∨ o.2.temporal = false))) → v.entryBad p e = true

/-- R92-R104, R106-R108: GRANT, OWNMAP and PRESENT. What an OWNMAP writes waits for the next latch point. -/
def Obligations.CompositionCommandResults : Prop :=
  ∀ (s u : State) (fn num : Nat) (c : Cmd) (v : State), v = offQueue u c →
    (Heads s u fn num 9 2 (some 6) c → grantReserved c = true → (kget v.parts c.part).isSome → ∀ p slot, p = v.part c.part → slot = c.at 18 2 →
      ∀ row ∈ ([(0, false, true, .grantCreate fn num), (1, true, true, .grantChange fn num), (2, true, false, .grantWithdraw fn num)] : List (Nat × Bool × Bool × Instr)),
      c.at 16 1 = row.1 →
        (255 < slot ∨ c.at 20 2 ≠ ((kget p.grantGens slot).getD 0).toNat ∨ (kget p.grants slot).isSome ≠ row.2.1
          ∨ c.at 22 2 = c.at 24 2 ∨ c.at 22 2 = 0 ∨ c.at 24 2 = 0 ∨ 0xFFF0 ≤ c.at 22 2 ∨ 0xFFF0 ≤ c.at 24 2 ∨ c.at 32 2 ≤ c.at 28 2 ∨ c.at 34 2 ≤ c.at 30 2
            ∨ 1 < c.at 26 1 ∨ 3 < c.at 27 1 ∨ c.at 26 1 = 1 ∧ (v.out (c.at 27 1)).part ≠ c.part
          → exec row.2.2.2 s = .next (v.refuse c 4 []))
        ∧ (slot ≤ 255 → c.at 20 2 = ((kget p.grantGens slot).getD 0).toNat → (kget p.grants slot).isSome = row.2.1 → v.grantOk c.part (grantOf c) = true →
          ∃ w : State, exec row.2.2.2 s = .next (w.done c) ∧ w = { v with parts := w.parts } ∧ (∀ q, q ≠ c.part → w.part q = v.part q)
          ∧ (kget (w.part c.part).grants slot = if row.2.2.1 then some (grantOf c) else none)
          ∧ (∀ k, k ≠ slot → kget (w.part c.part).grants k = kget p.grants k)
          ∧ kget (w.part c.part).grantGens slot = some ((kget p.grantGens slot).getD 0 + 1)
          ∧ (w.part c.part).grantLog = p.grantLog ++ [{ slot := slot, before := kget p.grants slot, after := if row.2.2.1 then some (grantOf c) else none
                                                        frames := (v.ctxs.filter fun e => partOfCtx e.1 = c.part).map fun e => (e.1, e.2.frame) }]))
    ∧ (Heads s u fn num 10 2 (some 6) c → ownReserved c = true → 3 < c.at 17 1 →
      (c.at 16 1 = 0 → exec (.ownmapTiles fn num) s = .next (v.refuse c 4 [])) ∧ (c.at 16 1 = 1 → exec (.ownmapBlocks fn num) s = .next (v.refuse c 4 []))
        ∧ (c.at 16 1 = 3 → exec (.ownmapRegion fn num) s = .next (v.refuse c 4 [])))
    ∧ (Heads s u fn num 10 2 (some 6) c → ownReserved c = true → c.at 17 1 ≤ 3 → (kget v.outs (c.at 17 1)).isSome → ∀ n (o : Out), n = c.at 17 1 → o = v.out n →
      (o.part ≠ c.part → (c.at 16 1 = 0 → exec (.ownmapTiles fn num) s = .next (v.refuse c 3 [])) ∧ (c.at 16 1 = 1 → exec (.ownmapBlocks fn num) s = .next (v.refuse c 3 []))
        ∧ (c.at 16 1 = 3 → exec (.ownmapRegion fn num) s = .next (v.refuse c 3 [])))
      ∧ (o.part = c.part → c.at 16 1 = 0 → c.at 18 1 ≤ 1 →
        (tilesOf o.cfg.hactive < c.at 20 2 + c.at 24 2 ∨ tilesOf o.cfg.vactive < c.at 22 2 + c.at 26 2 → exec (.ownmapTiles fn num) s = .next (v.refuse c 4 []))
        ∧ ∀ w l es, c.at 20 2 + c.at 24 2 ≤ tilesOf o.cfg.hactive → c.at 22 2 + c.at 26 2 ≤ tilesOf o.cfg.vactive →
          v.readVirt c.ck (some c.tag) (c.addr 32) (4 * c.at 24 2 * c.at 26 2) = (w, .bytes l) → es = (unpack 4 l).map (BitVec.ofNat 32) →
          (es.all tileLegal = false → exec (.ownmapTiles fn num) s = .next (w.refuse c 4 []))
          ∧ (es.all tileLegal = true → exec (.ownmapTiles fn num) s = .next (({ w with outs := kmod w.outs n fun x => { x with pendingMaps := x.pendingMaps ++
              [.tiles (c.at 18 1 = 1) (c.at 20 2) (c.at 22 2) (c.at 24 2) (c.at 26 2) es] } } : State).done c)))
      ∧ (∀ w l, o.part = c.part → c.at 16 1 = 1 → c.at 18 1 ≤ 1 → c.at 20 2 + c.at 24 2 ≤ 4096 → v.readVirt c.ck (some c.tag) (c.addr 32) (512 * c.at 24 2) = (w, .bytes l) →
        (unpack 2 l).all (· < 0xFFF0) = true → exec (.ownmapBlocks fn num) s = .next (({ w with outs := kmod w.outs n fun x => { x with pendingMaps := x.pendingMaps ++
          [.blocks (c.at 18 1 = 1) (c.at 20 2) ((unpack 2 l).map (BitVec.ofNat 16))] } } : State).done c))
      ∧ (o.part = c.part → c.at 16 1 = 3 → c.at 40 1 ≤ 15 → c.at 41 1 ≤ 3 → c.at 42 1 ≤ 3 → c.at 52 2 ≤ o.cfg.hactive → c.at 54 2 ≤ o.cfg.vactive →
        exec (.ownmapRegion fn num) s = .next (({ v with outs := kmod v.outs n fun x => { x with pendingMaps := x.pendingMaps ++ [.region (c.at 40 1) (regionOf c)] } } : State).done c))
      ∧ (c.at 16 1 = 2 → (fn ≠ 0 → exec (.ownmapAssign fn num) s = .next (v.refuse c 3 []))
        ∧ (fn = 0 → c.at 28 4 ∈ partNumbers → ∃ w : State, exec (.ownmapAssign fn num) s = .next (w.done c) ∧ (w.out n).part = c.at 28 4 ∧ (w.out n).shows = []
          ∧ (w.out n).captures = [] ∧ (w.out n).pendingMaps = o.pendingMaps ++ [.assign] ∧ (w.out n).front = o.front
          ∧ ∀ q i g, kget (w.part q).grants i = some g → g.kind = 1 → g.out ≠ n)))
    ∧ (Heads s u fn num 5 1 (some 3) c → presentReserved c = true → (s.queue (ctxKey (partOfFn fn) num)).hold = none → (u.queue c.ck).hold = none →
      ∀ n i, n = c.at 24 1 → i = (if c.at 25 1 = 1 then Instr.presentCapture fn num else .presentShow fn num) →
      (3 < n → exec i s = .next (v.refuse c 4 [])) ∧ (n ≤ 3 → (v.out n).part ≠ c.part → exec i s = .next (v.refuse c 3 []))
      ∧ ∀ w l, n ≤ 3 → (v.out n).part = c.part → c.at 16 8 % 64 = 0 → v.readVirt c.ck (some c.tag) (c.addr 16) 64 = (w, .bytes l) →
        (w.presentStatus c l ≠ 0 → exec i s = .next (w.refuse c (w.presentStatus c l) []))
        ∧ (∀ p : Present, (kget v.outs n).isSome → w.presentStatus c l = 0 → (w.ctx c.ck).suppressed = 0 →
          p = { ctx := c.ck, surf := Surf.parse l, out := n, capture := c.at 25 1 = 1, ratediv := c.at 26 1, ox := c.at 28 2, oy := c.at 30 2, fill := BitVec.ofNat 32 (c.at 32 4)
                stamp := (w.ctx c.ck).frame, tag := c.tag, gen := c.gen, need := c.seq } →
          (((w.out n).queued c.ck p.capture).length < 4 → ∃ t : State, exec i s = .next (t.done c) ∧ (t.ctx c.ck).frame = ((w.ctx c.ck).frame + 1) % 2 ^ 32
            ∧ (t.out n).shows = (w.out n).shows ++ (if p.capture then [] else [p]) ∧ (t.out n).captures = (w.out n).captures ++ if p.capture then [p] else [])
          ∧ (4 ≤ ((w.out n).queued c.ck p.capture).length → ∃ t, exec i s = .next t ∧ (t.queue c.ck).hold = some (.present p c.seq) ∧ t.outs = w.outs
            ∧ (t.ctx c.ck).frame = ((w.ctx c.ck).frame + 1) % 2 ^ 32)))

/-- R34, R95, R96, R99, R104, R105, R109: latch points and scanouts. That a scanout waits for lines that an awl holds, and for the
link, is the model's (log 82). -/
def Obligations.LatchAndScanoutResults : Prop :=
  ∀ (s : State) (n : Nat) (o : Out), n ≤ 3 → s.running = true → kget s.outs n = some o →
    (o.latchedNow = true → exec (.latchPoint n) s = .next s)
    ∧ (o.cfg.en = false → o.pending = none → exec (.latchPoint n) s = .next s)
    ∧ (o.latchedNow = false → o.cfg.en = true → ∃ t, ∃ q : Out, exec (.latchPoint n) s = .next t ∧ kget t.outs n = some q ∧ (∀ m, m ≠ n → ∃ l, t.out m = { s.out m with old := l })
      ∧ q.pending = none ∧ q.pendingMaps = [] ∧ q.cfg = o.pending.getD o.cfg ∧ q.part = o.part
      ∧ (q.cfg.en = true → q.latchedNow = true ∧ q.scan = o.scan)
      ∧ (q.cfg.en = false → q.shows = [] ∧ q.captures = [] ∧ q.latched = [] ∧ q.capturing = [])
      ∧ (o.pending = none → .assign ∉ o.pendingMaps → q.front = (o.pendingMaps.foldl Out.applyMap o).front ∧ q.back = (o.pendingMaps.foldl Out.applyMap o).back
        ∧ q.regions = (o.pendingMaps.foldl Out.applyMap o).regions)
      ∧ (o.pending = none → o.pendingMaps = [.assign] → q.front = [] ∧ q.back = [] ∧ q.regions = [] ∧ (o.shows = [] → q.latched = [])))
    ∧ (∀ x y e, (kget (o.applyMap (.tiles false x y 1 1 [e])).regions = kget o.regions) ∧ ∀ a b, a < 1024 → x < 1024 →
      sget (o.applyMap (.tiles false x y 1 1 [e])).front (mapKey a b) = if a = x ∧ b = y then e else sget o.front (mapKey a b))
    ∧ (∀ p : Present, o.latchedNow = false → o.cfg.en = true → o.pending = none → o.pendingMaps = [] → o.captures = [] → o.shows = [p] → s.finished p = true →
      (kget s.ctxs p.ctx).isSome → s.ctxs.map Prod.fst = [p.ctx] → (∀ l ∈ o.latched, l.p.ctx = p.ctx) →
      ∃ t, ∃ q : Out, exec (.latchPoint n) s = .next t ∧ kget t.outs n = some q
      ∧ (o.latched = [] → q.latched = [{ p := p, scan := o.scan, shown := false }] ∧ q.shows = [])
      ∧ (∀ l, o.latched = [l] → o.scan < l.scan + l.p.ratediv → q.latched = [l] ∧ q.shows = [p])
      ∧ (∀ l, o.latched = [l] → l.scan + l.p.ratediv ≤ o.scan → q.latched = [{ p := p, scan := o.scan, shown := false }] ∧ q.shows = []))
    ∧ (o.latchedNow = false → exec (.scanout n) s = .next s)
    ∧ (s.scanWaits o = true → exec (.scanout n) s = .next s)
    ∧ (o.latchedNow = true → s.scanWaits o = false → o.cfg.hactive ≤ 16384 → ∃ t, ∃ q : Out, exec (.scanout n) s = .next t ∧ kget t.outs n = some q ∧ (∀ m, m ≠ n → ∃ l, t.out m = { s.out m with old := l })
      ∧ q = { o with frame := q.frame, capturing := [], latched := o.latched.map (fun l => { l with shown := true }), scan := o.scan + 1, latchedNow := false, old := [] }
      ∧ (∀ x y, x < o.cfg.hactive → y < o.cfg.vactive → sget q.frame (16384 * y + x) = packSent (o.cfg.sent (s.compose o) x y))
      ∧ (∀ x y, x < o.cfg.hactive → y < o.cfg.vactive → o.cfg.colour = 0 → o.regions = [] → o.frontAt x y = 0 →
        sget q.frame (16384 * y + x) = packSent ([o.cfg.bgR, o.cfg.bgG, o.cfg.bgB].map (unormWrite o.cfg.bpc))))
    ∧ ∀ x y r, o.regionAt x y = some r →
      let a := f32Div (f32OfInt r.amount) (f32OfInt 255)
      let front := s.pixelOf o 0 (o.frontAt x y) x y
      let back := s.pixelOf o 1 (o.backAt x y) x y
      (r.effect = 1 → ∀ i < 3, (s.compose o x y)[i]? = some (f32Add (f32Mul (f32Mul ((front[3]?).getD 0) a) ((front[i]?).getD 0))
        (f32Mul (f32Sub 0x3F800000 (f32Mul ((front[3]?).getD 0) a)) ((back[i]?).getD 0))))
      ∧ (r.effect = 3 → ∀ i < 3, (s.compose o x y)[i]? = some (f32Mul ((front[i]?).getD 0) a))

/-- R196, R219, R277, R282-R292, R510: hardware errors, the watchdog, pre-emption and restoring, counters and the mode of a frame. -/
def Obligations.ErrorAndPreemptionResults : Prop :=
  ∀ (s : State),
    (∀ e : ErrSite, ∃ t, ∃ r : ErrRec, exec (.uncorrectableError e) s = .next t ∧ r.uncorrectable = true ∧ r.number = s.errNext ∧ r.macroCode = (siteCode e).1
      ∧ r.bcyc = s.plat.bridleCycles ∧ r.outcome = 0 ∧ t.errNext = s.errNext + 1 ∧ t.errTable = (s.errTable ++ [r]).drop (s.errTable.length + 1 - 4096) ∧ t.selfTests = s.selfTests ++ [e]
      ∧ (∀ pa, e = .hbm pa → (s.plat.reliable = true → pa / 128 ∈ t.poisoned) ∧ (s.plat.reliable = false → (t.fotEntry (pa / 65536)).getLsbD 7 = true))
      ∧ (∀ pa l, e = .l2 pa → s.line? pa = some l → (l.dirty = true → pa / 128 ∈ t.poisoned) ∧ (l.dirty = false → t.poisoned = s.poisoned))
      ∧ (∀ n q, e = .awl n → (s.awl n).run = some q → (t.awl n).run = none)
      ∧ (e = .bridle → t.link.fatal = true)
      ∧ (∀ c off b blk, e = .spm c off → s.blocks.filter (fun x => x.2.core = c && x.2.resident && x.2.spmBase ≤ off && off < x.2.spmBase + x.2.spmSize) = [(b, blk)] →
        ∀ gid g, kget s.groups gid = some g → g.block = b → ∃ h, kget t.groups gid = some h ∧ h.mcheck.isSome ∧ h = { g with mcheck := h.mcheck }))
    ∧ (∀ e : ErrSite, ∃ t, ∃ r : ErrRec, exec (.correctedError e) s = .next t ∧ r.uncorrectable = false ∧ r.number = s.errNext ∧ r.macroCode = (siteCode e).1
      ∧ t.errTable = (s.errTable ++ [r]).drop (s.errTable.length + 1 - 4096) ∧ (s.corrected = [] → t.selfTests = s.selfTests ∧ t.corrected = [(e, s.plat.bridleCycles)])
      ∧ (s.corrected = List.replicate 15 (e, s.plat.bridleCycles) → t.selfTests = s.selfTests ++ [e] ∧ t.corrected = []))
    ∧ (∀ e pass, e ∉ s.selfTests → exec (.macroSelfTest e pass) s = .next s)
    ∧ (∀ e pass, e ∈ s.selfTests → ∃ t, exec (.macroSelfTest e pass) s = .next t ∧ t.selfTests = s.selfTests.erase e ∧ (pass = true ∨ (∀ pa, e ≠ .l2 pa) → t.mem = s.mem ∧ t.groups = s.groups)
      ∧ (pass = true → t.cores = s.cores ∧ t.parts = s.parts ∧ t.retiredFrames = s.retiredFrames ∧ t.retiredWays = s.retiredWays ∧ t.fot = s.fot)
      ∧ (∀ pa, pass = false → e = .hbm pa → t.retiredFrames = s.retiredFrames ++ [pa / 65536] ∧ t.fotEntry (pa / 65536) = 0x9F)
      ∧ (∀ c off, pass = false → e = .spm c off → (kget s.cores c).isSome → (t.core c).retired = true
        ∧ ∀ p x, kget s.parts p = some x → kget t.parts p = some { x with coreset := x.coreset &&& ~~~((1#96) <<< c) })
      ∧ (∀ rest r, s.errTable = rest ++ [r] → r.die = s.siteDie e → r.macroCode = (siteCode e).1 → r.index = (siteCode e).2.1 → r.unit = (siteCode e).2.2 → r.outcome = 0 →
        ∃ lost, t.errTable = rest ++ [{ r with outcome := if pass then 1 else 2, lost := lost }] ∧ (pass = true → lost = 0)))
    ∧ (∀ gid e, s.envOf gid 0 = some e →
      ((e.g.wait = 0 ∨ e.g.wait = 9 ∨ e.g.wait = 10 ∨ e.g.wait = 12) ∨ e.ctx.wdog = 0 ∨ e.g.wdog < 65536 * e.ctx.wdog.toNat → exec (.watchdogExpiry gid) s = .next s)
      ∧ (1 ≤ e.g.wait → e.g.wait ≤ 8 ∨ e.g.wait = 13 → e.ctx.wdog ≠ 0 → 65536 * e.ctx.wdog.toNat ≤ e.g.wdog → e.g.doubleTrap = false → ∃ t, exec (.watchdogExpiry gid) s = .next t
        ∧ kget t.groups gid = some (e.g.enterTrap { cause := 0x0D, pc := e.g.pc, addr := BitVec.ofNat 64 e.g.wait }) ∧ t.blocks = s.blocks ∧ t.mem = s.mem))
    ∧ (∀ gid n g, kget s.groups gid = some g → n < 4 →
      (8 ≤ (g.pctl.extractLsb' (6 * n) 6).toNat → (g.pctl.extractLsb' (6 * n) 6).toNat ≤ 13 → g.pctl.getLsbD (24 + n) = true → g.pcs[n]? = some 0xFFFFFFFF →
        exec (.perfCounterWrap gid n) s = .next { s with groups := kmod s.groups gid fun g => { g with pcs := g.pcs.set n 0, pctl := g.pctl ||| ((1#32) <<< (28 + n)) } })
      ∧ (g.pctl.getLsbD (24 + n) = false → exec (.perfCounterWrap gid n) s = .next s))
    ∧ (∀ frame rr wc, s.running = true → s.backed (65536 * frame) = true → rr = (kget s.frameReads frame).getD 0 → wc = (kget s.frameWrites frame).getD 0 →
      ∃ t, exec (.pmodeWindowEnd frame) s = .next t ∧ kget t.frameReads frame = none ∧ kget t.frameWrites frame = none ∧ t.mem = s.mem
      ∧ (∀ i < 8, i ≠ 6 → (t.fotEntry frame).getLsbD i = (s.fotEntry frame).getLsbD i) ∧ (∀ f, f ≠ frame → t.fotEntry f = s.fotEntry f)
      ∧ (t.fotEntry frame).getLsbD 6 = (if (s.fotEntry frame).getLsbD 6 then !decide (64 ≤ wc ∨ rr ≤ 4 * wc) else decide (64 ≤ rr ∧ 16 * wc ≤ rr)))
    ∧ (∀ p x core, s.stopping p core = false → exec (.contextPreempt p x core) s = .next s)
    ∧ (∀ p x core, s.stopping p core = true → (∃ b ∈ s.blocks, b.2.core = core ∧ b.2.resident = true ∧ s.ctxOfBlock b.2 = some (ctxKey p x) ∧ s.mayStop core b.1 = false) →
      exec (.contextPreempt p x core) s = .next s)
    ∧ (∀ p x core b blk l, s.stopping p core = true → s.blocks.filter (fun e => e.2.core = core && e.2.resident && s.ctxOfBlock e.2 = some (ctxKey p x)) = [(b, blk)] →
      kget s.launches blk.launch = some l → s.mayStop core b = true → (s.core core).pinned = none → (s.core core).rings = [] → (kget s.ctxs (ctxKey p x)).isSome → kget s.blocks b = some blk →
      (∀ g ∈ s.groups, g.2.block = b → g.2.resps = [] ∧ g.2.index < 64) → ∃ t, ∃ v : Saved, exec (.contextPreempt p x core) s = .next t ∧ kget t.blocks b = some { blk with resident := false }
        ∧ (∀ g ∈ t.groups, g.2.block ≠ b) ∧ v.bid = b
        ∧ (∃ l, (t.ctx (ctxKey p x)).saved = l ++ [v] ∧ l.map (·.bid) = (s.ctx (ctxKey p x)).saved.map (·.bid))
        ∧ v.groups.map (fun g => { g with unfenced := [], uncode := [] }) = (s.groupsOf b).map (fun g => { g.2 with unfenced := [], uncode := [] }))
    ∧ (∀ p x core, s.mayRestore core p = false → exec (.contextRestore p x core) s = .next s)
    ∧ ∀ p x core v blk l pl, s.mayRestore core p = true → (∀ e ∈ s.launches, e.2.pins = [] ∧ e.2.rings = []) → (s.ctx (ctxKey p x)).saved = [v] → kget s.blocks v.bid = some blk →
      kget s.launches blk.launch = some l → (blk.prog = .task → (kget (s.core core).rings blk.launch).isSome) → s.restorePlace core blk l v = some pl →
      (∀ g ∈ s.groups, g.2.block ≠ v.bid) → (∀ c ∈ (s.core core).copyq, c.bid ≠ v.bid) → (∀ g ∈ v.groups, g.awl = none ∧ g.pageFailed = false) →
      (∀ c ∈ v.copies, c.pageFailed = false) → ∃ t, ∃ b : Block, exec (.contextRestore p x core) s = .next t ∧ kget t.blocks v.bid = some b
        ∧ b.resident = true ∧ b.core = core ∧ (t.ctx (ctxKey p x)).saved = []

/-- R336, R340, R280: an F3, FM or FI word whose form or whose operands are wrong for the group takes the trap of its first cause, with TRAPADDR holding
the word and nothing executed. An instruction that the group's launch or program may not execute traps ILLEGAL_INSTR ahead of that. -/
def Obligations.DecodeTrapResults : Prop :=
  ∀ (i : Instr) (s : State) (e : Env), s.env = some e →
    (kindAllows i e = false → exec i s = .next (s.trapHere e 0x01 e.word))
    ∧ ∀ c, kindAllows i e = true → decodeCause i e.g = some c → (c = 1 ∨ c = 3) ∧ exec i s = .next (s.trapHere e c e.word)

/-- R277, R278: what taking a trap writes and keeps, and what a double trap does. -/
def Obligations.TrapEntryResults : Prop :=
  ∀ (s : State) (gid : Nat) (g : Group) (t : Trap), kget s.groups gid = some g → t.cause < 256 →
    (g.trap.cause.getLsbD 8 = false ∧ g.trap.base ≠ 0 → ∃ h : Group, s.takeTrap gid t = { s with groups := kmod s.groups gid fun _ => h }
      ∧ h.pc = g.trap.base ∧ h.wdog = 0
      ∧ h.trap.cause.extractLsb' 0 8 = BitVec.ofNat 8 t.cause ∧ h.trap.cause.getLsbD 8 = true ∧ h.trap.cause.getLsbD 9 = t.resume
      ∧ h.trap.cause.extractLsb' 10 22 = 0 ∧ h.trap.base = g.trap.base ∧ h.trap.pc = t.pc ∧ h.trap.mask = t.mask ∧ h.trap.addr = t.addr
      ∧ h.trap.iter = t.iter.getD g.trap.iter
      ∧ h = { g with pc := h.pc, trap := h.trap, wdog := 0, wait := 0, waitFor := .nothing, replay := none, parkIpa := none, held := none, rep := none,
                          counted := false, replays := false, resumed := false })
    ∧ (g.trap.cause.getLsbD 8 = true ∨ g.trap.base = 0 →
      (∀ e, s.envOf gid 0 = some e → s.takeTrap gid t = (s.endGroup gid).logFault e.ck t.pc t.cause false)
      ∧ ((∃ j h, j ≠ gid ∧ kget s.groups j = some h ∧ h.block = g.block) → kget (s.takeTrap gid t).groups gid = none))

/-- R36, R47, R50, R55, R71, R84, R213: what reset leaves. That an unlisted byte of memory reads as zero is the model's choice (log 3), as is the value
of every register that the manual gives no reset value for (log 17). -/
def Obligations.ResetStateResults : Prop :=
  ∀ s, s = State.reset →
    Memory.wf s.mem = true ∧ (∀ a n, s.readMem a n = List.replicate n 0) ∧ (∀ f, s.fotEntry f = 0x1F#8)
    ∧ s.groups = [] ∧ s.blocks = [] ∧ s.launches = [] ∧ s.running = true ∧ s.plat.boot = .booting
    ∧ (∀ c < 96, (s.core c).pipe = [] ∧ (s.core c).copyq = [] ∧ (s.core c).codebook = none ∧ (s.core c).retired = false)
    ∧ (∀ n < 48, (s.awl n).run = none ∧ (s.awl n).queue = [])
    ∧ (∀ p ∈ List.range 24 ++ [31], (s.part p).en = decide (p = 31) ∧ (s.part p).s2root = none ∧ (s.part p).grants = []
      ∧ (kget s.ctxs (ctxKey p 0)).isSome = true ∧ (s.ctx (ctxKey p 0)).allow = (if p = 31 then 0xFFFF#16 else 0)
      ∧ ∀ k, (s.queue k).en = false ∧ (s.queue k).wptr = 0 ∧ (s.queue k).rptr = 0 ∧ (s.queue k).err = 0 ∧ (s.queue k).halt = false)
    ∧ (∀ f < 25, (s.func f).wen = false ∧ (s.func f).elctl = 0 ∧ (s.func f).elwptr = 0 ∧ (s.func f).elrptr = 0 ∧ (s.func f).gen = 0)
    ∧ (∀ o < 4, (s.out o).part = 31 ∧ (s.out o).cfg.en = false)

/-- A step runs the instruction of the agent that goes next (R134, R239, R313, R314, R336): a group the word at its PC, an awl the word of its image,
and otherwise the row of the table that happens. Which agent goes next is the agenda's (log 1), and one whose step would access a line that an awl
holds (R246), or cross the link while it retrains (R29), does nothing yet (log 82). -/
def Obligations.StepRunsDecodedInstruction : Prop :=
  ∀ (s u : State) (e : Event) (rest : List Event), s.agenda = e :: rest → u = { s with agenda := rest, cur := .none } → u.running = true →
    let runs (x : State) (i : Instr) : Prop := step s = if x.stalls i then .next { s with agenda := rest } else exec i x
    let gives (t : State) : Prop := step s = .next (if t.stalled then { s with agenda := rest } else t)
    (∀ (x : State) i, x.heldLines = [] → x.link.retraining = false → x.stalls i = false)
    ∧ (∀ core cp gid g env v w x, e = .issue core cp → (u.core core).preempting = false → u.select core cp = some (gid, g) → g.resps = [] →
      u.envOf gid 0 = some env → env.g.checkReady = false → env.g.resumed = false → u.fetchWord env = (v, .word w) →
      x = (v.noteIssue gid env.g.core env.g.cp).countIssue env w →
        (env.g.rep = none → (∀ i, decodeWord w = .instr i → runs { x with cur := .group gid w } i)
          ∧ ∀ c, decodeWord w = .bad c → gives (x.trapHere env (match c with | .illegalInstr => 0x01 | .illegalPair => 0x02) w))
        ∧ ∀ r, env.g.rep = some r → repTargetOk r w = true → (∃ j, decodeWord w = .instr j) →
          ∀ d i, repWord r w ((repCount r : Int) - env.g.repcnt.toNat) = some d → decodeWord d = .instr i → runs { x with cur := .group gid w } i)
    ∧ (∀ env pa unc, u.pinnedWord env env.g.pc = none → (u.access u.freeCtr env.ck env.g.pc .fetch).1 = .dev pa unc → pa % 8 = 0 →
      (u.line? pa).isSome = true → kget u.heldLines (lineOf pa) = none → u.pendingWrites = [] → env.g.uncode = [] →
      kget (u.core env.g.core).icache (2 ^ 64 * env.ck + env.g.pc.toNat) = none → (u.fetchWord env).2 = .word (word64 (u.readMem pa 8)))
    ∧ (∀ n q w, e = .awl n → (u.awl n).run = some q →
      (u.writesPending (awlUid n) = true → gives { u with cur := .awl n })
      ∧ (u.writesPending (awlUid n) = false → u.budgetSpent n q = true → runs { u with cur := .awl n } (.awlBudgetExhausted n))
      ∧ (u.writesPending (awlUid n) = false → u.budgetSpent n q = false →
        w = word32 ((q.image.drop (u.awl n).pc).take 4 ++ List.replicate 4 0) → (u.awl n).pc + (if w.extractLsb' 0 2 = 3#2 then 4 else 2) ≤ q.image.length →
          runs { u with cur := .awl n } (decodeAwl w))
      ∧ ((u.awl n).budget ≠ 0 → u.budgetSpent n q = false))
    ∧ (∀ fn ctx v c, e = .queue fn ctx → u.headCmd fn ctx = (v, some c) → runs u (commandOf u fn ctx c))
    ∧ (e = .mailbox → ∃ b, runs { u with freeCtr := u.freeCtr + 1 } (mailboxInstr u.mbox.req.toNat b))
    ∧ ∀ i, e = .op i → isEvent i = true → runs u i

/-- Words of the manual's own listings, and what they stand for: one of each form (R320-R333), an awl's (R246), and words that are none (R336). -/
def Obligations.DecodeWordsStandForInstructions : Prop :=
  decodeWord 0x0100000100A01403 = .instr (.sadd { d := 0x402, a := 0x402, b := 0x403 })
  ∧ decodeWord 0x2079200001802005 = .instr (.vaddsat { pm := 2, ty := 4, d := 6, a := 4, b := 5 })
  ∧ decodeWord 0x210017FE00C01F38 = .instr (.vaddI { ty := 2, imm := BitVec.ofInt 21 (-200), d := 3, a := 3 })
  ∧ decodeWord 0x3018490003002005 = .instr (.vfma { ty := 9, md := 1, d := 12, a := 4, b := 5 })
  ∧ decodeWord 0x2418401102401800 = .instr (.vred { ty := 8, x := 8, d := 0x409, a := 3 })
  ∧ decodeWord 0x0304071234567800 = .instr (.sli { d := 0x407, imm := 0x12345678 })
  ∧ decodeWord 0x110800FFFFFFFC00 = .instr (.brc { disp := BitVec.ofInt 32 (-4) })
  ∧ decodeWord 0x120C440000000000 = .instr (.rep { cnt := 3, dinc := 1, ainc := 1, binc := 0 })
  ∧ decodeWord 0x4008200100A00000 = .instr (.stg { ty := 4, d := 0x402, a := 0x400 })
  ∧ decodeWord 0x7010000101106800 = .instr (.srd { d := 0x404, a := 0x20D })
  ∧ decodeWord 0x820101003C04D0C0 = .instr (.pairedWord { ho := 1, d := 4, a := 8 } { ho := 15, d := 9, a := 0x143 })
  ∧ decodeAwl 0x0055830B = .alrd { rd := 6, rs1 := 11, rs2 := 5 } ∧ decodeAwl 0x0003932B = .areply { rs1 := 7, rd := 6 } ∧ decodeAwl 0x0000202B = .aend {}
  ∧ decodeAwl 0x0042A383 = .awlBaseInstruction (.load .w 7 5 4) 4 ∧ decodeAwl 0x02031463 = .awlBaseInstruction (.branch .ne 6 0 40) 4
  ∧ decodeWord 0 = .bad .illegalInstr ∧ decodeWord (BitVec.allOnes 64) = .bad .illegalInstr

/-- R313, R320-R333, R336, R340, R246: every well-formed instruction of the manual has a word, its word is decoded as it with every operand at every
value that the word admits, and a word that is decoded is the word of its instruction. -/
def Obligations.EncodeDecodeRoundTrip : Prop :=
  (∀ (i : Instr) l, i.wf = true → encode i = some l → decodeTableWord (8 * l.length) (leNat l) = some i)
  ∧ (∀ i : Instr, i.opfn.isSome = true → (encode i).isSome = true)
  ∧ (∀ w i, decodeWord w = .instr i → encodeWord i = w ∧ i.wf = true)
  ∧ ∀ w i, decodeCacheSide w = some i → encodeAwl i = w ∧ i.wf = true

/-- R201, R202: device memory keeps its one form in every step of every state: addresses rise and no zero byte is listed, so that equal memories are
equal data. -/
def Obligations.MemoryFormKeptByStep : Prop :=
  ∀ s t : State, Memory.wf s.mem = true → step s = .next t → Memory.wf t.mem = true

/-- R336: in every state a step goes on: no word, no event and no command stops the machine, whatever the state. -/
def Obligations.EveryStepGoesOn : Prop :=
  ∀ s : State, SafeStep s
end

