-- ==== Sys2Proof/Laws/State.lean ====
section
/-! SUPPORT. What each named update of the state does to each field. -/
namespace Sys2Proof.Machine

/-! ### State.modGroup -/

@[simp] theorem State.modGroup_cur (s : State) (g : Nat) (f : Group → Group) : (s.modGroup g f).cur = s.cur := rfl
@[simp] theorem State.modGroup_agenda (s : State) (g : Nat) (f : Group → Group) : (s.modGroup g f).agenda = s.agenda := rfl
@[simp] theorem State.modGroup_freeCtr (s : State) (g : Nat) (f : Group → Group) : (s.modGroup g f).freeCtr = s.freeCtr := rfl
@[simp] theorem State.modGroup_nextId (s : State) (g : Nat) (f : Group → Group) : (s.modGroup g f).nextId = s.nextId := rfl
@[simp] theorem State.modGroup_plat (s : State) (g : Nat) (f : Group → Group) : (s.modGroup g f).plat = s.plat := rfl
@[simp] theorem State.modGroup_link (s : State) (g : Nat) (f : Group → Group) : (s.modGroup g f).link = s.link := rfl
@[simp] theorem State.modGroup_funcs (s : State) (g : Nat) (f : Group → Group) : (s.modGroup g f).funcs = s.funcs := rfl
@[simp] theorem State.modGroup_mbox (s : State) (g : Nat) (f : Group → Group) : (s.modGroup g f).mbox = s.mbox := rfl
@[simp] theorem State.modGroup_sec (s : State) (g : Nat) (f : Group → Group) : (s.modGroup g f).sec = s.sec := rfl
@[simp] theorem State.modGroup_spdm (s : State) (g : Nat) (f : Group → Group) : (s.modGroup g f).spdm = s.spdm := rfl
@[simp] theorem State.modGroup_irqs (s : State) (g : Nat) (f : Group → Group) : (s.modGroup g f).irqs = s.irqs := rfl
@[simp] theorem State.modGroup_hostCpl (s : State) (g : Nat) (f : Group → Group) : (s.modGroup g f).hostCpl = s.hostCpl := rfl
@[simp] theorem State.modGroup_mem (s : State) (g : Nat) (f : Group → Group) : (s.modGroup g f).mem = s.mem := rfl
@[simp] theorem State.modGroup_hostMem (s : State) (g : Nat) (f : Group → Group) : (s.modGroup g f).hostMem = s.hostMem := rfl
@[simp] theorem State.modGroup_hostAbsent (s : State) (g : Nat) (f : Group → Group) : (s.modGroup g f).hostAbsent = s.hostAbsent := rfl
@[simp] theorem State.modGroup_fot (s : State) (g : Nat) (f : Group → Group) : (s.modGroup g f).fot = s.fot := rfl
@[simp] theorem State.modGroup_poisoned (s : State) (g : Nat) (f : Group → Group) : (s.modGroup g f).poisoned = s.poisoned := rfl
@[simp] theorem State.modGroup_lines (s : State) (g : Nat) (f : Group → Group) : (s.modGroup g f).lines = s.lines := rfl
@[simp] theorem State.modGroup_evictOrder (s : State) (g : Nat) (f : Group → Group) : (s.modGroup g f).evictOrder = s.evictOrder := rfl
@[simp] theorem State.modGroup_tlb (s : State) (g : Nat) (f : Group → Group) : (s.modGroup g f).tlb = s.tlb := rfl
@[simp] theorem State.modGroup_frameReads (s : State) (g : Nat) (f : Group → Group) : (s.modGroup g f).frameReads = s.frameReads := rfl
@[simp] theorem State.modGroup_frameWrites (s : State) (g : Nat) (f : Group → Group) : (s.modGroup g f).frameWrites = s.frameWrites := rfl
@[simp] theorem State.modGroup_heldLines (s : State) (g : Nat) (f : Group → Group) : (s.modGroup g f).heldLines = s.heldLines := rfl
@[simp] theorem State.modGroup_stalled (s : State) (g : Nat) (f : Group → Group) : (s.modGroup g f).stalled = s.stalled := rfl
@[simp] theorem State.modGroup_pendingWrites (s : State) (g : Nat) (f : Group → Group) : (s.modGroup g f).pendingWrites = s.pendingWrites := rfl
@[simp] theorem State.modGroup_parts (s : State) (g : Nat) (f : Group → Group) : (s.modGroup g f).parts = s.parts := rfl
@[simp] theorem State.modGroup_ctxs (s : State) (g : Nat) (f : Group → Group) : (s.modGroup g f).ctxs = s.ctxs := rfl
@[simp] theorem State.modGroup_hostCopies (s : State) (g : Nat) (f : Group → Group) : (s.modGroup g f).hostCopies = s.hostCopies := rfl
@[simp] theorem State.modGroup_outs (s : State) (g : Nat) (f : Group → Group) : (s.modGroup g f).outs = s.outs := rfl
@[simp] theorem State.modGroup_launches (s : State) (g : Nat) (f : Group → Group) : (s.modGroup g f).launches = s.launches := rfl
@[simp] theorem State.modGroup_blocks (s : State) (g : Nat) (f : Group → Group) : (s.modGroup g f).blocks = s.blocks := rfl
@[simp] theorem State.modGroup_cores (s : State) (g : Nat) (f : Group → Group) : (s.modGroup g f).cores = s.cores := rfl
@[simp] theorem State.modGroup_groups (s : State) (g : Nat) (f : Group → Group) : (s.modGroup g f).groups = kmod s.groups g f := rfl
@[simp] theorem State.modGroup_awls (s : State) (g : Nat) (f : Group → Group) : (s.modGroup g f).awls = s.awls := rfl
@[simp] theorem State.modGroup_awlMsgs (s : State) (g : Nat) (f : Group → Group) : (s.modGroup g f).awlMsgs = s.awlMsgs := rfl
@[simp] theorem State.modGroup_awlReplies (s : State) (g : Nat) (f : Group → Group) : (s.modGroup g f).awlReplies = s.awlReplies := rfl
@[simp] theorem State.modGroup_errTable (s : State) (g : Nat) (f : Group → Group) : (s.modGroup g f).errTable = s.errTable := rfl
@[simp] theorem State.modGroup_errNext (s : State) (g : Nat) (f : Group → Group) : (s.modGroup g f).errNext = s.errNext := rfl
@[simp] theorem State.modGroup_corrected (s : State) (g : Nat) (f : Group → Group) : (s.modGroup g f).corrected = s.corrected := rfl
@[simp] theorem State.modGroup_selfTests (s : State) (g : Nat) (f : Group → Group) : (s.modGroup g f).selfTests = s.selfTests := rfl
@[simp] theorem State.modGroup_retiredRows (s : State) (g : Nat) (f : Group → Group) : (s.modGroup g f).retiredRows = s.retiredRows := rfl
@[simp] theorem State.modGroup_retiredWays (s : State) (g : Nat) (f : Group → Group) : (s.modGroup g f).retiredWays = s.retiredWays := rfl
@[simp] theorem State.modGroup_retiredFrames (s : State) (g : Nat) (f : Group → Group) : (s.modGroup g f).retiredFrames = s.retiredFrames := rfl

/-! ### State.modBlock -/

@[simp] theorem State.modBlock_cur (s : State) (b : Nat) (f : Block → Block) : (s.modBlock b f).cur = s.cur := rfl
@[simp] theorem State.modBlock_agenda (s : State) (b : Nat) (f : Block → Block) : (s.modBlock b f).agenda = s.agenda := rfl
@[simp] theorem State.modBlock_freeCtr (s : State) (b : Nat) (f : Block → Block) : (s.modBlock b f).freeCtr = s.freeCtr := rfl
@[simp] theorem State.modBlock_nextId (s : State) (b : Nat) (f : Block → Block) : (s.modBlock b f).nextId = s.nextId := rfl
@[simp] theorem State.modBlock_plat (s : State) (b : Nat) (f : Block → Block) : (s.modBlock b f).plat = s.plat := rfl
@[simp] theorem State.modBlock_link (s : State) (b : Nat) (f : Block → Block) : (s.modBlock b f).link = s.link := rfl
@[simp] theorem State.modBlock_funcs (s : State) (b : Nat) (f : Block → Block) : (s.modBlock b f).funcs = s.funcs := rfl
@[simp] theorem State.modBlock_mbox (s : State) (b : Nat) (f : Block → Block) : (s.modBlock b f).mbox = s.mbox := rfl
@[simp] theorem State.modBlock_sec (s : State) (b : Nat) (f : Block → Block) : (s.modBlock b f).sec = s.sec := rfl
@[simp] theorem State.modBlock_spdm (s : State) (b : Nat) (f : Block → Block) : (s.modBlock b f).spdm = s.spdm := rfl
@[simp] theorem State.modBlock_irqs (s : State) (b : Nat) (f : Block → Block) : (s.modBlock b f).irqs = s.irqs := rfl
@[simp] theorem State.modBlock_hostCpl (s : State) (b : Nat) (f : Block → Block) : (s.modBlock b f).hostCpl = s.hostCpl := rfl
@[simp] theorem State.modBlock_mem (s : State) (b : Nat) (f : Block → Block) : (s.modBlock b f).mem = s.mem := rfl
@[simp] theorem State.modBlock_hostMem (s : State) (b : Nat) (f : Block → Block) : (s.modBlock b f).hostMem = s.hostMem := rfl
@[simp] theorem State.modBlock_hostAbsent (s : State) (b : Nat) (f : Block → Block) : (s.modBlock b f).hostAbsent = s.hostAbsent := rfl
@[simp] theorem State.modBlock_fot (s : State) (b : Nat) (f : Block → Block) : (s.modBlock b f).fot = s.fot := rfl
@[simp] theorem State.modBlock_poisoned (s : State) (b : Nat) (f : Block → Block) : (s.modBlock b f).poisoned = s.poisoned := rfl
@[simp] theorem State.modBlock_lines (s : State) (b : Nat) (f : Block → Block) : (s.modBlock b f).lines = s.lines := rfl
@[simp] theorem State.modBlock_evictOrder (s : State) (b : Nat) (f : Block → Block) : (s.modBlock b f).evictOrder = s.evictOrder := rfl
@[simp] theorem State.modBlock_tlb (s : State) (b : Nat) (f : Block → Block) : (s.modBlock b f).tlb = s.tlb := rfl
@[simp] theorem State.modBlock_frameReads (s : State) (b : Nat) (f : Block → Block) : (s.modBlock b f).frameReads = s.frameReads := rfl
@[simp] theorem State.modBlock_frameWrites (s : State) (b : Nat) (f : Block → Block) : (s.modBlock b f).frameWrites = s.frameWrites := rfl
@[simp] theorem State.modBlock_heldLines (s : State) (b : Nat) (f : Block → Block) : (s.modBlock b f).heldLines = s.heldLines := rfl
@[simp] theorem State.modBlock_stalled (s : State) (b : Nat) (f : Block → Block) : (s.modBlock b f).stalled = s.stalled := rfl
@[simp] theorem State.modBlock_pendingWrites (s : State) (b : Nat) (f : Block → Block) : (s.modBlock b f).pendingWrites = s.pendingWrites := rfl
@[simp] theorem State.modBlock_parts (s : State) (b : Nat) (f : Block → Block) : (s.modBlock b f).parts = s.parts := rfl
@[simp] theorem State.modBlock_ctxs (s : State) (b : Nat) (f : Block → Block) : (s.modBlock b f).ctxs = s.ctxs := rfl
@[simp] theorem State.modBlock_hostCopies (s : State) (b : Nat) (f : Block → Block) : (s.modBlock b f).hostCopies = s.hostCopies := rfl
@[simp] theorem State.modBlock_outs (s : State) (b : Nat) (f : Block → Block) : (s.modBlock b f).outs = s.outs := rfl
@[simp] theorem State.modBlock_launches (s : State) (b : Nat) (f : Block → Block) : (s.modBlock b f).launches = s.launches := rfl
@[simp] theorem State.modBlock_blocks (s : State) (b : Nat) (f : Block → Block) : (s.modBlock b f).blocks = kmod s.blocks b f := rfl
@[simp] theorem State.modBlock_cores (s : State) (b : Nat) (f : Block → Block) : (s.modBlock b f).cores = s.cores := rfl
@[simp] theorem State.modBlock_groups (s : State) (b : Nat) (f : Block → Block) : (s.modBlock b f).groups = s.groups := rfl
@[simp] theorem State.modBlock_awls (s : State) (b : Nat) (f : Block → Block) : (s.modBlock b f).awls = s.awls := rfl
@[simp] theorem State.modBlock_awlMsgs (s : State) (b : Nat) (f : Block → Block) : (s.modBlock b f).awlMsgs = s.awlMsgs := rfl
@[simp] theorem State.modBlock_awlReplies (s : State) (b : Nat) (f : Block → Block) : (s.modBlock b f).awlReplies = s.awlReplies := rfl
@[simp] theorem State.modBlock_errTable (s : State) (b : Nat) (f : Block → Block) : (s.modBlock b f).errTable = s.errTable := rfl
@[simp] theorem State.modBlock_errNext (s : State) (b : Nat) (f : Block → Block) : (s.modBlock b f).errNext = s.errNext := rfl
@[simp] theorem State.modBlock_corrected (s : State) (b : Nat) (f : Block → Block) : (s.modBlock b f).corrected = s.corrected := rfl
@[simp] theorem State.modBlock_selfTests (s : State) (b : Nat) (f : Block → Block) : (s.modBlock b f).selfTests = s.selfTests := rfl
@[simp] theorem State.modBlock_retiredRows (s : State) (b : Nat) (f : Block → Block) : (s.modBlock b f).retiredRows = s.retiredRows := rfl
@[simp] theorem State.modBlock_retiredWays (s : State) (b : Nat) (f : Block → Block) : (s.modBlock b f).retiredWays = s.retiredWays := rfl
@[simp] theorem State.modBlock_retiredFrames (s : State) (b : Nat) (f : Block → Block) : (s.modBlock b f).retiredFrames = s.retiredFrames := rfl

/-! ### State.modLaunch -/

@[simp] theorem State.modLaunch_cur (s : State) (l : Nat) (f : Launch → Launch) : (s.modLaunch l f).cur = s.cur := rfl
@[simp] theorem State.modLaunch_agenda (s : State) (l : Nat) (f : Launch → Launch) : (s.modLaunch l f).agenda = s.agenda := rfl
@[simp] theorem State.modLaunch_freeCtr (s : State) (l : Nat) (f : Launch → Launch) : (s.modLaunch l f).freeCtr = s.freeCtr := rfl
@[simp] theorem State.modLaunch_nextId (s : State) (l : Nat) (f : Launch → Launch) : (s.modLaunch l f).nextId = s.nextId := rfl
@[simp] theorem State.modLaunch_plat (s : State) (l : Nat) (f : Launch → Launch) : (s.modLaunch l f).plat = s.plat := rfl
@[simp] theorem State.modLaunch_link (s : State) (l : Nat) (f : Launch → Launch) : (s.modLaunch l f).link = s.link := rfl
@[simp] theorem State.modLaunch_funcs (s : State) (l : Nat) (f : Launch → Launch) : (s.modLaunch l f).funcs = s.funcs := rfl
@[simp] theorem State.modLaunch_mbox (s : State) (l : Nat) (f : Launch → Launch) : (s.modLaunch l f).mbox = s.mbox := rfl
@[simp] theorem State.modLaunch_sec (s : State) (l : Nat) (f : Launch → Launch) : (s.modLaunch l f).sec = s.sec := rfl
@[simp] theorem State.modLaunch_spdm (s : State) (l : Nat) (f : Launch → Launch) : (s.modLaunch l f).spdm = s.spdm := rfl
@[simp] theorem State.modLaunch_irqs (s : State) (l : Nat) (f : Launch → Launch) : (s.modLaunch l f).irqs = s.irqs := rfl
@[simp] theorem State.modLaunch_hostCpl (s : State) (l : Nat) (f : Launch → Launch) : (s.modLaunch l f).hostCpl = s.hostCpl := rfl
@[simp] theorem State.modLaunch_mem (s : State) (l : Nat) (f : Launch → Launch) : (s.modLaunch l f).mem = s.mem := rfl
@[simp] theorem State.modLaunch_hostMem (s : State) (l : Nat) (f : Launch → Launch) : (s.modLaunch l f).hostMem = s.hostMem := rfl
@[simp] theorem State.modLaunch_hostAbsent (s : State) (l : Nat) (f : Launch → Launch) : (s.modLaunch l f).hostAbsent = s.hostAbsent := rfl
@[simp] theorem State.modLaunch_fot (s : State) (l : Nat) (f : Launch → Launch) : (s.modLaunch l f).fot = s.fot := rfl
@[simp] theorem State.modLaunch_poisoned (s : State) (l : Nat) (f : Launch → Launch) : (s.modLaunch l f).poisoned = s.poisoned := rfl
@[simp] theorem State.modLaunch_lines (s : State) (l : Nat) (f : Launch → Launch) : (s.modLaunch l f).lines = s.lines := rfl
@[simp] theorem State.modLaunch_evictOrder (s : State) (l : Nat) (f : Launch → Launch) : (s.modLaunch l f).evictOrder = s.evictOrder := rfl
@[simp] theorem State.modLaunch_tlb (s : State) (l : Nat) (f : Launch → Launch) : (s.modLaunch l f).tlb = s.tlb := rfl
@[simp] theorem State.modLaunch_frameReads (s : State) (l : Nat) (f : Launch → Launch) : (s.modLaunch l f).frameReads = s.frameReads := rfl
@[simp] theorem State.modLaunch_frameWrites (s : State) (l : Nat) (f : Launch → Launch) : (s.modLaunch l f).frameWrites = s.frameWrites := rfl
@[simp] theorem State.modLaunch_heldLines (s : State) (l : Nat) (f : Launch → Launch) : (s.modLaunch l f).heldLines = s.heldLines := rfl
@[simp] theorem State.modLaunch_stalled (s : State) (l : Nat) (f : Launch → Launch) : (s.modLaunch l f).stalled = s.stalled := rfl
@[simp] theorem State.modLaunch_pendingWrites (s : State) (l : Nat) (f : Launch → Launch) : (s.modLaunch l f).pendingWrites = s.pendingWrites := rfl
@[simp] theorem State.modLaunch_parts (s : State) (l : Nat) (f : Launch → Launch) : (s.modLaunch l f).parts = s.parts := rfl
@[simp] theorem State.modLaunch_ctxs (s : State) (l : Nat) (f : Launch → Launch) : (s.modLaunch l f).ctxs = s.ctxs := rfl
@[simp] theorem State.modLaunch_hostCopies (s : State) (l : Nat) (f : Launch → Launch) : (s.modLaunch l f).hostCopies = s.hostCopies := rfl
@[simp] theorem State.modLaunch_outs (s : State) (l : Nat) (f : Launch → Launch) : (s.modLaunch l f).outs = s.outs := rfl
@[simp] theorem State.modLaunch_launches (s : State) (l : Nat) (f : Launch → Launch) : (s.modLaunch l f).launches = kmod s.launches l f := rfl
@[simp] theorem State.modLaunch_blocks (s : State) (l : Nat) (f : Launch → Launch) : (s.modLaunch l f).blocks = s.blocks := rfl
@[simp] theorem State.modLaunch_cores (s : State) (l : Nat) (f : Launch → Launch) : (s.modLaunch l f).cores = s.cores := rfl
@[simp] theorem State.modLaunch_groups (s : State) (l : Nat) (f : Launch → Launch) : (s.modLaunch l f).groups = s.groups := rfl
@[simp] theorem State.modLaunch_awls (s : State) (l : Nat) (f : Launch → Launch) : (s.modLaunch l f).awls = s.awls := rfl
@[simp] theorem State.modLaunch_awlMsgs (s : State) (l : Nat) (f : Launch → Launch) : (s.modLaunch l f).awlMsgs = s.awlMsgs := rfl
@[simp] theorem State.modLaunch_awlReplies (s : State) (l : Nat) (f : Launch → Launch) : (s.modLaunch l f).awlReplies = s.awlReplies := rfl
@[simp] theorem State.modLaunch_errTable (s : State) (l : Nat) (f : Launch → Launch) : (s.modLaunch l f).errTable = s.errTable := rfl
@[simp] theorem State.modLaunch_errNext (s : State) (l : Nat) (f : Launch → Launch) : (s.modLaunch l f).errNext = s.errNext := rfl
@[simp] theorem State.modLaunch_corrected (s : State) (l : Nat) (f : Launch → Launch) : (s.modLaunch l f).corrected = s.corrected := rfl
@[simp] theorem State.modLaunch_selfTests (s : State) (l : Nat) (f : Launch → Launch) : (s.modLaunch l f).selfTests = s.selfTests := rfl
@[simp] theorem State.modLaunch_retiredRows (s : State) (l : Nat) (f : Launch → Launch) : (s.modLaunch l f).retiredRows = s.retiredRows := rfl
@[simp] theorem State.modLaunch_retiredWays (s : State) (l : Nat) (f : Launch → Launch) : (s.modLaunch l f).retiredWays = s.retiredWays := rfl
@[simp] theorem State.modLaunch_retiredFrames (s : State) (l : Nat) (f : Launch → Launch) : (s.modLaunch l f).retiredFrames = s.retiredFrames := rfl

/-! ### State.modCore -/

@[simp] theorem State.modCore_cur (s : State) (c : Nat) (f : Core → Core) : (s.modCore c f).cur = s.cur := rfl
@[simp] theorem State.modCore_agenda (s : State) (c : Nat) (f : Core → Core) : (s.modCore c f).agenda = s.agenda := rfl
@[simp] theorem State.modCore_freeCtr (s : State) (c : Nat) (f : Core → Core) : (s.modCore c f).freeCtr = s.freeCtr := rfl
@[simp] theorem State.modCore_nextId (s : State) (c : Nat) (f : Core → Core) : (s.modCore c f).nextId = s.nextId := rfl
@[simp] theorem State.modCore_plat (s : State) (c : Nat) (f : Core → Core) : (s.modCore c f).plat = s.plat := rfl
@[simp] theorem State.modCore_link (s : State) (c : Nat) (f : Core → Core) : (s.modCore c f).link = s.link := rfl
@[simp] theorem State.modCore_funcs (s : State) (c : Nat) (f : Core → Core) : (s.modCore c f).funcs = s.funcs := rfl
@[simp] theorem State.modCore_mbox (s : State) (c : Nat) (f : Core → Core) : (s.modCore c f).mbox = s.mbox := rfl
@[simp] theorem State.modCore_sec (s : State) (c : Nat) (f : Core → Core) : (s.modCore c f).sec = s.sec := rfl
@[simp] theorem State.modCore_spdm (s : State) (c : Nat) (f : Core → Core) : (s.modCore c f).spdm = s.spdm := rfl
@[simp] theorem State.modCore_irqs (s : State) (c : Nat) (f : Core → Core) : (s.modCore c f).irqs = s.irqs := rfl
@[simp] theorem State.modCore_hostCpl (s : State) (c : Nat) (f : Core → Core) : (s.modCore c f).hostCpl = s.hostCpl := rfl
@[simp] theorem State.modCore_mem (s : State) (c : Nat) (f : Core → Core) : (s.modCore c f).mem = s.mem := rfl
@[simp] theorem State.modCore_hostMem (s : State) (c : Nat) (f : Core → Core) : (s.modCore c f).hostMem = s.hostMem := rfl
@[simp] theorem State.modCore_hostAbsent (s : State) (c : Nat) (f : Core → Core) : (s.modCore c f).hostAbsent = s.hostAbsent := rfl
@[simp] theorem State.modCore_fot (s : State) (c : Nat) (f : Core → Core) : (s.modCore c f).fot = s.fot := rfl
@[simp] theorem State.modCore_poisoned (s : State) (c : Nat) (f : Core → Core) : (s.modCore c f).poisoned = s.poisoned := rfl
@[simp] theorem State.modCore_lines (s : State) (c : Nat) (f : Core → Core) : (s.modCore c f).lines = s.lines := rfl
@[simp] theorem State.modCore_evictOrder (s : State) (c : Nat) (f : Core → Core) : (s.modCore c f).evictOrder = s.evictOrder := rfl
@[simp] theorem State.modCore_tlb (s : State) (c : Nat) (f : Core → Core) : (s.modCore c f).tlb = s.tlb := rfl
@[simp] theorem State.modCore_frameReads (s : State) (c : Nat) (f : Core → Core) : (s.modCore c f).frameReads = s.frameReads := rfl
@[simp] theorem State.modCore_frameWrites (s : State) (c : Nat) (f : Core → Core) : (s.modCore c f).frameWrites = s.frameWrites := rfl
@[simp] theorem State.modCore_heldLines (s : State) (c : Nat) (f : Core → Core) : (s.modCore c f).heldLines = s.heldLines := rfl
@[simp] theorem State.modCore_stalled (s : State) (c : Nat) (f : Core → Core) : (s.modCore c f).stalled = s.stalled := rfl
@[simp] theorem State.modCore_pendingWrites (s : State) (c : Nat) (f : Core → Core) : (s.modCore c f).pendingWrites = s.pendingWrites := rfl
@[simp] theorem State.modCore_parts (s : State) (c : Nat) (f : Core → Core) : (s.modCore c f).parts = s.parts := rfl
@[simp] theorem State.modCore_ctxs (s : State) (c : Nat) (f : Core → Core) : (s.modCore c f).ctxs = s.ctxs := rfl
@[simp] theorem State.modCore_hostCopies (s : State) (c : Nat) (f : Core → Core) : (s.modCore c f).hostCopies = s.hostCopies := rfl
@[simp] theorem State.modCore_outs (s : State) (c : Nat) (f : Core → Core) : (s.modCore c f).outs = s.outs := rfl
@[simp] theorem State.modCore_launches (s : State) (c : Nat) (f : Core → Core) : (s.modCore c f).launches = s.launches := rfl
@[simp] theorem State.modCore_blocks (s : State) (c : Nat) (f : Core → Core) : (s.modCore c f).blocks = s.blocks := rfl
@[simp] theorem State.modCore_cores (s : State) (c : Nat) (f : Core → Core) : (s.modCore c f).cores = kmod s.cores c f := rfl
@[simp] theorem State.modCore_groups (s : State) (c : Nat) (f : Core → Core) : (s.modCore c f).groups = s.groups := rfl
@[simp] theorem State.modCore_awls (s : State) (c : Nat) (f : Core → Core) : (s.modCore c f).awls = s.awls := rfl
@[simp] theorem State.modCore_awlMsgs (s : State) (c : Nat) (f : Core → Core) : (s.modCore c f).awlMsgs = s.awlMsgs := rfl
@[simp] theorem State.modCore_awlReplies (s : State) (c : Nat) (f : Core → Core) : (s.modCore c f).awlReplies = s.awlReplies := rfl
@[simp] theorem State.modCore_errTable (s : State) (c : Nat) (f : Core → Core) : (s.modCore c f).errTable = s.errTable := rfl
@[simp] theorem State.modCore_errNext (s : State) (c : Nat) (f : Core → Core) : (s.modCore c f).errNext = s.errNext := rfl
@[simp] theorem State.modCore_corrected (s : State) (c : Nat) (f : Core → Core) : (s.modCore c f).corrected = s.corrected := rfl
@[simp] theorem State.modCore_selfTests (s : State) (c : Nat) (f : Core → Core) : (s.modCore c f).selfTests = s.selfTests := rfl
@[simp] theorem State.modCore_retiredRows (s : State) (c : Nat) (f : Core → Core) : (s.modCore c f).retiredRows = s.retiredRows := rfl
@[simp] theorem State.modCore_retiredWays (s : State) (c : Nat) (f : Core → Core) : (s.modCore c f).retiredWays = s.retiredWays := rfl
@[simp] theorem State.modCore_retiredFrames (s : State) (c : Nat) (f : Core → Core) : (s.modCore c f).retiredFrames = s.retiredFrames := rfl

/-! ### State.modCtx -/

@[simp] theorem State.modCtx_cur (s : State) (c : Nat) (f : Ctx → Ctx) : (s.modCtx c f).cur = s.cur := rfl
@[simp] theorem State.modCtx_agenda (s : State) (c : Nat) (f : Ctx → Ctx) : (s.modCtx c f).agenda = s.agenda := rfl
@[simp] theorem State.modCtx_freeCtr (s : State) (c : Nat) (f : Ctx → Ctx) : (s.modCtx c f).freeCtr = s.freeCtr := rfl
@[simp] theorem State.modCtx_nextId (s : State) (c : Nat) (f : Ctx → Ctx) : (s.modCtx c f).nextId = s.nextId := rfl
@[simp] theorem State.modCtx_plat (s : State) (c : Nat) (f : Ctx → Ctx) : (s.modCtx c f).plat = s.plat := rfl
@[simp] theorem State.modCtx_link (s : State) (c : Nat) (f : Ctx → Ctx) : (s.modCtx c f).link = s.link := rfl
@[simp] theorem State.modCtx_funcs (s : State) (c : Nat) (f : Ctx → Ctx) : (s.modCtx c f).funcs = s.funcs := rfl
@[simp] theorem State.modCtx_mbox (s : State) (c : Nat) (f : Ctx → Ctx) : (s.modCtx c f).mbox = s.mbox := rfl
@[simp] theorem State.modCtx_sec (s : State) (c : Nat) (f : Ctx → Ctx) : (s.modCtx c f).sec = s.sec := rfl
@[simp] theorem State.modCtx_spdm (s : State) (c : Nat) (f : Ctx → Ctx) : (s.modCtx c f).spdm = s.spdm := rfl
@[simp] theorem State.modCtx_irqs (s : State) (c : Nat) (f : Ctx → Ctx) : (s.modCtx c f).irqs = s.irqs := rfl
@[simp] theorem State.modCtx_hostCpl (s : State) (c : Nat) (f : Ctx → Ctx) : (s.modCtx c f).hostCpl = s.hostCpl := rfl
@[simp] theorem State.modCtx_mem (s : State) (c : Nat) (f : Ctx → Ctx) : (s.modCtx c f).mem = s.mem := rfl
@[simp] theorem State.modCtx_hostMem (s : State) (c : Nat) (f : Ctx → Ctx) : (s.modCtx c f).hostMem = s.hostMem := rfl
@[simp] theorem State.modCtx_hostAbsent (s : State) (c : Nat) (f : Ctx → Ctx) : (s.modCtx c f).hostAbsent = s.hostAbsent := rfl
@[simp] theorem State.modCtx_fot (s : State) (c : Nat) (f : Ctx → Ctx) : (s.modCtx c f).fot = s.fot := rfl
@[simp] theorem State.modCtx_poisoned (s : State) (c : Nat) (f : Ctx → Ctx) : (s.modCtx c f).poisoned = s.poisoned := rfl
@[simp] theorem State.modCtx_lines (s : State) (c : Nat) (f : Ctx → Ctx) : (s.modCtx c f).lines = s.lines := rfl
@[simp] theorem State.modCtx_evictOrder (s : State) (c : Nat) (f : Ctx → Ctx) : (s.modCtx c f).evictOrder = s.evictOrder := rfl
@[simp] theorem State.modCtx_tlb (s : State) (c : Nat) (f : Ctx → Ctx) : (s.modCtx c f).tlb = s.tlb := rfl
@[simp] theorem State.modCtx_frameReads (s : State) (c : Nat) (f : Ctx → Ctx) : (s.modCtx c f).frameReads = s.frameReads := rfl
@[simp] theorem State.modCtx_frameWrites (s : State) (c : Nat) (f : Ctx → Ctx) : (s.modCtx c f).frameWrites = s.frameWrites := rfl
@[simp] theorem State.modCtx_heldLines (s : State) (c : Nat) (f : Ctx → Ctx) : (s.modCtx c f).heldLines = s.heldLines := rfl
@[simp] theorem State.modCtx_stalled (s : State) (c : Nat) (f : Ctx → Ctx) : (s.modCtx c f).stalled = s.stalled := rfl
@[simp] theorem State.modCtx_pendingWrites (s : State) (c : Nat) (f : Ctx → Ctx) : (s.modCtx c f).pendingWrites = s.pendingWrites := rfl
@[simp] theorem State.modCtx_parts (s : State) (c : Nat) (f : Ctx → Ctx) : (s.modCtx c f).parts = s.parts := rfl
@[simp] theorem State.modCtx_ctxs (s : State) (c : Nat) (f : Ctx → Ctx) : (s.modCtx c f).ctxs = kmod s.ctxs c f := rfl
@[simp] theorem State.modCtx_hostCopies (s : State) (c : Nat) (f : Ctx → Ctx) : (s.modCtx c f).hostCopies = s.hostCopies := rfl
@[simp] theorem State.modCtx_outs (s : State) (c : Nat) (f : Ctx → Ctx) : (s.modCtx c f).outs = s.outs := rfl
@[simp] theorem State.modCtx_launches (s : State) (c : Nat) (f : Ctx → Ctx) : (s.modCtx c f).launches = s.launches := rfl
@[simp] theorem State.modCtx_blocks (s : State) (c : Nat) (f : Ctx → Ctx) : (s.modCtx c f).blocks = s.blocks := rfl
@[simp] theorem State.modCtx_cores (s : State) (c : Nat) (f : Ctx → Ctx) : (s.modCtx c f).cores = s.cores := rfl
@[simp] theorem State.modCtx_groups (s : State) (c : Nat) (f : Ctx → Ctx) : (s.modCtx c f).groups = s.groups := rfl
@[simp] theorem State.modCtx_awls (s : State) (c : Nat) (f : Ctx → Ctx) : (s.modCtx c f).awls = s.awls := rfl
@[simp] theorem State.modCtx_awlMsgs (s : State) (c : Nat) (f : Ctx → Ctx) : (s.modCtx c f).awlMsgs = s.awlMsgs := rfl
@[simp] theorem State.modCtx_awlReplies (s : State) (c : Nat) (f : Ctx → Ctx) : (s.modCtx c f).awlReplies = s.awlReplies := rfl
@[simp] theorem State.modCtx_errTable (s : State) (c : Nat) (f : Ctx → Ctx) : (s.modCtx c f).errTable = s.errTable := rfl
@[simp] theorem State.modCtx_errNext (s : State) (c : Nat) (f : Ctx → Ctx) : (s.modCtx c f).errNext = s.errNext := rfl
@[simp] theorem State.modCtx_corrected (s : State) (c : Nat) (f : Ctx → Ctx) : (s.modCtx c f).corrected = s.corrected := rfl
@[simp] theorem State.modCtx_selfTests (s : State) (c : Nat) (f : Ctx → Ctx) : (s.modCtx c f).selfTests = s.selfTests := rfl
@[simp] theorem State.modCtx_retiredRows (s : State) (c : Nat) (f : Ctx → Ctx) : (s.modCtx c f).retiredRows = s.retiredRows := rfl
@[simp] theorem State.modCtx_retiredWays (s : State) (c : Nat) (f : Ctx → Ctx) : (s.modCtx c f).retiredWays = s.retiredWays := rfl
@[simp] theorem State.modCtx_retiredFrames (s : State) (c : Nat) (f : Ctx → Ctx) : (s.modCtx c f).retiredFrames = s.retiredFrames := rfl

/-! ### State.modPart -/

@[simp] theorem State.modPart_cur (s : State) (p : Nat) (f : Part → Part) : (s.modPart p f).cur = s.cur := rfl
@[simp] theorem State.modPart_agenda (s : State) (p : Nat) (f : Part → Part) : (s.modPart p f).agenda = s.agenda := rfl
@[simp] theorem State.modPart_freeCtr (s : State) (p : Nat) (f : Part → Part) : (s.modPart p f).freeCtr = s.freeCtr := rfl
@[simp] theorem State.modPart_nextId (s : State) (p : Nat) (f : Part → Part) : (s.modPart p f).nextId = s.nextId := rfl
@[simp] theorem State.modPart_plat (s : State) (p : Nat) (f : Part → Part) : (s.modPart p f).plat = s.plat := rfl
@[simp] theorem State.modPart_link (s : State) (p : Nat) (f : Part → Part) : (s.modPart p f).link = s.link := rfl
@[simp] theorem State.modPart_funcs (s : State) (p : Nat) (f : Part → Part) : (s.modPart p f).funcs = s.funcs := rfl
@[simp] theorem State.modPart_mbox (s : State) (p : Nat) (f : Part → Part) : (s.modPart p f).mbox = s.mbox := rfl
@[simp] theorem State.modPart_sec (s : State) (p : Nat) (f : Part → Part) : (s.modPart p f).sec = s.sec := rfl
@[simp] theorem State.modPart_spdm (s : State) (p : Nat) (f : Part → Part) : (s.modPart p f).spdm = s.spdm := rfl
@[simp] theorem State.modPart_irqs (s : State) (p : Nat) (f : Part → Part) : (s.modPart p f).irqs = s.irqs := rfl
@[simp] theorem State.modPart_hostCpl (s : State) (p : Nat) (f : Part → Part) : (s.modPart p f).hostCpl = s.hostCpl := rfl
@[simp] theorem State.modPart_mem (s : State) (p : Nat) (f : Part → Part) : (s.modPart p f).mem = s.mem := rfl
@[simp] theorem State.modPart_hostMem (s : State) (p : Nat) (f : Part → Part) : (s.modPart p f).hostMem = s.hostMem := rfl
@[simp] theorem State.modPart_hostAbsent (s : State) (p : Nat) (f : Part → Part) : (s.modPart p f).hostAbsent = s.hostAbsent := rfl
@[simp] theorem State.modPart_fot (s : State) (p : Nat) (f : Part → Part) : (s.modPart p f).fot = s.fot := rfl
@[simp] theorem State.modPart_poisoned (s : State) (p : Nat) (f : Part → Part) : (s.modPart p f).poisoned = s.poisoned := rfl
@[simp] theorem State.modPart_lines (s : State) (p : Nat) (f : Part → Part) : (s.modPart p f).lines = s.lines := rfl
@[simp] theorem State.modPart_evictOrder (s : State) (p : Nat) (f : Part → Part) : (s.modPart p f).evictOrder = s.evictOrder := rfl
@[simp] theorem State.modPart_tlb (s : State) (p : Nat) (f : Part → Part) : (s.modPart p f).tlb = s.tlb := rfl
@[simp] theorem State.modPart_frameReads (s : State) (p : Nat) (f : Part → Part) : (s.modPart p f).frameReads = s.frameReads := rfl
@[simp] theorem State.modPart_frameWrites (s : State) (p : Nat) (f : Part → Part) : (s.modPart p f).frameWrites = s.frameWrites := rfl
@[simp] theorem State.modPart_heldLines (s : State) (p : Nat) (f : Part → Part) : (s.modPart p f).heldLines = s.heldLines := rfl
@[simp] theorem State.modPart_stalled (s : State) (p : Nat) (f : Part → Part) : (s.modPart p f).stalled = s.stalled := rfl
@[simp] theorem State.modPart_pendingWrites (s : State) (p : Nat) (f : Part → Part) : (s.modPart p f).pendingWrites = s.pendingWrites := rfl
@[simp] theorem State.modPart_parts (s : State) (p : Nat) (f : Part → Part) : (s.modPart p f).parts = kmod s.parts p f := rfl
@[simp] theorem State.modPart_ctxs (s : State) (p : Nat) (f : Part → Part) : (s.modPart p f).ctxs = s.ctxs := rfl
@[simp] theorem State.modPart_hostCopies (s : State) (p : Nat) (f : Part → Part) : (s.modPart p f).hostCopies = s.hostCopies := rfl
@[simp] theorem State.modPart_outs (s : State) (p : Nat) (f : Part → Part) : (s.modPart p f).outs = s.outs := rfl
@[simp] theorem State.modPart_launches (s : State) (p : Nat) (f : Part → Part) : (s.modPart p f).launches = s.launches := rfl
@[simp] theorem State.modPart_blocks (s : State) (p : Nat) (f : Part → Part) : (s.modPart p f).blocks = s.blocks := rfl
@[simp] theorem State.modPart_cores (s : State) (p : Nat) (f : Part → Part) : (s.modPart p f).cores = s.cores := rfl
@[simp] theorem State.modPart_groups (s : State) (p : Nat) (f : Part → Part) : (s.modPart p f).groups = s.groups := rfl
@[simp] theorem State.modPart_awls (s : State) (p : Nat) (f : Part → Part) : (s.modPart p f).awls = s.awls := rfl
@[simp] theorem State.modPart_awlMsgs (s : State) (p : Nat) (f : Part → Part) : (s.modPart p f).awlMsgs = s.awlMsgs := rfl
@[simp] theorem State.modPart_awlReplies (s : State) (p : Nat) (f : Part → Part) : (s.modPart p f).awlReplies = s.awlReplies := rfl
@[simp] theorem State.modPart_errTable (s : State) (p : Nat) (f : Part → Part) : (s.modPart p f).errTable = s.errTable := rfl
@[simp] theorem State.modPart_errNext (s : State) (p : Nat) (f : Part → Part) : (s.modPart p f).errNext = s.errNext := rfl
@[simp] theorem State.modPart_corrected (s : State) (p : Nat) (f : Part → Part) : (s.modPart p f).corrected = s.corrected := rfl
@[simp] theorem State.modPart_selfTests (s : State) (p : Nat) (f : Part → Part) : (s.modPart p f).selfTests = s.selfTests := rfl
@[simp] theorem State.modPart_retiredRows (s : State) (p : Nat) (f : Part → Part) : (s.modPart p f).retiredRows = s.retiredRows := rfl
@[simp] theorem State.modPart_retiredWays (s : State) (p : Nat) (f : Part → Part) : (s.modPart p f).retiredWays = s.retiredWays := rfl
@[simp] theorem State.modPart_retiredFrames (s : State) (p : Nat) (f : Part → Part) : (s.modPart p f).retiredFrames = s.retiredFrames := rfl

/-! ### State.modFunc -/

@[simp] theorem State.modFunc_cur (s : State) (n : Nat) (f : Func → Func) : (s.modFunc n f).cur = s.cur := rfl
@[simp] theorem State.modFunc_agenda (s : State) (n : Nat) (f : Func → Func) : (s.modFunc n f).agenda = s.agenda := rfl
@[simp] theorem State.modFunc_freeCtr (s : State) (n : Nat) (f : Func → Func) : (s.modFunc n f).freeCtr = s.freeCtr := rfl
@[simp] theorem State.modFunc_nextId (s : State) (n : Nat) (f : Func → Func) : (s.modFunc n f).nextId = s.nextId := rfl
@[simp] theorem State.modFunc_plat (s : State) (n : Nat) (f : Func → Func) : (s.modFunc n f).plat = s.plat := rfl
@[simp] theorem State.modFunc_link (s : State) (n : Nat) (f : Func → Func) : (s.modFunc n f).link = s.link := rfl
@[simp] theorem State.modFunc_funcs (s : State) (n : Nat) (f : Func → Func) : (s.modFunc n f).funcs = kmod s.funcs n f := rfl
@[simp] theorem State.modFunc_mbox (s : State) (n : Nat) (f : Func → Func) : (s.modFunc n f).mbox = s.mbox := rfl
@[simp] theorem State.modFunc_sec (s : State) (n : Nat) (f : Func → Func) : (s.modFunc n f).sec = s.sec := rfl
@[simp] theorem State.modFunc_spdm (s : State) (n : Nat) (f : Func → Func) : (s.modFunc n f).spdm = s.spdm := rfl
@[simp] theorem State.modFunc_irqs (s : State) (n : Nat) (f : Func → Func) : (s.modFunc n f).irqs = s.irqs := rfl
@[simp] theorem State.modFunc_hostCpl (s : State) (n : Nat) (f : Func → Func) : (s.modFunc n f).hostCpl = s.hostCpl := rfl
@[simp] theorem State.modFunc_mem (s : State) (n : Nat) (f : Func → Func) : (s.modFunc n f).mem = s.mem := rfl
@[simp] theorem State.modFunc_hostMem (s : State) (n : Nat) (f : Func → Func) : (s.modFunc n f).hostMem = s.hostMem := rfl
@[simp] theorem State.modFunc_hostAbsent (s : State) (n : Nat) (f : Func → Func) : (s.modFunc n f).hostAbsent = s.hostAbsent := rfl
@[simp] theorem State.modFunc_fot (s : State) (n : Nat) (f : Func → Func) : (s.modFunc n f).fot = s.fot := rfl
@[simp] theorem State.modFunc_poisoned (s : State) (n : Nat) (f : Func → Func) : (s.modFunc n f).poisoned = s.poisoned := rfl
@[simp] theorem State.modFunc_lines (s : State) (n : Nat) (f : Func → Func) : (s.modFunc n f).lines = s.lines := rfl
@[simp] theorem State.modFunc_evictOrder (s : State) (n : Nat) (f : Func → Func) : (s.modFunc n f).evictOrder = s.evictOrder := rfl
@[simp] theorem State.modFunc_tlb (s : State) (n : Nat) (f : Func → Func) : (s.modFunc n f).tlb = s.tlb := rfl
@[simp] theorem State.modFunc_frameReads (s : State) (n : Nat) (f : Func → Func) : (s.modFunc n f).frameReads = s.frameReads := rfl
@[simp] theorem State.modFunc_frameWrites (s : State) (n : Nat) (f : Func → Func) : (s.modFunc n f).frameWrites = s.frameWrites := rfl
@[simp] theorem State.modFunc_heldLines (s : State) (n : Nat) (f : Func → Func) : (s.modFunc n f).heldLines = s.heldLines := rfl
@[simp] theorem State.modFunc_stalled (s : State) (n : Nat) (f : Func → Func) : (s.modFunc n f).stalled = s.stalled := rfl
@[simp] theorem State.modFunc_pendingWrites (s : State) (n : Nat) (f : Func → Func) : (s.modFunc n f).pendingWrites = s.pendingWrites := rfl
@[simp] theorem State.modFunc_parts (s : State) (n : Nat) (f : Func → Func) : (s.modFunc n f).parts = s.parts := rfl
@[simp] theorem State.modFunc_ctxs (s : State) (n : Nat) (f : Func → Func) : (s.modFunc n f).ctxs = s.ctxs := rfl
@[simp] theorem State.modFunc_hostCopies (s : State) (n : Nat) (f : Func → Func) : (s.modFunc n f).hostCopies = s.hostCopies := rfl
@[simp] theorem State.modFunc_outs (s : State) (n : Nat) (f : Func → Func) : (s.modFunc n f).outs = s.outs := rfl
@[simp] theorem State.modFunc_launches (s : State) (n : Nat) (f : Func → Func) : (s.modFunc n f).launches = s.launches := rfl
@[simp] theorem State.modFunc_blocks (s : State) (n : Nat) (f : Func → Func) : (s.modFunc n f).blocks = s.blocks := rfl
@[simp] theorem State.modFunc_cores (s : State) (n : Nat) (f : Func → Func) : (s.modFunc n f).cores = s.cores := rfl
@[simp] theorem State.modFunc_groups (s : State) (n : Nat) (f : Func → Func) : (s.modFunc n f).groups = s.groups := rfl
@[simp] theorem State.modFunc_awls (s : State) (n : Nat) (f : Func → Func) : (s.modFunc n f).awls = s.awls := rfl
@[simp] theorem State.modFunc_awlMsgs (s : State) (n : Nat) (f : Func → Func) : (s.modFunc n f).awlMsgs = s.awlMsgs := rfl
@[simp] theorem State.modFunc_awlReplies (s : State) (n : Nat) (f : Func → Func) : (s.modFunc n f).awlReplies = s.awlReplies := rfl
@[simp] theorem State.modFunc_errTable (s : State) (n : Nat) (f : Func → Func) : (s.modFunc n f).errTable = s.errTable := rfl
@[simp] theorem State.modFunc_errNext (s : State) (n : Nat) (f : Func → Func) : (s.modFunc n f).errNext = s.errNext := rfl
@[simp] theorem State.modFunc_corrected (s : State) (n : Nat) (f : Func → Func) : (s.modFunc n f).corrected = s.corrected := rfl
@[simp] theorem State.modFunc_selfTests (s : State) (n : Nat) (f : Func → Func) : (s.modFunc n f).selfTests = s.selfTests := rfl
@[simp] theorem State.modFunc_retiredRows (s : State) (n : Nat) (f : Func → Func) : (s.modFunc n f).retiredRows = s.retiredRows := rfl
@[simp] theorem State.modFunc_retiredWays (s : State) (n : Nat) (f : Func → Func) : (s.modFunc n f).retiredWays = s.retiredWays := rfl
@[simp] theorem State.modFunc_retiredFrames (s : State) (n : Nat) (f : Func → Func) : (s.modFunc n f).retiredFrames = s.retiredFrames := rfl

/-! ### State.modOut -/

@[simp] theorem State.modOut_cur (s : State) (o : Nat) (f : Out → Out) : (s.modOut o f).cur = s.cur := rfl
@[simp] theorem State.modOut_agenda (s : State) (o : Nat) (f : Out → Out) : (s.modOut o f).agenda = s.agenda := rfl
@[simp] theorem State.modOut_freeCtr (s : State) (o : Nat) (f : Out → Out) : (s.modOut o f).freeCtr = s.freeCtr := rfl
@[simp] theorem State.modOut_nextId (s : State) (o : Nat) (f : Out → Out) : (s.modOut o f).nextId = s.nextId := rfl
@[simp] theorem State.modOut_plat (s : State) (o : Nat) (f : Out → Out) : (s.modOut o f).plat = s.plat := rfl
@[simp] theorem State.modOut_link (s : State) (o : Nat) (f : Out → Out) : (s.modOut o f).link = s.link := rfl
@[simp] theorem State.modOut_funcs (s : State) (o : Nat) (f : Out → Out) : (s.modOut o f).funcs = s.funcs := rfl
@[simp] theorem State.modOut_mbox (s : State) (o : Nat) (f : Out → Out) : (s.modOut o f).mbox = s.mbox := rfl
@[simp] theorem State.modOut_sec (s : State) (o : Nat) (f : Out → Out) : (s.modOut o f).sec = s.sec := rfl
@[simp] theorem State.modOut_spdm (s : State) (o : Nat) (f : Out → Out) : (s.modOut o f).spdm = s.spdm := rfl
@[simp] theorem State.modOut_irqs (s : State) (o : Nat) (f : Out → Out) : (s.modOut o f).irqs = s.irqs := rfl
@[simp] theorem State.modOut_hostCpl (s : State) (o : Nat) (f : Out → Out) : (s.modOut o f).hostCpl = s.hostCpl := rfl
@[simp] theorem State.modOut_mem (s : State) (o : Nat) (f : Out → Out) : (s.modOut o f).mem = s.mem := rfl
@[simp] theorem State.modOut_hostMem (s : State) (o : Nat) (f : Out → Out) : (s.modOut o f).hostMem = s.hostMem := rfl
@[simp] theorem State.modOut_hostAbsent (s : State) (o : Nat) (f : Out → Out) : (s.modOut o f).hostAbsent = s.hostAbsent := rfl
@[simp] theorem State.modOut_fot (s : State) (o : Nat) (f : Out → Out) : (s.modOut o f).fot = s.fot := rfl
@[simp] theorem State.modOut_poisoned (s : State) (o : Nat) (f : Out → Out) : (s.modOut o f).poisoned = s.poisoned := rfl
@[simp] theorem State.modOut_lines (s : State) (o : Nat) (f : Out → Out) : (s.modOut o f).lines = s.lines := rfl
@[simp] theorem State.modOut_evictOrder (s : State) (o : Nat) (f : Out → Out) : (s.modOut o f).evictOrder = s.evictOrder := rfl
@[simp] theorem State.modOut_tlb (s : State) (o : Nat) (f : Out → Out) : (s.modOut o f).tlb = s.tlb := rfl
@[simp] theorem State.modOut_frameReads (s : State) (o : Nat) (f : Out → Out) : (s.modOut o f).frameReads = s.frameReads := rfl
@[simp] theorem State.modOut_frameWrites (s : State) (o : Nat) (f : Out → Out) : (s.modOut o f).frameWrites = s.frameWrites := rfl
@[simp] theorem State.modOut_heldLines (s : State) (o : Nat) (f : Out → Out) : (s.modOut o f).heldLines = s.heldLines := rfl
@[simp] theorem State.modOut_stalled (s : State) (o : Nat) (f : Out → Out) : (s.modOut o f).stalled = s.stalled := rfl
@[simp] theorem State.modOut_pendingWrites (s : State) (o : Nat) (f : Out → Out) : (s.modOut o f).pendingWrites = s.pendingWrites := rfl
@[simp] theorem State.modOut_parts (s : State) (o : Nat) (f : Out → Out) : (s.modOut o f).parts = s.parts := rfl
@[simp] theorem State.modOut_ctxs (s : State) (o : Nat) (f : Out → Out) : (s.modOut o f).ctxs = s.ctxs := rfl
@[simp] theorem State.modOut_hostCopies (s : State) (o : Nat) (f : Out → Out) : (s.modOut o f).hostCopies = s.hostCopies := rfl
@[simp] theorem State.modOut_outs (s : State) (o : Nat) (f : Out → Out) : (s.modOut o f).outs = kmod s.outs o f := rfl
@[simp] theorem State.modOut_launches (s : State) (o : Nat) (f : Out → Out) : (s.modOut o f).launches = s.launches := rfl
@[simp] theorem State.modOut_blocks (s : State) (o : Nat) (f : Out → Out) : (s.modOut o f).blocks = s.blocks := rfl
@[simp] theorem State.modOut_cores (s : State) (o : Nat) (f : Out → Out) : (s.modOut o f).cores = s.cores := rfl
@[simp] theorem State.modOut_groups (s : State) (o : Nat) (f : Out → Out) : (s.modOut o f).groups = s.groups := rfl
@[simp] theorem State.modOut_awls (s : State) (o : Nat) (f : Out → Out) : (s.modOut o f).awls = s.awls := rfl
@[simp] theorem State.modOut_awlMsgs (s : State) (o : Nat) (f : Out → Out) : (s.modOut o f).awlMsgs = s.awlMsgs := rfl
@[simp] theorem State.modOut_awlReplies (s : State) (o : Nat) (f : Out → Out) : (s.modOut o f).awlReplies = s.awlReplies := rfl
@[simp] theorem State.modOut_errTable (s : State) (o : Nat) (f : Out → Out) : (s.modOut o f).errTable = s.errTable := rfl
@[simp] theorem State.modOut_errNext (s : State) (o : Nat) (f : Out → Out) : (s.modOut o f).errNext = s.errNext := rfl
@[simp] theorem State.modOut_corrected (s : State) (o : Nat) (f : Out → Out) : (s.modOut o f).corrected = s.corrected := rfl
@[simp] theorem State.modOut_selfTests (s : State) (o : Nat) (f : Out → Out) : (s.modOut o f).selfTests = s.selfTests := rfl
@[simp] theorem State.modOut_retiredRows (s : State) (o : Nat) (f : Out → Out) : (s.modOut o f).retiredRows = s.retiredRows := rfl
@[simp] theorem State.modOut_retiredWays (s : State) (o : Nat) (f : Out → Out) : (s.modOut o f).retiredWays = s.retiredWays := rfl
@[simp] theorem State.modOut_retiredFrames (s : State) (o : Nat) (f : Out → Out) : (s.modOut o f).retiredFrames = s.retiredFrames := rfl

/-! ### State.modAwl -/

@[simp] theorem State.modAwl_cur (s : State) (n : Nat) (f : Awl → Awl) : (s.modAwl n f).cur = s.cur := rfl
@[simp] theorem State.modAwl_agenda (s : State) (n : Nat) (f : Awl → Awl) : (s.modAwl n f).agenda = s.agenda := rfl
@[simp] theorem State.modAwl_freeCtr (s : State) (n : Nat) (f : Awl → Awl) : (s.modAwl n f).freeCtr = s.freeCtr := rfl
@[simp] theorem State.modAwl_nextId (s : State) (n : Nat) (f : Awl → Awl) : (s.modAwl n f).nextId = s.nextId := rfl
@[simp] theorem State.modAwl_plat (s : State) (n : Nat) (f : Awl → Awl) : (s.modAwl n f).plat = s.plat := rfl
@[simp] theorem State.modAwl_link (s : State) (n : Nat) (f : Awl → Awl) : (s.modAwl n f).link = s.link := rfl
@[simp] theorem State.modAwl_funcs (s : State) (n : Nat) (f : Awl → Awl) : (s.modAwl n f).funcs = s.funcs := rfl
@[simp] theorem State.modAwl_mbox (s : State) (n : Nat) (f : Awl → Awl) : (s.modAwl n f).mbox = s.mbox := rfl
@[simp] theorem State.modAwl_sec (s : State) (n : Nat) (f : Awl → Awl) : (s.modAwl n f).sec = s.sec := rfl
@[simp] theorem State.modAwl_spdm (s : State) (n : Nat) (f : Awl → Awl) : (s.modAwl n f).spdm = s.spdm := rfl
@[simp] theorem State.modAwl_irqs (s : State) (n : Nat) (f : Awl → Awl) : (s.modAwl n f).irqs = s.irqs := rfl
@[simp] theorem State.modAwl_hostCpl (s : State) (n : Nat) (f : Awl → Awl) : (s.modAwl n f).hostCpl = s.hostCpl := rfl
@[simp] theorem State.modAwl_mem (s : State) (n : Nat) (f : Awl → Awl) : (s.modAwl n f).mem = s.mem := rfl
@[simp] theorem State.modAwl_hostMem (s : State) (n : Nat) (f : Awl → Awl) : (s.modAwl n f).hostMem = s.hostMem := rfl
@[simp] theorem State.modAwl_hostAbsent (s : State) (n : Nat) (f : Awl → Awl) : (s.modAwl n f).hostAbsent = s.hostAbsent := rfl
@[simp] theorem State.modAwl_fot (s : State) (n : Nat) (f : Awl → Awl) : (s.modAwl n f).fot = s.fot := rfl
@[simp] theorem State.modAwl_poisoned (s : State) (n : Nat) (f : Awl → Awl) : (s.modAwl n f).poisoned = s.poisoned := rfl
@[simp] theorem State.modAwl_lines (s : State) (n : Nat) (f : Awl → Awl) : (s.modAwl n f).lines = s.lines := rfl
@[simp] theorem State.modAwl_evictOrder (s : State) (n : Nat) (f : Awl → Awl) : (s.modAwl n f).evictOrder = s.evictOrder := rfl
@[simp] theorem State.modAwl_tlb (s : State) (n : Nat) (f : Awl → Awl) : (s.modAwl n f).tlb = s.tlb := rfl
@[simp] theorem State.modAwl_frameReads (s : State) (n : Nat) (f : Awl → Awl) : (s.modAwl n f).frameReads = s.frameReads := rfl
@[simp] theorem State.modAwl_frameWrites (s : State) (n : Nat) (f : Awl → Awl) : (s.modAwl n f).frameWrites = s.frameWrites := rfl
@[simp] theorem State.modAwl_heldLines (s : State) (n : Nat) (f : Awl → Awl) : (s.modAwl n f).heldLines = s.heldLines := rfl
@[simp] theorem State.modAwl_stalled (s : State) (n : Nat) (f : Awl → Awl) : (s.modAwl n f).stalled = s.stalled := rfl
@[simp] theorem State.modAwl_pendingWrites (s : State) (n : Nat) (f : Awl → Awl) : (s.modAwl n f).pendingWrites = s.pendingWrites := rfl
@[simp] theorem State.modAwl_parts (s : State) (n : Nat) (f : Awl → Awl) : (s.modAwl n f).parts = s.parts := rfl
@[simp] theorem State.modAwl_ctxs (s : State) (n : Nat) (f : Awl → Awl) : (s.modAwl n f).ctxs = s.ctxs := rfl
@[simp] theorem State.modAwl_hostCopies (s : State) (n : Nat) (f : Awl → Awl) : (s.modAwl n f).hostCopies = s.hostCopies := rfl
@[simp] theorem State.modAwl_outs (s : State) (n : Nat) (f : Awl → Awl) : (s.modAwl n f).outs = s.outs := rfl
@[simp] theorem State.modAwl_launches (s : State) (n : Nat) (f : Awl → Awl) : (s.modAwl n f).launches = s.launches := rfl
@[simp] theorem State.modAwl_blocks (s : State) (n : Nat) (f : Awl → Awl) : (s.modAwl n f).blocks = s.blocks := rfl
@[simp] theorem State.modAwl_cores (s : State) (n : Nat) (f : Awl → Awl) : (s.modAwl n f).cores = s.cores := rfl
@[simp] theorem State.modAwl_groups (s : State) (n : Nat) (f : Awl → Awl) : (s.modAwl n f).groups = s.groups := rfl
@[simp] theorem State.modAwl_awls (s : State) (n : Nat) (f : Awl → Awl) : (s.modAwl n f).awls = kmod s.awls n f := rfl
@[simp] theorem State.modAwl_awlMsgs (s : State) (n : Nat) (f : Awl → Awl) : (s.modAwl n f).awlMsgs = s.awlMsgs := rfl
@[simp] theorem State.modAwl_awlReplies (s : State) (n : Nat) (f : Awl → Awl) : (s.modAwl n f).awlReplies = s.awlReplies := rfl
@[simp] theorem State.modAwl_errTable (s : State) (n : Nat) (f : Awl → Awl) : (s.modAwl n f).errTable = s.errTable := rfl
@[simp] theorem State.modAwl_errNext (s : State) (n : Nat) (f : Awl → Awl) : (s.modAwl n f).errNext = s.errNext := rfl
@[simp] theorem State.modAwl_corrected (s : State) (n : Nat) (f : Awl → Awl) : (s.modAwl n f).corrected = s.corrected := rfl
@[simp] theorem State.modAwl_selfTests (s : State) (n : Nat) (f : Awl → Awl) : (s.modAwl n f).selfTests = s.selfTests := rfl
@[simp] theorem State.modAwl_retiredRows (s : State) (n : Nat) (f : Awl → Awl) : (s.modAwl n f).retiredRows = s.retiredRows := rfl
@[simp] theorem State.modAwl_retiredWays (s : State) (n : Nat) (f : Awl → Awl) : (s.modAwl n f).retiredWays = s.retiredWays := rfl
@[simp] theorem State.modAwl_retiredFrames (s : State) (n : Nat) (f : Awl → Awl) : (s.modAwl n f).retiredFrames = s.retiredFrames := rfl

/-! ### State.skip -/

@[simp] theorem State.skip_cur (s : State) (n : Nat) : (s.skip n).cur = s.cur := rfl
@[simp] theorem State.skip_agenda (s : State) (n : Nat) : (s.skip n).agenda = s.agenda := rfl
@[simp] theorem State.skip_freeCtr (s : State) (n : Nat) : (s.skip n).freeCtr = s.freeCtr + n := rfl
@[simp] theorem State.skip_nextId (s : State) (n : Nat) : (s.skip n).nextId = s.nextId := rfl
@[simp] theorem State.skip_plat (s : State) (n : Nat) : (s.skip n).plat = s.plat := rfl
@[simp] theorem State.skip_link (s : State) (n : Nat) : (s.skip n).link = s.link := rfl
@[simp] theorem State.skip_funcs (s : State) (n : Nat) : (s.skip n).funcs = s.funcs := rfl
@[simp] theorem State.skip_mbox (s : State) (n : Nat) : (s.skip n).mbox = s.mbox := rfl
@[simp] theorem State.skip_sec (s : State) (n : Nat) : (s.skip n).sec = s.sec := rfl
@[simp] theorem State.skip_spdm (s : State) (n : Nat) : (s.skip n).spdm = s.spdm := rfl
@[simp] theorem State.skip_irqs (s : State) (n : Nat) : (s.skip n).irqs = s.irqs := rfl
@[simp] theorem State.skip_hostCpl (s : State) (n : Nat) : (s.skip n).hostCpl = s.hostCpl := rfl
@[simp] theorem State.skip_mem (s : State) (n : Nat) : (s.skip n).mem = s.mem := rfl
@[simp] theorem State.skip_hostMem (s : State) (n : Nat) : (s.skip n).hostMem = s.hostMem := rfl
@[simp] theorem State.skip_hostAbsent (s : State) (n : Nat) : (s.skip n).hostAbsent = s.hostAbsent := rfl
@[simp] theorem State.skip_fot (s : State) (n : Nat) : (s.skip n).fot = s.fot := rfl
@[simp] theorem State.skip_poisoned (s : State) (n : Nat) : (s.skip n).poisoned = s.poisoned := rfl
@[simp] theorem State.skip_lines (s : State) (n : Nat) : (s.skip n).lines = s.lines := rfl
@[simp] theorem State.skip_evictOrder (s : State) (n : Nat) : (s.skip n).evictOrder = s.evictOrder := rfl
@[simp] theorem State.skip_tlb (s : State) (n : Nat) : (s.skip n).tlb = s.tlb := rfl
@[simp] theorem State.skip_frameReads (s : State) (n : Nat) : (s.skip n).frameReads = s.frameReads := rfl
@[simp] theorem State.skip_frameWrites (s : State) (n : Nat) : (s.skip n).frameWrites = s.frameWrites := rfl
@[simp] theorem State.skip_heldLines (s : State) (n : Nat) : (s.skip n).heldLines = s.heldLines := rfl
@[simp] theorem State.skip_stalled (s : State) (n : Nat) : (s.skip n).stalled = s.stalled := rfl
@[simp] theorem State.skip_pendingWrites (s : State) (n : Nat) : (s.skip n).pendingWrites = s.pendingWrites := rfl
@[simp] theorem State.skip_parts (s : State) (n : Nat) : (s.skip n).parts = s.parts := rfl
@[simp] theorem State.skip_ctxs (s : State) (n : Nat) : (s.skip n).ctxs = s.ctxs := rfl
@[simp] theorem State.skip_hostCopies (s : State) (n : Nat) : (s.skip n).hostCopies = s.hostCopies := rfl
@[simp] theorem State.skip_outs (s : State) (n : Nat) : (s.skip n).outs = s.outs := rfl
@[simp] theorem State.skip_launches (s : State) (n : Nat) : (s.skip n).launches = s.launches := rfl
@[simp] theorem State.skip_blocks (s : State) (n : Nat) : (s.skip n).blocks = s.blocks := rfl
@[simp] theorem State.skip_cores (s : State) (n : Nat) : (s.skip n).cores = s.cores := rfl
@[simp] theorem State.skip_groups (s : State) (n : Nat) : (s.skip n).groups = s.groups := rfl
@[simp] theorem State.skip_awls (s : State) (n : Nat) : (s.skip n).awls = s.awls := rfl
@[simp] theorem State.skip_awlMsgs (s : State) (n : Nat) : (s.skip n).awlMsgs = s.awlMsgs := rfl
@[simp] theorem State.skip_awlReplies (s : State) (n : Nat) : (s.skip n).awlReplies = s.awlReplies := rfl
@[simp] theorem State.skip_errTable (s : State) (n : Nat) : (s.skip n).errTable = s.errTable := rfl
@[simp] theorem State.skip_errNext (s : State) (n : Nat) : (s.skip n).errNext = s.errNext := rfl
@[simp] theorem State.skip_corrected (s : State) (n : Nat) : (s.skip n).corrected = s.corrected := rfl
@[simp] theorem State.skip_selfTests (s : State) (n : Nat) : (s.skip n).selfTests = s.selfTests := rfl
@[simp] theorem State.skip_retiredRows (s : State) (n : Nat) : (s.skip n).retiredRows = s.retiredRows := rfl
@[simp] theorem State.skip_retiredWays (s : State) (n : Nat) : (s.skip n).retiredWays = s.retiredWays := rfl
@[simp] theorem State.skip_retiredFrames (s : State) (n : Nat) : (s.skip n).retiredFrames = s.retiredFrames := rfl

/-! ### State.writeMem -/

@[simp] theorem State.writeMem_cur (s : State) (a : Nat) (l : List Byte) : (s.writeMem a l).cur = s.cur := rfl
@[simp] theorem State.writeMem_agenda (s : State) (a : Nat) (l : List Byte) : (s.writeMem a l).agenda = s.agenda := rfl
@[simp] theorem State.writeMem_freeCtr (s : State) (a : Nat) (l : List Byte) : (s.writeMem a l).freeCtr = s.freeCtr := rfl
@[simp] theorem State.writeMem_nextId (s : State) (a : Nat) (l : List Byte) : (s.writeMem a l).nextId = s.nextId := rfl
@[simp] theorem State.writeMem_plat (s : State) (a : Nat) (l : List Byte) : (s.writeMem a l).plat = s.plat := rfl
@[simp] theorem State.writeMem_link (s : State) (a : Nat) (l : List Byte) : (s.writeMem a l).link = s.link := rfl
@[simp] theorem State.writeMem_funcs (s : State) (a : Nat) (l : List Byte) : (s.writeMem a l).funcs = s.funcs := rfl
@[simp] theorem State.writeMem_mbox (s : State) (a : Nat) (l : List Byte) : (s.writeMem a l).mbox = s.mbox := rfl
@[simp] theorem State.writeMem_sec (s : State) (a : Nat) (l : List Byte) : (s.writeMem a l).sec = s.sec := rfl
@[simp] theorem State.writeMem_spdm (s : State) (a : Nat) (l : List Byte) : (s.writeMem a l).spdm = s.spdm := rfl
@[simp] theorem State.writeMem_irqs (s : State) (a : Nat) (l : List Byte) : (s.writeMem a l).irqs = s.irqs := rfl
@[simp] theorem State.writeMem_hostCpl (s : State) (a : Nat) (l : List Byte) : (s.writeMem a l).hostCpl = s.hostCpl := rfl
@[simp] theorem State.writeMem_mem (s : State) (a : Nat) (l : List Byte) : (s.writeMem a l).mem = setBytes s.mem a l := rfl
@[simp] theorem State.writeMem_hostMem (s : State) (a : Nat) (l : List Byte) : (s.writeMem a l).hostMem = s.hostMem := rfl
@[simp] theorem State.writeMem_hostAbsent (s : State) (a : Nat) (l : List Byte) : (s.writeMem a l).hostAbsent = s.hostAbsent := rfl
@[simp] theorem State.writeMem_fot (s : State) (a : Nat) (l : List Byte) : (s.writeMem a l).fot = s.fot := rfl
@[simp] theorem State.writeMem_poisoned (s : State) (a : Nat) (l : List Byte) : (s.writeMem a l).poisoned = s.poisoned := rfl
@[simp] theorem State.writeMem_lines (s : State) (a : Nat) (l : List Byte) : (s.writeMem a l).lines = s.lines := rfl
@[simp] theorem State.writeMem_evictOrder (s : State) (a : Nat) (l : List Byte) : (s.writeMem a l).evictOrder = s.evictOrder := rfl
@[simp] theorem State.writeMem_tlb (s : State) (a : Nat) (l : List Byte) : (s.writeMem a l).tlb = s.tlb := rfl
@[simp] theorem State.writeMem_frameReads (s : State) (a : Nat) (l : List Byte) : (s.writeMem a l).frameReads = s.frameReads := rfl
@[simp] theorem State.writeMem_frameWrites (s : State) (a : Nat) (l : List Byte) : (s.writeMem a l).frameWrites = s.frameWrites := rfl
@[simp] theorem State.writeMem_heldLines (s : State) (a : Nat) (l : List Byte) : (s.writeMem a l).heldLines = s.heldLines := rfl
@[simp] theorem State.writeMem_stalled (s : State) (a : Nat) (l : List Byte) : (s.writeMem a l).stalled = s.stalled := rfl
@[simp] theorem State.writeMem_pendingWrites (s : State) (a : Nat) (l : List Byte) : (s.writeMem a l).pendingWrites = s.pendingWrites := rfl
@[simp] theorem State.writeMem_parts (s : State) (a : Nat) (l : List Byte) : (s.writeMem a l).parts = s.parts := rfl
@[simp] theorem State.writeMem_ctxs (s : State) (a : Nat) (l : List Byte) : (s.writeMem a l).ctxs = s.ctxs := rfl
@[simp] theorem State.writeMem_hostCopies (s : State) (a : Nat) (l : List Byte) : (s.writeMem a l).hostCopies = s.hostCopies := rfl
@[simp] theorem State.writeMem_outs (s : State) (a : Nat) (l : List Byte) : (s.writeMem a l).outs = s.outs := rfl
@[simp] theorem State.writeMem_launches (s : State) (a : Nat) (l : List Byte) : (s.writeMem a l).launches = s.launches := rfl
@[simp] theorem State.writeMem_blocks (s : State) (a : Nat) (l : List Byte) : (s.writeMem a l).blocks = s.blocks := rfl
@[simp] theorem State.writeMem_cores (s : State) (a : Nat) (l : List Byte) : (s.writeMem a l).cores = s.cores := rfl
@[simp] theorem State.writeMem_groups (s : State) (a : Nat) (l : List Byte) : (s.writeMem a l).groups = s.groups := rfl
@[simp] theorem State.writeMem_awls (s : State) (a : Nat) (l : List Byte) : (s.writeMem a l).awls = s.awls := rfl
@[simp] theorem State.writeMem_awlMsgs (s : State) (a : Nat) (l : List Byte) : (s.writeMem a l).awlMsgs = s.awlMsgs := rfl
@[simp] theorem State.writeMem_awlReplies (s : State) (a : Nat) (l : List Byte) : (s.writeMem a l).awlReplies = s.awlReplies := rfl
@[simp] theorem State.writeMem_errTable (s : State) (a : Nat) (l : List Byte) : (s.writeMem a l).errTable = s.errTable := rfl
@[simp] theorem State.writeMem_errNext (s : State) (a : Nat) (l : List Byte) : (s.writeMem a l).errNext = s.errNext := rfl
@[simp] theorem State.writeMem_corrected (s : State) (a : Nat) (l : List Byte) : (s.writeMem a l).corrected = s.corrected := rfl
@[simp] theorem State.writeMem_selfTests (s : State) (a : Nat) (l : List Byte) : (s.writeMem a l).selfTests = s.selfTests := rfl
@[simp] theorem State.writeMem_retiredRows (s : State) (a : Nat) (l : List Byte) : (s.writeMem a l).retiredRows = s.retiredRows := rfl
@[simp] theorem State.writeMem_retiredWays (s : State) (a : Nat) (l : List Byte) : (s.writeMem a l).retiredWays = s.retiredWays := rfl
@[simp] theorem State.writeMem_retiredFrames (s : State) (a : Nat) (l : List Byte) : (s.writeMem a l).retiredFrames = s.retiredFrames := rfl

/-! ### State.setFot -/

@[simp] theorem State.setFot_cur (s : State) (n : Nat) (v : Byte) : (s.setFot n v).cur = s.cur := rfl
@[simp] theorem State.setFot_agenda (s : State) (n : Nat) (v : Byte) : (s.setFot n v).agenda = s.agenda := rfl
@[simp] theorem State.setFot_freeCtr (s : State) (n : Nat) (v : Byte) : (s.setFot n v).freeCtr = s.freeCtr := rfl
@[simp] theorem State.setFot_nextId (s : State) (n : Nat) (v : Byte) : (s.setFot n v).nextId = s.nextId := rfl
@[simp] theorem State.setFot_plat (s : State) (n : Nat) (v : Byte) : (s.setFot n v).plat = s.plat := rfl
@[simp] theorem State.setFot_link (s : State) (n : Nat) (v : Byte) : (s.setFot n v).link = s.link := rfl
@[simp] theorem State.setFot_funcs (s : State) (n : Nat) (v : Byte) : (s.setFot n v).funcs = s.funcs := rfl
@[simp] theorem State.setFot_mbox (s : State) (n : Nat) (v : Byte) : (s.setFot n v).mbox = s.mbox := rfl
@[simp] theorem State.setFot_sec (s : State) (n : Nat) (v : Byte) : (s.setFot n v).sec = s.sec := rfl
@[simp] theorem State.setFot_spdm (s : State) (n : Nat) (v : Byte) : (s.setFot n v).spdm = s.spdm := rfl
@[simp] theorem State.setFot_irqs (s : State) (n : Nat) (v : Byte) : (s.setFot n v).irqs = s.irqs := rfl
@[simp] theorem State.setFot_hostCpl (s : State) (n : Nat) (v : Byte) : (s.setFot n v).hostCpl = s.hostCpl := rfl
@[simp] theorem State.setFot_mem (s : State) (n : Nat) (v : Byte) : (s.setFot n v).mem = s.mem := rfl
@[simp] theorem State.setFot_hostMem (s : State) (n : Nat) (v : Byte) : (s.setFot n v).hostMem = s.hostMem := rfl
@[simp] theorem State.setFot_hostAbsent (s : State) (n : Nat) (v : Byte) : (s.setFot n v).hostAbsent = s.hostAbsent := rfl
@[simp] theorem State.setFot_fot (s : State) (n : Nat) (v : Byte) : (s.setFot n v).fot = sset s.fot n (v ^^^ 0x1F#8) := rfl
@[simp] theorem State.setFot_poisoned (s : State) (n : Nat) (v : Byte) : (s.setFot n v).poisoned = s.poisoned := rfl
@[simp] theorem State.setFot_lines (s : State) (n : Nat) (v : Byte) : (s.setFot n v).lines = s.lines := rfl
@[simp] theorem State.setFot_evictOrder (s : State) (n : Nat) (v : Byte) : (s.setFot n v).evictOrder = s.evictOrder := rfl
@[simp] theorem State.setFot_tlb (s : State) (n : Nat) (v : Byte) : (s.setFot n v).tlb = s.tlb := rfl
@[simp] theorem State.setFot_frameReads (s : State) (n : Nat) (v : Byte) : (s.setFot n v).frameReads = s.frameReads := rfl
@[simp] theorem State.setFot_frameWrites (s : State) (n : Nat) (v : Byte) : (s.setFot n v).frameWrites = s.frameWrites := rfl
@[simp] theorem State.setFot_heldLines (s : State) (n : Nat) (v : Byte) : (s.setFot n v).heldLines = s.heldLines := rfl
@[simp] theorem State.setFot_stalled (s : State) (n : Nat) (v : Byte) : (s.setFot n v).stalled = s.stalled := rfl
@[simp] theorem State.setFot_pendingWrites (s : State) (n : Nat) (v : Byte) : (s.setFot n v).pendingWrites = s.pendingWrites := rfl
@[simp] theorem State.setFot_parts (s : State) (n : Nat) (v : Byte) : (s.setFot n v).parts = s.parts := rfl
@[simp] theorem State.setFot_ctxs (s : State) (n : Nat) (v : Byte) : (s.setFot n v).ctxs = s.ctxs := rfl
@[simp] theorem State.setFot_hostCopies (s : State) (n : Nat) (v : Byte) : (s.setFot n v).hostCopies = s.hostCopies := rfl
@[simp] theorem State.setFot_outs (s : State) (n : Nat) (v : Byte) : (s.setFot n v).outs = s.outs := rfl
@[simp] theorem State.setFot_launches (s : State) (n : Nat) (v : Byte) : (s.setFot n v).launches = s.launches := rfl
@[simp] theorem State.setFot_blocks (s : State) (n : Nat) (v : Byte) : (s.setFot n v).blocks = s.blocks := rfl
@[simp] theorem State.setFot_cores (s : State) (n : Nat) (v : Byte) : (s.setFot n v).cores = s.cores := rfl
@[simp] theorem State.setFot_groups (s : State) (n : Nat) (v : Byte) : (s.setFot n v).groups = s.groups := rfl
@[simp] theorem State.setFot_awls (s : State) (n : Nat) (v : Byte) : (s.setFot n v).awls = s.awls := rfl
@[simp] theorem State.setFot_awlMsgs (s : State) (n : Nat) (v : Byte) : (s.setFot n v).awlMsgs = s.awlMsgs := rfl
@[simp] theorem State.setFot_awlReplies (s : State) (n : Nat) (v : Byte) : (s.setFot n v).awlReplies = s.awlReplies := rfl
@[simp] theorem State.setFot_errTable (s : State) (n : Nat) (v : Byte) : (s.setFot n v).errTable = s.errTable := rfl
@[simp] theorem State.setFot_errNext (s : State) (n : Nat) (v : Byte) : (s.setFot n v).errNext = s.errNext := rfl
@[simp] theorem State.setFot_corrected (s : State) (n : Nat) (v : Byte) : (s.setFot n v).corrected = s.corrected := rfl
@[simp] theorem State.setFot_selfTests (s : State) (n : Nat) (v : Byte) : (s.setFot n v).selfTests = s.selfTests := rfl
@[simp] theorem State.setFot_retiredRows (s : State) (n : Nat) (v : Byte) : (s.setFot n v).retiredRows = s.retiredRows := rfl
@[simp] theorem State.setFot_retiredWays (s : State) (n : Nat) (v : Byte) : (s.setFot n v).retiredWays = s.retiredWays := rfl
@[simp] theorem State.setFot_retiredFrames (s : State) (n : Nat) (v : Byte) : (s.setFot n v).retiredFrames = s.retiredFrames := rfl

/-! ### State.keepTlb -/

@[simp] theorem State.keepTlb_cur (s : State) (l : List Tlb) : (s.keepTlb l).cur = s.cur := rfl
@[simp] theorem State.keepTlb_agenda (s : State) (l : List Tlb) : (s.keepTlb l).agenda = s.agenda := rfl
@[simp] theorem State.keepTlb_freeCtr (s : State) (l : List Tlb) : (s.keepTlb l).freeCtr = s.freeCtr := rfl
@[simp] theorem State.keepTlb_nextId (s : State) (l : List Tlb) : (s.keepTlb l).nextId = s.nextId := rfl
@[simp] theorem State.keepTlb_plat (s : State) (l : List Tlb) : (s.keepTlb l).plat = s.plat := rfl
@[simp] theorem State.keepTlb_link (s : State) (l : List Tlb) : (s.keepTlb l).link = s.link := rfl
@[simp] theorem State.keepTlb_funcs (s : State) (l : List Tlb) : (s.keepTlb l).funcs = s.funcs := rfl
@[simp] theorem State.keepTlb_mbox (s : State) (l : List Tlb) : (s.keepTlb l).mbox = s.mbox := rfl
@[simp] theorem State.keepTlb_sec (s : State) (l : List Tlb) : (s.keepTlb l).sec = s.sec := rfl
@[simp] theorem State.keepTlb_spdm (s : State) (l : List Tlb) : (s.keepTlb l).spdm = s.spdm := rfl
@[simp] theorem State.keepTlb_irqs (s : State) (l : List Tlb) : (s.keepTlb l).irqs = s.irqs := rfl
@[simp] theorem State.keepTlb_hostCpl (s : State) (l : List Tlb) : (s.keepTlb l).hostCpl = s.hostCpl := rfl
@[simp] theorem State.keepTlb_mem (s : State) (l : List Tlb) : (s.keepTlb l).mem = s.mem := rfl
@[simp] theorem State.keepTlb_hostMem (s : State) (l : List Tlb) : (s.keepTlb l).hostMem = s.hostMem := rfl
@[simp] theorem State.keepTlb_hostAbsent (s : State) (l : List Tlb) : (s.keepTlb l).hostAbsent = s.hostAbsent := rfl
@[simp] theorem State.keepTlb_fot (s : State) (l : List Tlb) : (s.keepTlb l).fot = s.fot := rfl
@[simp] theorem State.keepTlb_poisoned (s : State) (l : List Tlb) : (s.keepTlb l).poisoned = s.poisoned := rfl
@[simp] theorem State.keepTlb_lines (s : State) (l : List Tlb) : (s.keepTlb l).lines = s.lines := rfl
@[simp] theorem State.keepTlb_evictOrder (s : State) (l : List Tlb) : (s.keepTlb l).evictOrder = s.evictOrder := rfl
@[simp] theorem State.keepTlb_tlb (s : State) (l : List Tlb) : (s.keepTlb l).tlb = s.tlb ++ l.filter fun t => !s.tlb.contains t := rfl
@[simp] theorem State.keepTlb_frameReads (s : State) (l : List Tlb) : (s.keepTlb l).frameReads = s.frameReads := rfl
@[simp] theorem State.keepTlb_frameWrites (s : State) (l : List Tlb) : (s.keepTlb l).frameWrites = s.frameWrites := rfl
@[simp] theorem State.keepTlb_heldLines (s : State) (l : List Tlb) : (s.keepTlb l).heldLines = s.heldLines := rfl
@[simp] theorem State.keepTlb_stalled (s : State) (l : List Tlb) : (s.keepTlb l).stalled = s.stalled := rfl
@[simp] theorem State.keepTlb_pendingWrites (s : State) (l : List Tlb) : (s.keepTlb l).pendingWrites = s.pendingWrites := rfl
@[simp] theorem State.keepTlb_parts (s : State) (l : List Tlb) : (s.keepTlb l).parts = s.parts := rfl
@[simp] theorem State.keepTlb_ctxs (s : State) (l : List Tlb) : (s.keepTlb l).ctxs = s.ctxs := rfl
@[simp] theorem State.keepTlb_hostCopies (s : State) (l : List Tlb) : (s.keepTlb l).hostCopies = s.hostCopies := rfl
@[simp] theorem State.keepTlb_outs (s : State) (l : List Tlb) : (s.keepTlb l).outs = s.outs := rfl
@[simp] theorem State.keepTlb_launches (s : State) (l : List Tlb) : (s.keepTlb l).launches = s.launches := rfl
@[simp] theorem State.keepTlb_blocks (s : State) (l : List Tlb) : (s.keepTlb l).blocks = s.blocks := rfl
@[simp] theorem State.keepTlb_cores (s : State) (l : List Tlb) : (s.keepTlb l).cores = s.cores := rfl
@[simp] theorem State.keepTlb_groups (s : State) (l : List Tlb) : (s.keepTlb l).groups = s.groups := rfl
@[simp] theorem State.keepTlb_awls (s : State) (l : List Tlb) : (s.keepTlb l).awls = s.awls := rfl
@[simp] theorem State.keepTlb_awlMsgs (s : State) (l : List Tlb) : (s.keepTlb l).awlMsgs = s.awlMsgs := rfl
@[simp] theorem State.keepTlb_awlReplies (s : State) (l : List Tlb) : (s.keepTlb l).awlReplies = s.awlReplies := rfl
@[simp] theorem State.keepTlb_errTable (s : State) (l : List Tlb) : (s.keepTlb l).errTable = s.errTable := rfl
@[simp] theorem State.keepTlb_errNext (s : State) (l : List Tlb) : (s.keepTlb l).errNext = s.errNext := rfl
@[simp] theorem State.keepTlb_corrected (s : State) (l : List Tlb) : (s.keepTlb l).corrected = s.corrected := rfl
@[simp] theorem State.keepTlb_selfTests (s : State) (l : List Tlb) : (s.keepTlb l).selfTests = s.selfTests := rfl
@[simp] theorem State.keepTlb_retiredRows (s : State) (l : List Tlb) : (s.keepTlb l).retiredRows = s.retiredRows := rfl
@[simp] theorem State.keepTlb_retiredWays (s : State) (l : List Tlb) : (s.keepTlb l).retiredWays = s.retiredWays := rfl
@[simp] theorem State.keepTlb_retiredFrames (s : State) (l : List Tlb) : (s.keepTlb l).retiredFrames = s.retiredFrames := rfl

end Sys2Proof.Machine
end

