-- ==== Sys2Proof/Laws/Access.lean ====
section
/-! SUPPORT. What an access reads of the state, and what it leaves alone. -/
namespace Sys2Proof.Machine

/-- Two states that translate and check an access alike. -/
structure SameMap (s t : State) : Prop where
  ctxs : s.ctxs = t.ctxs
  parts : s.parts = t.parts
  plat : s.plat = t.plat
  mem : s.mem = t.mem
  fot : s.fot = t.fot
  tlb : s.tlb = t.tlb
  poisoned : s.poisoned = t.poisoned
  hostAbsent : s.hostAbsent = t.hostAbsent

theorem SameMap.refl (s : State) : SameMap s s := ⟨rfl, rfl, rfl, rfl, rfl, rfl, rfl, rfl⟩
theorem SameMap.trans {s t u : State} (h : SameMap s t) (k : SameMap t u) : SameMap s u :=
  ⟨h.1.trans k.1, h.2.trans k.2, h.3.trans k.3, h.4.trans k.4, h.5.trans k.5, h.6.trans k.6, h.7.trans k.7, h.8.trans k.8⟩

theorem SameMap.backed {s t : State} (h : SameMap s t) (pa : Nat) : s.backed pa = t.backed pa := by
  unfold State.backed State.stackBytes
  rw [h.plat]

theorem SameMap.fotEntry {s t : State} (h : SameMap s t) (n : Nat) : s.fotEntry n = t.fotEntry n := by simp only [State.fotEntry, h.fot]

theorem SameMap.inFot {s t : State} (h : SameMap s t) (pa : Nat) : s.inFot pa = t.inFot pa := by
  unfold State.inFot State.fotFrames
  rw [h.plat]

theorem SameMap.mayRead {s t : State} (h : SameMap s t) (p pa : Nat) : s.mayRead p pa = t.mayRead p pa := by
  simp only [State.mayRead, h.inFot, h.fotEntry]

theorem SameMap.mayWrite {s t : State} (h : SameMap s t) (p pa : Nat) : s.mayWrite p pa = t.mayWrite p pa := by
  simp only [State.mayWrite, h.inFot, h.fotEntry]

theorem SameMap.isPoisoned {s t : State} (h : SameMap s t) (pa : Nat) : s.isPoisoned pa = t.isPoisoned pa := by
  simp only [State.isPoisoned, h.fotEntry, h.poisoned]

theorem SameMap.entryAt {s t : State} (h : SameMap s t) (n : Nat) (id : EntryId) (pa : Nat) : s.entryAt n id pa = t.entryAt n id pa := by
  simp only [State.entryAt, State.readMem, h.tlb, h.mem]

theorem SameMap.tlbOf {s t : State} (h : SameMap s t) (id j : EntryId) (l : List EntryId) (e : DWord) : s.tlbOf id j l e = t.tlbOf id j l e := by
  simp only [State.tlbOf, h.tlb]

theorem SameMap.walk2 {s t : State} (h : SameMap s t) (n p ipa : Nat) (l : List Nat) (tb : Nat) : s.walk2 n p ipa l tb = t.walk2 n p ipa l tb := by
  induction l generalizing tb with
  | nil => rfl
  | cons a r ih => simp only [State.walk2, h.backed, h.mayRead, h.entryAt, h.tlbOf, ih]

theorem SameMap.part {s t : State} (h : SameMap s t) (p : Nat) : s.part p = t.part p := by simp only [State.part, h.parts]
theorem SameMap.ctx {s t : State} (h : SameMap s t) (c : Nat) : s.ctx c = t.ctx c := by simp only [State.ctx, h.ctxs]

theorem SameMap.stage2 {s t : State} (h : SameMap s t) (n p ipa : Nat) : s.stage2 n p ipa = t.stage2 n p ipa := by
  simp only [State.stage2, h.backed, h.part, h.walk2]

theorem SameMap.walk1 {s t : State} (h : SameMap s t) (n p ck va : Nat) (l : List Nat) (tb : Nat) : s.walk1 n p ck va l tb = t.walk1 n p ck va l tb := by
  induction l generalizing tb with
  | nil => rfl
  | cons a r ih => simp only [State.walk1, h.stage2, h.mayRead, h.entryAt, h.tlbOf, ih]

theorem SameMap.translate {s t : State} (h : SameMap s t) (n p ck va : Nat) : s.translate n p ck va = t.translate n p ck va := by
  simp only [State.translate, h.walk1, h.ctx, h.tlb]

/-- An access goes alike in two such states. -/
theorem SameMap.access {s t : State} (h : SameMap s t) (n ck : Nat) (va : DWord) (k : Access) : s.access n ck va k = t.access n ck va k := by
  simp only [State.access, h.translate, h.ctx, h.hostAbsent, h.mayRead, h.mayWrite, h.isPoisoned]

/-- So does one of several bytes. -/
theorem SameMap.accessOf {s t : State} (h : SameMap s t) (n ck : Nat) (va : DWord) (m : Nat) (k : Access) : s.accessOf n ck va m k = t.accessOf n ck va m k := by
  simp only [State.accessOf, State.firstPoison, h.access, h.isPoisoned]

theorem SameMap.modGroup (s : State) (g : Nat) (f : Group → Group) : SameMap (s.modGroup g f) s := ⟨rfl, rfl, rfl, rfl, rfl, rfl, rfl, rfl⟩
theorem SameMap.modCore (s : State) (c : Nat) (f : Core → Core) : SameMap (s.modCore c f) s := ⟨rfl, rfl, rfl, rfl, rfl, rfl, rfl, rfl⟩
theorem SameMap.modBlock (s : State) (b : Nat) (f : Block → Block) : SameMap (s.modBlock b f) s := ⟨rfl, rfl, rfl, rfl, rfl, rfl, rfl, rfl⟩
theorem SameMap.skip (s : State) (n : Nat) : SameMap (s.skip n) s := ⟨rfl, rfl, rfl, rfl, rfl, rfl, rfl, rfl⟩

theorem SameMap.acquire (s : State) (c sc : Nat) : SameMap (s.acquire c sc) s := by
  unfold State.acquire
  split
  · exact .modCore ..
  · exact .refl _

/-- A choice among values that are all one value. -/
theorem oneOf_same {α : Type} [DecidableEq α] {n : Nat} {d : α} {l : List α} (h : ∀ e ∈ l, e = d) : oneOf n d (d :: l) = d := by
  have : (d :: l).eraseDups = [d] := by
    rw [List.eraseDups_cons, List.filter_eq_nil_iff.mpr (by intro e he; simp [h e he]), List.eraseDups_nil]
  rw [oneOf, this]

/-- An entry of a table as memory holds it, where no cache of translations holds another. -/
theorem entryAt_held {s : State} {n : Nat} {id : EntryId} {pa : Nat} (h : ∀ t ∈ s.tlb, ∀ x, t.at_ id = some x → x.1 = word64 (s.readMem pa 8)) :
    s.entryAt n id pa = word64 (s.readMem pa 8) := by
  rw [State.entryAt]
  split
  · rfl
  · refine oneOf_same fun e he => ?_
    obtain ⟨x, hx, rfl⟩ := List.mem_map.mp he
    obtain ⟨t, ht, hx⟩ := List.mem_filterMap.mp hx
    exact h t ht x hx

/-- A level of a walk of partition 31 whose entry is a table. -/
theorem walk1_table {s : State} {n ck va lv : Nat} {rest : List Nat} {table oa : Nat} {e : DWord} (h0 : lv ≠ 0)
    (hb : s.backed (table + 8 * (va / 2 ^ (12 + 9 * lv) % 512)) = true) (hr : s.mayRead 31 (table + 8 * (va / 2 ^ (12 + 9 * lv) % 512)) = true)
    (he : ∀ n, s.entryAt n { stage2 := false, owner := ck, level := lv, index := va / 2 ^ (12 + 9 * lv) }
      ((table + 8 * (va / 2 ^ (12 + 9 * lv) % 512)) / 4096 * 4096 + 8 * (va / 2 ^ (12 + 9 * lv) % 512)) = e)
    (hk : entryKind false lv e = .table oa) : (s.walk1 n 31 ck va (lv :: rest) table).1 = (s.walk1 n 31 ck va rest oa).1 := by
  rw [State.walk1]
  simp only [State.stage2, if_true, hb, hr, he, hk, h0, if_false, Bool.not_true, Bool.false_eq_true]

/-- The last level of such a walk, where no entry of the group is of 64 KiB. -/
theorem walk1_leaf {s : State} {n ck va : Nat} {table : Nat} {e : DWord} {f : Leaf}
    (hb : s.backed (table + 8 * (va / 2 ^ 12 % 512)) = true) (hr : s.mayRead 31 (table + 8 * (va / 2 ^ 12 % 512)) = true)
    (he : ∀ n, s.entryAt n { stage2 := false, owner := ck, level := 0, index := va / 2 ^ 12 }
      ((table + 8 * (va / 2 ^ 12 % 512)) / 4096 * 4096 + 8 * (va / 2 ^ 12 % 512)) = e)
    (hc : ∀ n, ∀ j < 16, (fun e : DWord => e.getLsbD 0 && e.getLsbD 56) (s.entryAt n { stage2 := false, owner := ck, level := 0, index := va / 2 ^ 12 / 16 * 16 + j }
      ((table + 8 * (va / 2 ^ 12 % 512)) / 4096 * 4096 + 8 * ((va / 2 ^ 12 / 16 * 16 + j) % 512))) = false)
    (hk : entryKind false 0 e = .leaf) (hl : leafOf 0 e va = f) (hh : f.host = false) (hb' : s.backed f.pa = true) :
    (s.walk1 n 31 ck va [0] table).1 = .ok f := by
  have hg : ∀ k, (((List.range 16).map fun j => s.entryAt k { stage2 := false, owner := ck, level := 0, index := va / 2 ^ 12 / 16 * 16 + j }
      ((table + 8 * (va / 2 ^ 12 % 512)) / 4096 * 4096 + 8 * ((va / 2 ^ 12 / 16 * 16 + j) % 512))).any fun e => e.getLsbD 0 && e.getLsbD 56) = false := by
    intro k
    rw [List.any_map, List.any_eq_false]
    intro j hj
    simpa using hc k j (List.mem_range.mp hj)
  rw [State.walk1]
  simp only [State.stage2, if_true, Nat.mul_zero, Nat.add_zero, hb, hr, he, hk, hg, pickC64, hl, hh, hb', Bool.not_true, Bool.false_eq_true, if_false, Bool.not_false]
  cases f; simp_all

/-- A translation is the walk's where every combined translation of the address that is held agrees with it. -/
theorem translate_walk {s : State} {n p ck va : Nat} {f : Leaf} (h : ∀ t ∈ s.tlb, ∀ x, t.covers ck va = some x → x = f)
    (hw : (s.walk1 n p ck va levels4 (s.ctx ck).s1root.toNat).1 = .ok f) : (s.translate n p ck va).1 = .ok f := by
  rw [State.translate]
  simp only [hw]
  split
  · rfl
  · rename_i he _
    cases he
    refine congrArg _ (oneOf_same fun e he => ?_)
    obtain ⟨t, ht, hx⟩ := List.mem_filterMap.mp he
    exact h t ht e hx
  · rename_i he
    cases he

end Sys2Proof.Machine
end

