-- ==== Sys2Proof/Laws/Encoding.lean ====
section
/-! SUPPORT. What the encoder packs, the decoder's fields read back. -/
namespace Sys2Proof
open BitVec

/-! ### Bytes -/

theorem leNat_leBytes (n v : Nat) : leNat (leBytes n v) = v % 256 ^ n := by
  induction n generalizing v with
  | zero => simp [leBytes, leNat, Nat.mod_one]
  | succ n ih =>
    simp only [leBytes, leNat, ih, BitVec.toNat_ofNat]
    have h : 256 ^ (n + 1) = 256 * 256 ^ n := by rw [Nat.pow_succ, Nat.mul_comm]
    rw [h, Nat.mod_mul]

@[simp] theorem length_leBytes (n v : Nat) : (leBytes n v).length = n := by
  induction n generalizing v with
  | zero => rfl
  | succ n ih => simp [leBytes, ih]

/-! ### F3 and FM words (R320, R321) -/

theorem packF3_field (op fn : Nat) (f : F3) (s l : Nat) : (packF3 op fn f).extractLsb' s l =
    @BitVec.extractLsb' (1 + 7 + 5 + 4 + 4 + 3 + 7 + 11 + 11 + 11) s l
      (0#1 ++ BitVec.ofNat 7 op ++ BitVec.ofNat 5 fn ++ f.pm ++ f.ty ++ f.md ++ f.x ++ f.d ++ f.a ++ f.b) := rfl

theorem f3Of_packF3 (op fn : Nat) (f : F3) : f3Of (packF3 op fn f) = f := by
  simp (disch := decide) only [f3Of, packF3_field, extractLsb'_append_eq_of_le, extractLsb'_append_eq_of_add_le, Nat.sub_self,
    Nat.reduceSub, extractLsb'_eq_self]

theorem op_packF3 (op fn : Nat) (f : F3) : (packF3 op fn f).extractLsb' 56 7 = BitVec.ofNat 7 op := by
  simp (disch := decide) only [packF3_field, extractLsb'_append_eq_of_le, extractLsb'_append_eq_of_add_le, Nat.sub_self, Nat.reduceSub,
    extractLsb'_eq_self]

theorem fn_packF3 (op fn : Nat) (f : F3) : (packF3 op fn f).extractLsb' 51 5 = BitVec.ofNat 5 fn := by
  simp (disch := decide) only [packF3_field, extractLsb'_append_eq_of_le, extractLsb'_append_eq_of_add_le, Nat.sub_self, Nat.reduceSub,
    extractLsb'_eq_self]

theorem bit_of_field {w : DWord} {b : Bool} {n : Nat} (h : w.extractLsb' n 1 = BitVec.ofBool b) : w.getLsbD n = b := by
  have := congrArg (·.getLsbD 0) h
  simpa using this

theorem top_packF3 (op fn : Nat) (f : F3) : (packF3 op fn f).getLsbD 63 = false := by
  apply bit_of_field
  simp (disch := decide) only [packF3_field, extractLsb'_append_eq_of_le, Nat.sub_self, Nat.reduceSub, extractLsb'_eq_self]
  rfl

/-! ### FI words (R322) -/

theorem packFI_field (op fn : Nat) (f : FI) (s l : Nat) : (packFI op fn f).extractLsb' s l =
    @BitVec.extractLsb' (1 + 7 + 5 + 4 + 4 + 10 + 11 + 11 + 11) s l
      (0#1 ++ BitVec.ofNat 7 op ++ BitVec.ofNat 5 fn ++ f.pm ++ f.ty ++ f.imm.extractLsb' 11 10 ++ f.d ++ f.a ++ f.imm.extractLsb' 0 11) := rfl

theorem imm_halves (x : BitVec 21) : (x.extractLsb' 11 10 ++ x.extractLsb' 0 11 : BitVec 21) = x := by
  apply BitVec.eq_of_getLsbD_eq
  intro i hi
  rw [BitVec.getLsbD_append]
  by_cases h : i < 11
  · simp [h]
  · have h2 : i - 11 < 10 := by omega
    have h3 : 11 + (i - 11) = i := by omega
    simp [h, h2, h3]

theorem fiOf_packFI (op fn : Nat) (f : FI) : fiOf (packFI op fn f) = f := by
  simp (disch := decide) only [fiOf, packFI_field, extractLsb'_append_eq_of_le, extractLsb'_append_eq_of_add_le, Nat.sub_self,
    Nat.reduceSub, extractLsb'_eq_self]
  rw [imm_halves]

theorem op_packFI (op fn : Nat) (f : FI) : (packFI op fn f).extractLsb' 56 7 = BitVec.ofNat 7 op := by
  simp (disch := decide) only [packFI_field, extractLsb'_append_eq_of_le, extractLsb'_append_eq_of_add_le, Nat.sub_self, Nat.reduceSub,
    extractLsb'_eq_self]

theorem fn_packFI (op fn : Nat) (f : FI) : (packFI op fn f).extractLsb' 51 5 = BitVec.ofNat 5 fn := by
  simp (disch := decide) only [packFI_field, extractLsb'_append_eq_of_le, extractLsb'_append_eq_of_add_le, Nat.sub_self, Nat.reduceSub,
    extractLsb'_eq_self]

theorem top_packFI (op fn : Nat) (f : FI) : (packFI op fn f).getLsbD 63 = false := by
  apply bit_of_field
  simp (disch := decide) only [packFI_field, extractLsb'_append_eq_of_le, Nat.sub_self, Nat.reduceSub, extractLsb'_eq_self]
  rfl

/-! ### FL and FB words (R323, R324) -/

theorem packFL_field (op fn : Nat) (f : FL) (s l : Nat) : (packFL op fn f).extractLsb' s l =
    @BitVec.extractLsb' (1 + 7 + 5 + 11 + 32 + 8) s l (0#1 ++ BitVec.ofNat 7 op ++ BitVec.ofNat 5 fn ++ f.d ++ f.imm ++ 0#8) := rfl

theorem flOf_packFL (op fn : Nat) (f : FL) : flOf (packFL op fn f) = f := by
  simp (disch := decide) only [flOf, packFL_field, extractLsb'_append_eq_of_le, extractLsb'_append_eq_of_add_le, Nat.sub_self,
    Nat.reduceSub, extractLsb'_eq_self]

theorem flZero_packFL (op fn : Nat) (f : FL) : flZero (packFL op fn f) = true := by
  simp (disch := decide) only [flZero, packFL_field, extractLsb'_append_eq_of_le, extractLsb'_append_eq_of_add_le, Nat.sub_self,
    Nat.reduceSub, extractLsb'_eq_self]
  rfl

theorem op_packFL (op fn : Nat) (f : FL) : (packFL op fn f).extractLsb' 56 7 = BitVec.ofNat 7 op := by
  simp (disch := decide) only [packFL_field, extractLsb'_append_eq_of_le, extractLsb'_append_eq_of_add_le, Nat.sub_self, Nat.reduceSub,
    extractLsb'_eq_self]

theorem fn_packFL (op fn : Nat) (f : FL) : (packFL op fn f).extractLsb' 51 5 = BitVec.ofNat 5 fn := by
  simp (disch := decide) only [packFL_field, extractLsb'_append_eq_of_le, extractLsb'_append_eq_of_add_le, Nat.sub_self, Nat.reduceSub,
    extractLsb'_eq_self]

theorem top_packFL (op fn : Nat) (f : FL) : (packFL op fn f).getLsbD 63 = false := by
  apply bit_of_field
  simp (disch := decide) only [packFL_field, extractLsb'_append_eq_of_le, Nat.sub_self, Nat.reduceSub, extractLsb'_eq_self]
  rfl

theorem packFB_field (op fn : Nat) (f : FB) (s l : Nat) : (packFB op fn f).extractLsb' s l =
    @BitVec.extractLsb' (1 + 7 + 5 + 4 + 3 + 1 + 3 + 32 + 8) s l
      (0#1 ++ BitVec.ofNat 7 op ++ BitVec.ofNat 5 fn ++ f.pm ++ f.cc ++ f.neg ++ 0#3 ++ f.disp ++ 0#8) := rfl

theorem fbOf_packFB (op fn : Nat) (f : FB) : fbOf (packFB op fn f) = f := by
  simp (disch := decide) only [fbOf, packFB_field, extractLsb'_append_eq_of_le, extractLsb'_append_eq_of_add_le, Nat.sub_self,
    Nat.reduceSub, extractLsb'_eq_self]

theorem fbZero_packFB (op fn : Nat) (f : FB) : fbZero (packFB op fn f) = true := by
  simp (disch := decide) only [fbZero, packFB_field, extractLsb'_append_eq_of_le, extractLsb'_append_eq_of_add_le, Nat.sub_self,
    Nat.reduceSub, extractLsb'_eq_self]
  rfl

theorem op_packFB (op fn : Nat) (f : FB) : (packFB op fn f).extractLsb' 56 7 = BitVec.ofNat 7 op := by
  simp (disch := decide) only [packFB_field, extractLsb'_append_eq_of_le, extractLsb'_append_eq_of_add_le, Nat.sub_self, Nat.reduceSub,
    extractLsb'_eq_self]

theorem fn_packFB (op fn : Nat) (f : FB) : (packFB op fn f).extractLsb' 51 5 = BitVec.ofNat 5 fn := by
  simp (disch := decide) only [packFB_field, extractLsb'_append_eq_of_le, extractLsb'_append_eq_of_add_le, Nat.sub_self, Nat.reduceSub,
    extractLsb'_eq_self]

theorem top_packFB (op fn : Nat) (f : FB) : (packFB op fn f).getLsbD 63 = false := by
  apply bit_of_field
  simp (disch := decide) only [packFB_field, extractLsb'_append_eq_of_le, Nat.sub_self, Nat.reduceSub, extractLsb'_eq_self]
  rfl

/-! ### FR words and paired words (R327, R330, R333) -/

theorem packFR_field (f : FR) (s l : Nat) : (packFR f).extractLsb' s l =
    @BitVec.extractLsb' (1 + 7 + 6 + 4 + 4 + 4 + 38) s l (0#1 ++ 0x12#7 ++ f.cnt ++ f.dinc ++ f.ainc ++ f.binc ++ 0#38) := rfl

theorem frOf_packFR (f : FR) : frOf (packFR f) = f := by
  simp (disch := decide) only [frOf, packFR_field, extractLsb'_append_eq_of_le, extractLsb'_append_eq_of_add_le, Nat.sub_self,
    Nat.reduceSub, extractLsb'_eq_self]

theorem frZero_packFR (f : FR) : frZero (packFR f) = true := by
  simp (disch := decide) only [frZero, packFR_field, extractLsb'_append_eq_of_le, extractLsb'_append_eq_of_add_le, Nat.sub_self,
    Nat.reduceSub, extractLsb'_eq_self]
  rfl

theorem op_packFR (f : FR) : (packFR f).extractLsb' 56 7 = 0x12#7 := by
  simp (disch := decide) only [packFR_field, extractLsb'_append_eq_of_le, extractLsb'_append_eq_of_add_le, Nat.sub_self, Nat.reduceSub,
    extractLsb'_eq_self]

theorem top_packFR (f : FR) : (packFR f).getLsbD 63 = false := by
  apply bit_of_field
  simp (disch := decide) only [packFR_field, extractLsb'_append_eq_of_le, Nat.sub_self, Nat.reduceSub, extractLsb'_eq_self]
  rfl

theorem packHalf_field (h : Half) (s l : Nat) : (packHalf h).extractLsb' s l =
    @BitVec.extractLsb' (6 + 3 + 8 + 9 + 5) s l (h.ho ++ h.pm ++ h.d ++ h.a ++ 0#5) := rfl

theorem halfOf_packHalf (h : Half) : halfOf (packHalf h) = h := by
  simp (disch := decide) only [halfOf, packHalf_field, extractLsb'_append_eq_of_le, extractLsb'_append_eq_of_add_le, Nat.sub_self,
    Nat.reduceSub, extractLsb'_eq_self]

theorem packHalf_low (h : Half) : (packHalf h).extractLsb' 0 5 = 0#5 := by
  simp (disch := decide) only [packHalf_field, extractLsb'_append_eq_of_add_le, extractLsb'_eq_self]

theorem packPair_field (h0 h1 : Half) (s l : Nat) : (packPair h0 h1).extractLsb' s l =
    @BitVec.extractLsb' (1 + 31 + 31 + 1) s l (1#1 ++ packHalf h0 ++ packHalf h1 ++ 0#1) := rfl

theorem packPair_high (h0 h1 : Half) : (packPair h0 h1).extractLsb' 32 31 = packHalf h0 := by
  simp (disch := decide) only [packPair_field, extractLsb'_append_eq_of_le, extractLsb'_append_eq_of_add_le, Nat.sub_self, Nat.reduceSub,
    extractLsb'_eq_self]

theorem packPair_low (h0 h1 : Half) : (packPair h0 h1).extractLsb' 1 31 = packHalf h1 := by
  simp (disch := decide) only [packPair_field, extractLsb'_append_eq_of_le, extractLsb'_append_eq_of_add_le, Nat.sub_self, Nat.reduceSub,
    extractLsb'_eq_self]

theorem top_packPair (h0 h1 : Half) : (packPair h0 h1).getLsbD 63 = true := by
  apply bit_of_field
  simp (disch := decide) only [packPair_field, extractLsb'_append_eq_of_le, Nat.sub_self, Nat.reduceSub, extractLsb'_eq_self]
  rfl

theorem bottom_packPair (h0 h1 : Half) : (packPair h0 h1).getLsbD 0 = false := by
  apply bit_of_field
  simp (disch := decide) only [packPair_field, extractLsb'_append_eq_of_add_le, extractLsb'_eq_self]
  rfl

/-! ### Cache-side words of an awl (R246) -/

theorem packAwl_field (f7 f3 op : Nat) (r : AwlR) (s l : Nat) : (packAwl f7 f3 op r).extractLsb' s l =
    @BitVec.extractLsb' (7 + 5 + 5 + 3 + 5 + 7) s l
      (BitVec.ofNat 7 f7 ++ r.rs2 ++ r.rs1 ++ BitVec.ofNat 3 f3 ++ r.rd ++ BitVec.ofNat 7 op) := rfl

theorem packAwl_fields (f7 f3 op : Nat) (r : AwlR) :
    (packAwl f7 f3 op r).extractLsb' 0 7 = BitVec.ofNat 7 op ∧ (packAwl f7 f3 op r).extractLsb' 12 3 = BitVec.ofNat 3 f3
      ∧ (packAwl f7 f3 op r).extractLsb' 25 7 = BitVec.ofNat 7 f7 ∧ (packAwl f7 f3 op r).extractLsb' 7 5 = r.rd
      ∧ (packAwl f7 f3 op r).extractLsb' 15 5 = r.rs1 ∧ (packAwl f7 f3 op r).extractLsb' 20 5 = r.rs2 := by
  refine ⟨?_, ?_, ?_, ?_, ?_, ?_⟩ <;>
    simp (disch := decide) only [packAwl_field, extractLsb'_append_eq_of_le, extractLsb'_append_eq_of_add_le, Nat.sub_self, Nat.reduceSub,
      extractLsb'_eq_self]

theorem packAwl_low (f7 f3 op : Nat) (r : AwlR) : (packAwl f7 f3 op r).extractLsb' 0 2 = (BitVec.ofNat 7 op).extractLsb' 0 2 := by
  simp (disch := decide) only [packAwl_field, extractLsb'_append_eq_of_add_le]

end Sys2Proof
end

