-- ==== Sys2Proof/Laws/Maps.lean ====
section
/-! SUPPORT. Lists by key: what is read after a write, and the canonical form of memory. -/
namespace Sys2Proof.Machine

/-! ### Keyed lists -/

@[simp] theorem kget_kset_same {α : Type} (m : KMap α) (k : Nat) (a : α) : kget (kset m k a) k = some a := by
  induction m with
  | nil => simp [kset, kget]
  | cons e r ih =>
    obtain ⟨j, b⟩ := e
    simp only [kset]
    split
    · simp [kget]
    · split
      · simp [kget]
      · rename_i h _
        simp [kget, h, ih]

theorem kget_kset_ne {α : Type} (m : KMap α) {k j : Nat} (a : α) (h : j ≠ k) : kget (kset m k a) j = kget m j := by
  induction m with
  | nil => simp [kset, kget, Ne.symm h]
  | cons e r ih =>
    obtain ⟨i, b⟩ := e
    simp only [kset]
    split
    · rename_i hi
      subst hi
      simp [kget, Ne.symm h]
    · split
      · simp [kget, Ne.symm h]
      · simp [kget, ih]

theorem kget_kmod {α : Type} (m : KMap α) (k j : Nat) (f : α → α) :
    kget (kmod m k f) j = if j = k then (kget m j).map f else kget m j := by
  induction m with
  | nil => simp [kmod, kget]
  | cons e r ih =>
    obtain ⟨i, b⟩ := e
    by_cases hi : i = k
    · subst hi
      by_cases hj : i = j
      · subst hj
        simp [kmod, kget]
      · simp [kmod, kget, hj, Ne.symm hj]
    · by_cases hj : i = j
      · subst hj
        simp [kmod, kget, hi]
      · simp [kmod, kget, hi, hj, ih]

@[simp] theorem kget_kmod_same {α : Type} (m : KMap α) (k : Nat) (f : α → α) : kget (kmod m k f) k = (kget m k).map f := by
  simp [kget_kmod]

theorem kget_kmod_ne {α : Type} (m : KMap α) {k j : Nat} (f : α → α) (h : j ≠ k) : kget (kmod m k f) j = kget m j := by
  simp [kget_kmod, h]

@[simp] theorem kget_kmapAll {α : Type} (m : KMap α) (f : Nat → α → α) (k : Nat) : kget (kmapAll m f) k = (kget m k).map (f k) := by
  induction m with
  | nil => rfl
  | cons e r ih =>
    obtain ⟨j, a⟩ := e
    by_cases h : j = k
    · subst h
      simp [kmapAll, kget]
    · simpa [kmapAll, kget, h] using ih

theorem kmod_kmod_ne_map {α : Type} (m : KMap α) (k : Nat) (f g : α → α) : kmod (kmod m k f) k g = kmod m k (g ∘ f) := by
  induction m with
  | nil => rfl
  | cons e r ih =>
    obtain ⟨j, a⟩ := e
    by_cases h : j = k
    · subst h
      simp [kmod]
    · simp [kmod, h, ih]

/-! ### Sparse words -/

theorem sget_filter_same {w : Nat} (m : Sparse w) (k : Nat) : sget (m.filter fun e => e.1 ≠ k) k = 0 := by
  induction m with
  | nil => rfl
  | cons e r ih =>
    obtain ⟨j, u⟩ := e
    by_cases h : j = k <;> simp_all [sget]

theorem sget_filter_ne {w : Nat} (m : Sparse w) {k j : Nat} (h : j ≠ k) : sget (m.filter fun e => e.1 ≠ k) j = sget m j := by
  induction m with
  | nil => rfl
  | cons e r ih =>
    obtain ⟨i, u⟩ := e
    by_cases hi : i = k
    · subst hi
      simpa [List.filter_cons, sget, Ne.symm h] using ih
    · by_cases hj : i = j <;> simp_all [sget]

theorem sget_sput_same {w : Nat} (m : Sparse w) (k : Nat) (v : BitVec w) : sget (sput m k v) k = v := by
  induction m with
  | nil => simp [sput, sget]
  | cons e r ih =>
    obtain ⟨j, u⟩ := e
    simp only [sput]
    split
    · simp [sget]
    · split
      · simp [sget]
      · rename_i h _
        simp [sget, h, ih]

theorem sget_sput_ne {w : Nat} (m : Sparse w) {k j : Nat} (v : BitVec w) (h : j ≠ k) : sget (sput m k v) j = sget m j := by
  induction m with
  | nil => simp [sput, sget, Ne.symm h]
  | cons e r ih =>
    obtain ⟨i, u⟩ := e
    simp only [sput]
    split
    · rename_i hi
      subst hi
      simp [sget, Ne.symm h]
    · split
      · simp [sget, Ne.symm h]
      · simp [sget, ih]

@[simp] theorem sget_sset_same {w : Nat} (m : Sparse w) (k : Nat) (v : BitVec w) : sget (sset m k v) k = v := by
  simp only [sset]
  split
  · rename_i h
    rw [sget_filter_same, h]
  · exact sget_sput_same m k v

theorem sget_sset_ne {w : Nat} (m : Sparse w) {k j : Nat} (v : BitVec w) (h : j ≠ k) : sget (sset m k v) j = sget m j := by
  simp only [sset]
  split
  · exact sget_filter_ne m h
  · exact sget_sput_ne m v h

theorem sget_sset {w : Nat} (m : Sparse w) (k j : Nat) (v : BitVec w) : sget (sset m k v) j = if j = k then v else sget m j := by
  split
  · rename_i h
    subst h
    exact sget_sset_same m j v
  · rename_i h
    exact sget_sset_ne m v h

/-- The canonical form of sparse words: keys rising, no zero listed. -/
def Canon {w : Nat} (m : Sparse w) : Prop := m.Pairwise (fun a b => a.1 < b.1) ∧ ∀ e ∈ m, e.2 ≠ 0

theorem Canon.nil {w : Nat} : Canon ([] : Sparse w) := ⟨.nil, by simp⟩

theorem mem_sput {w : Nat} {m : Sparse w} {k : Nat} {v : BitVec w} {e : Nat × BitVec w} (h : e ∈ sput m k v) : e ∈ m ∨ e = (k, v) := by
  induction m with
  | nil => simp_all [sput]
  | cons a r ih =>
    obtain ⟨j, u⟩ := a
    simp only [sput] at h
    split at h
    · rcases List.mem_cons.mp h with rfl | h
      · exact .inr rfl
      · exact .inl (by simp [h])
    · split at h
      · rcases List.mem_cons.mp h with rfl | h
        · exact .inr rfl
        · exact .inl h
      · rcases List.mem_cons.mp h with rfl | h
        · exact .inl (by simp)
        · rcases ih h with h | h
          · exact .inl (by simp [h])
          · exact .inr h

theorem rising_sput {w : Nat} {m : Sparse w} (hp : m.Pairwise fun a b => a.1 < b.1) (k : Nat) (v : BitVec w) :
    (sput m k v).Pairwise fun a b => a.1 < b.1 := by
  induction m with
  | nil => simp [sput]
  | cons a r ih =>
    obtain ⟨j, u⟩ := a
    have hr := List.pairwise_cons.mp hp
    simp only [sput]
    split
    · rename_i hj
      subst hj
      exact List.pairwise_cons.mpr ⟨hr.1, hr.2⟩
    · split
      · rename_i hlt
        refine List.pairwise_cons.mpr ⟨fun e he => ?_, hp⟩
        rcases List.mem_cons.mp he with rfl | he
        · exact hlt
        · exact Nat.lt_trans hlt (hr.1 e he)
      · refine List.pairwise_cons.mpr ⟨fun e he => ?_, ih hr.2⟩
        rcases mem_sput he with he | rfl
        · exact hr.1 e he
        · simp only
          omega

theorem Canon.sset {w : Nat} {m : Sparse w} (hm : Canon m) (k : Nat) (v : BitVec w) : Canon (sset m k v) := by
  obtain ⟨hp, hz⟩ := hm
  simp only [Machine.sset]
  split
  · exact ⟨hp.filter _, fun e he => hz e (List.mem_filter.mp he).1⟩
  · rename_i h
    refine ⟨rising_sput hp k v, fun e he => ?_⟩
    rcases mem_sput he with he | rfl
    · exact hz e he
    · exact h

theorem Canon.ssets {w : Nat} {m : Sparse w} (hm : Canon m) (l : List (Nat × BitVec w)) : Canon (ssets m l) := by
  induction l generalizing m with
  | nil => exact hm
  | cons e r ih => exact ih (hm.sset e.1 e.2)

theorem sget_ssets_out {w : Nat} (m : Sparse w) (l : List (Nat × BitVec w)) (k : Nat) (h : ∀ e ∈ l, e.1 ≠ k) : sget (ssets m l) k = sget m k := by
  induction l generalizing m with
  | nil => rfl
  | cons e r ih =>
    show sget (Machine.ssets (Machine.sset m e.1 e.2) r) k = _
    rw [ih _ fun x hx => h x (by simp [hx]), sget_sset_ne _ _ (Ne.symm (h e (by simp)))]

theorem Canon.setBytes {m : Sparse 8} (hm : Canon m) (a : Nat) (l : List Byte) : Canon (setBytes m a l) := hm.ssets _

/-- Bytes outside a write read as before. -/
theorem sget_setBytes_out (m : Sparse 8) (a : Nat) (l : List Byte) (k : Nat) (h : k < a ∨ a + l.length ≤ k) : sget (setBytes m a l) k = sget m k := by
  apply sget_ssets_out
  intro e he
  obtain ⟨x, hx, rfl⟩ := List.mem_map.mp he
  obtain ⟨v, i⟩ := x
  have := List.snd_lt_of_mem_zipIdx hx
  simp only at *
  omega

/-- The bytes of a write read back. -/
theorem sget_setBytes_in (m : Sparse 8) (a : Nat) (l : List Byte) (i : Nat) (h : i < l.length) :
    sget (setBytes m a l) (a + i) = l[i] := by
  have gen : ∀ (l : List Byte) (n : Nat) (m : Sparse 8) i (h : i < l.length),
      sget (ssets m ((l.zipIdx n).map fun e => (a + e.2, e.1))) (a + n + i) = l[i] := by
    intro l
    induction l with
    | nil => intro n m i h; simp at h
    | cons b r ih =>
      intro n m i h
      show sget (ssets (sset m (a + n) b) ((r.zipIdx (n + 1)).map fun e => (a + e.2, e.1))) _ = _
      cases i with
      | zero =>
        rw [sget_ssets_out]
        · simp
        · intro e he
          obtain ⟨x, hx, rfl⟩ := List.mem_map.mp he
          have := List.le_snd_of_mem_zipIdx hx
          simp only
          omega
      | succ i =>
        have := ih (n + 1) (sset m (a + n) b) i (by simpa using h)
        rw [show a + n + (i + 1) = a + (n + 1) + i by omega]
        simpa using this
  exact gen l 0 m i h

/-- `Memory.wf` is the canonical form. -/
theorem memory_wf_iff (m : List Host.Cell) : Memory.wf m = true ↔ Canon (m : Sparse 8) := by
  induction m with
  | nil => simp [Memory.wf, Canon]
  | cons a r ih =>
    obtain ⟨k, v⟩ := a
    cases r with
    | nil => simp [Memory.wf, Canon]
    | cons b r =>
      obtain ⟨j, u⟩ := b
      have h : Memory.wf ((k, v) :: (j, u) :: r) = (v ≠ 0#8 && decide (k < j) && Memory.wf ((j, u) :: r)) := rfl
      rw [h, Bool.and_eq_true, ih]
      constructor
      · rintro ⟨h1, hp, hz⟩
        have h1 : v ≠ 0#8 ∧ k < j := by simpa using h1
        refine ⟨List.pairwise_cons.mpr ⟨fun e he => ?_, hp⟩, fun e he => ?_⟩
        · rcases List.mem_cons.mp he with rfl | he
          · exact h1.2
          · exact Nat.lt_trans h1.2 ((List.pairwise_cons.mp hp).1 e he)
        · rcases List.mem_cons.mp he with rfl | he
          · exact h1.1
          · exact hz e he
      · rintro ⟨hp, hz⟩
        have h1 := List.pairwise_cons.mp hp
        refine ⟨?_, h1.2, fun e he => hz e (by simp [he])⟩
        have := h1.1 (j, u) (by simp)
        have := hz (k, v) (by simp)
        simp_all

/-- A memory write keeps the canonical form. -/
theorem State.writeMem_wf {s : State} (h : Memory.wf s.mem = true) (a : Nat) (l : List Byte) : Memory.wf (s.writeMem a l).mem = true :=
  (memory_wf_iff _).mpr (((memory_wf_iff _).mp h).setBytes a l)

theorem reset_memory_wf : Memory.wf State.reset.mem = true := rfl

end Sys2Proof.Machine
end

