-- ==== Sys2Proof/Laws/Group.lean ====
section
/-! SUPPORT. What the shells of the instructions of a group do: the group that issues, the counters, the end of a word and a trap. -/
namespace Sys2Proof.Machine

/-! ### The agent -/

theorem State.env_cur {s : State} {e : Env} (h : s.env = some e) : s.cur = .group e.gid e.word := by
  unfold State.env at h
  split at h
  · rename_i gid word hc
    unfold State.envOf at h
    split at h
    · cases h
    split at h
    · cases h
    split at h
    · cases h
    cases h
    exact hc
  · cases h

theorem State.envOf_eq {s : State} {e : Env} {gid : Nat} {w : DWord} (h : s.envOf gid w = some e) :
    e.gid = gid ∧ e.word = w ∧ kget s.groups gid = some e.g ∧ kget s.blocks e.g.block = some e.b
      ∧ kget s.launches e.b.launch = some e.l ∧ e.ck = e.l.ctx ∧ e.ctx = s.ctx e.ck := by
  unfold State.envOf at h
  split at h
  · cases h
  rename_i g hg
  split at h
  · cases h
  rename_i b hb
  split at h
  · cases h
  rename_i l hl
  cases h
  exact ⟨rfl, rfl, hg, hb, hl, rfl, rfl⟩

/-- What stands in the state where a group issues. -/
theorem State.env_eq {s : State} {e : Env} (h : s.env = some e) :
    kget s.groups e.gid = some e.g ∧ kget s.blocks e.g.block = some e.b ∧ kget s.launches e.b.launch = some e.l
      ∧ e.ck = e.l.ctx ∧ e.ctx = s.ctx e.ck := by
  unfold State.env at h
  split at h
  · obtain ⟨h1, -, h2, h3, h4, h5, h6⟩ := State.envOf_eq h
    subst h1
    exact ⟨h2, h3, h4, h5, h6⟩
  · cases h

theorem asGroup_of_env {s : State} {e : Env} (h : s.env = some e) (body : Env → State → State) : asGroup s body = .next (body e s) := by
  simp [asGroup, h]

/-! ### Modifying one key -/

theorem kmod_const {α : Type} {m : KMap α} {k : Nat} {a : α} (h : kget m k = some a) (f : α → α) : kmod m k f = kmod m k fun _ => f a := by
  induction m with
  | nil => rfl
  | cons e r ih =>
    obtain ⟨j, b⟩ := e
    by_cases hj : j = k
    · simp only [kget, hj, if_true, Option.some.injEq] at h
      simp [kmod, hj, h]
    · simp only [kget, hj, if_false] at h
      simp [kmod, hj, ih h]

theorem kmod_self {α : Type} {m : KMap α} {k : Nat} {a : α} (h : kget m k = some a) : kmod m k (fun _ => a) = m := by
  induction m with
  | nil => rfl
  | cons e r ih =>
    obtain ⟨j, b⟩ := e
    by_cases hj : j = k
    · simp only [kget, hj, if_true, Option.some.injEq] at h
      simp [kmod, hj, h]
    · simp only [kget, hj, if_false] at h
      simp [kmod, hj, ih h]

theorem kmod_of_none {α : Type} {m : KMap α} {k : Nat} (h : kget m k = none) (f : α → α) : kmod m k f = m := by
  induction m with
  | nil => rfl
  | cons e r ih =>
    obtain ⟨j, b⟩ := e
    by_cases hj : j = k
    · simp [kget, hj] at h
    · simp only [kget, hj, if_false] at h
      simp [kmod, hj, ih h]

/-! ### Counters -/

theorem CountsOnly.refl (g : Group) : CountsOnly g g := ⟨g.pcs, g.pctl, rfl, rfl, fun _ _ _ => ⟨rfl, rfl⟩⟩

theorem CountsOnly.trans {a b c : Group} (h : CountsOnly a b) (k : CountsOnly b c) : CountsOnly a c := by
  obtain ⟨p, q, rfl, h1, h2⟩ := h
  obtain ⟨p', q', rfl, k1, k2⟩ := k
  refine ⟨p', q', rfl, k1.trans h1, fun i hi hz => ?_⟩
  have hq : q.getLsbD (24 + i) = false := by
    have := congrArg (fun x => x.getLsbD (24 + i)) h1
    simp only [BitVec.getLsbD_extractLsb', Nat.zero_add] at this
    rw [show decide (24 + i < 28) = true by simp; omega] at this
    simpa [hz] using this
  exact ⟨(k2 i hi hq).1.trans (h2 i hi hz).1, (k2 i hi hq).2.trans (h2 i hi hz).2⟩

theorem CountsOnly.count_step (g : Group) (code n i : Nat) (hi : i < 4) :
    CountsOnly g (if (g.pctl.extractLsb' (6 * i) 6).toNat = code && g.pctl.getLsbD (24 + i) && code ≠ 0 && n ≠ 0 then
      let v := ((g.pcs[i]?).getD 0).toNat + n
      { g with pcs := g.pcs.set i (BitVec.ofNat 32 v)
               pctl := if v ≥ 2 ^ 32 then g.pctl ||| ((1#32) <<< (28 + i)) else g.pctl }
    else g) := by
  split
  · rename_i h
    have hen : g.pctl.getLsbD (24 + i) = true := by simp only [Bool.and_eq_true] at h; exact h.1.1.2
    refine ⟨_, _, rfl, ?_, fun j hj hz => ?_⟩
    · split
      · apply BitVec.eq_of_getLsbD_eq
        intro k hk
        simp only [BitVec.getLsbD_extractLsb', BitVec.getLsbD_or, BitVec.getLsbD_shiftLeft, hk, decide_true, Bool.true_and, Nat.zero_add]
        rw [show decide (k < 28 + i) = true by simp; omega]
        simp
      · rfl
    · have hij : i ≠ j := by rintro rfl; simp [hen] at hz
      constructor
      · rw [List.getElem?_set]
        simp [hij]
      · split
        · simp only [BitVec.getLsbD_or, BitVec.getLsbD_shiftLeft]
          rcases Nat.lt_or_gt_of_ne hij with hlt | hlt
          · have : (1#32).getLsbD (28 + j - (28 + i)) = false := by
              rw [BitVec.getLsbD_one]
              simp
              omega
            simp [this]
          · rw [show decide (28 + j < 28 + i) = true by simp; omega]
            simp
        · rfl
  · exact CountsOnly.refl g

theorem CountsOnly.count (g : Group) (code n : Nat) : CountsOnly g (g.count code n) := by
  unfold Group.count
  have h : List.range 4 = [0, 1, 2, 3] := by decide
  rw [h]
  simp only [List.foldl]
  exact (((CountsOnly.count_step g code n 0 (by omega)).trans (CountsOnly.count_step _ code n 1 (by omega))).trans
    (CountsOnly.count_step _ code n 2 (by omega))).trans (CountsOnly.count_step _ code n 3 (by omega))

/-! ### What becomes of the group -/

theorem Became.self {s : State} {e : Env} (h : kget s.groups e.gid = some e.g) : Counted s s e :=
  ⟨e.g, s.freeCtr, CountsOnly.refl _, by simp [kmod_self h]⟩

/-- The group after it became something. -/
theorem Became.get {s t : State} {e : Env} {g : Group} (h : kget s.groups e.gid = some e.g) (k : Became s t e g) :
    ∃ g', kget t.groups e.gid = some g' ∧ CountsOnly g g' := by
  obtain ⟨g', n, hg, rfl⟩ := k
  exact ⟨g', by simp [h], hg⟩

/-- A change of the group after its counters counted. -/
theorem Counted.modGroup {s t : State} {e : Env} (h : kget s.groups e.gid = some e.g) (k : Counted s t e) (f : Group → Group)
    (hf : ∀ g, CountsOnly e.g g → CountsOnly (f e.g) (f g)) : Became s (t.modGroup e.gid f) e (f e.g) := by
  obtain ⟨g', n, hg, rfl⟩ := k
  refine ⟨f g', n, hf g' hg, ?_⟩
  simp only [State.modGroup]
  rw [kmod_kmod_ne_map]
  rfl

theorem Counted.count {s t : State} {e : Env} (k : Counted s t e) (code n : Nat) :
    Counted s (t.count e.gid code n) e := by
  obtain ⟨g', m, hg, rfl⟩ := k
  refine ⟨g'.count code n, m, hg.trans (CountsOnly.count _ _ _), ?_⟩
  simp only [State.count, State.modGroup]
  rw [kmod_kmod_ne_map]
  rfl

theorem Counted.skip {s t : State} {e : Env} (k : Counted s t e) (n : Nat) : Counted s (t.skip n) e := by
  obtain ⟨g', m, hg, rfl⟩ := k
  exact ⟨g', m + n, hg, rfl⟩

theorem Counted.countFree {s t : State} {e : Env} (k : Counted s t e) (code : Nat) :
    Counted s (t.countFree e.gid code) e := by
  unfold State.countFree
  split
  · exact k
  · split
    · exact (k.count _ _).skip 1
    · exact k

theorem Counted.countLatch {s t : State} {e : Env} (k : Counted s t e) (l : List (Rule × BitVec 11)) :
    Counted s (t.countLatch e.gid l) e := by
  unfold State.countLatch
  split
  · exact (k.countFree _).countFree _
  · exact k

theorem Counted.countVector {s t : State} {e : Env} (k : Counted s t e) (m : Mask) :
    Counted s (t.countVector e m) e := (k.count _ _).count _ _

theorem CountsOnly.set_regs {g h : Group} (k : CountsOnly g h) (r : Regs) : CountsOnly { g with regs := r } { h with regs := r } := by
  obtain ⟨p, q, rfl, h1, h2⟩ := k
  exact ⟨p, q, rfl, h1, h2⟩

theorem CountsOnly.advance {g h : Group} (k : CountsOnly g h) : CountsOnly g.advance h.advance := by
  obtain ⟨p, q, rfl, h1, h2⟩ := k
  refine ⟨p, q, ?_, ?_, ?_⟩ <;> unfold Group.advance <;> dsimp only
  · split <;> rfl
  · split <;> exact h1
  · split <;> exact h2

theorem CountsOnly.goto {g h : Group} (k : CountsOnly g h) (pc : DWord) : CountsOnly (g.goto pc) (h.goto pc) := by
  obtain ⟨p, q, rfl, h1, h2⟩ := k
  exact ⟨p, q, rfl, h1, h2⟩

/-- Writing registers and moving on. -/
theorem Counted.finish {s t : State} {e : Env} (h : kget s.groups e.gid = some e.g) (k : Counted s t e) (r : Regs) : Did s (t.finish e r) e r :=
  k.modGroup h _ fun _ hg => (hg.set_regs r).advance

theorem Counted.advance {s t : State} {e : Env} (h : kget s.groups e.gid = some e.g) (k : Counted s t e) : Did s (t.advance e.gid) e e.g.regs :=
  k.modGroup h _ fun _ hg => hg.advance

/-! ### The shells -/

theorem withF3_ok {sh : Sheet} {f : F3} {s : State} {e : Env} (h : s.env = some e) (hf : f3Cause sh e.g f = none) (body : Env → State → State) :
    ∃ u, Counted s u e ∧ withF3 sh f s body = .next (body e u) := by
  refine ⟨s.countLatch e.gid [(sh.d, f.d), (sh.a, f.a), (sh.b, f.b)], (Became.self (State.env_eq h).1).countLatch _, ?_⟩
  simp [withF3, asGroup, h, hf]

theorem withF3_trap {sh : Sheet} {f : F3} {s : State} {e : Env} {c : Nat} (h : s.env = some e) (hf : f3Cause sh e.g f = some c)
    (body : Env → State → State) : withF3 sh f s body = .next (s.trapWord e c) := by
  simp [withF3, asGroup, h, hf]

theorem withFI_ok {sh : Sheet} {f : FI} {s : State} {e : Env} (h : s.env = some e) (hf : fiCause sh e.g f = none) (body : Env → State → State) :
    ∃ u, Counted s u e ∧ withFI sh f s body = .next (body e u) := by
  refine ⟨s.countLatch e.gid [(sh.a, f.a)], (Became.self (State.env_eq h).1).countLatch _, ?_⟩
  simp [withFI, asGroup, h, hf]

theorem withFI_trap {sh : Sheet} {f : FI} {s : State} {e : Env} {c : Nat} (h : s.env = some e) (hf : fiCause sh e.g f = some c)
    (body : Env → State → State) : withFI sh f s body = .next (s.trapWord e c) := by
  simp [withFI, asGroup, h, hf]

end Sys2Proof.Machine
end

