-- ==== Sys2Proof/Laws/Memory.lean ====
section
/-! SUPPORT. Every operation on device memory keeps its canonical form: those that are not writes of bytes. -/
namespace Sys2Proof.Machine

/-- A part of a canonical map is canonical. -/
theorem Canon.filter {w : Nat} {m : Sparse w} (hm : Canon m) (p : Nat × BitVec w → Bool) : Canon (m.filter p) :=
  ⟨hm.1.filter _, fun e he => hm.2 e (List.mem_filter.mp he).1⟩

/-- R214: zeroing a frame. -/
theorem State.giveFrame_wf {s : State} (h : Memory.wf s.mem = true) (frame : Nat) (e : Byte) : Memory.wf (s.giveFrame frame e).mem = true :=
  (memory_wf_iff _).2 (((memory_wf_iff _).1 h).filter _)

theorem placeWord_wf {m : Sparse 8} (h : Memory.wf m = true) (word : List Byte) : Memory.wf (placeWord m word) = true := by
  rw [memory_wf_iff] at *
  exact ((((h.setBytes _ _).setBytes _ _).setBytes _ _).setBytes _ _).setBytes _ _

theorem State.withFetchWord_wf {s : State} (h : Memory.wf s.mem = true) (nbits w : Nat) : Memory.wf (s.withFetchWord nbits w).mem = true := by
  unfold State.withFetchWord
  split
  · exact h
  · exact placeWord_wf h _

end Sys2Proof.Machine
end

