-- ==== Sys2Proof/Laws/PerInstr.lean ====
section
/-! SUPPORT. Families of statements made for each instruction. -/
namespace Sys2Proof.Laws

/-! ### Encoding and decoding -/

/-- Whether a row of the table is a word that the manual encodes: not an event or command, and not an awl's base instruction. -/
def isWord (i : Instr) : Bool := i.opfn.isSome || match i with
  | .pairedWord .. | .rep _ | .alrd _ | .alwr _ | .alock _ | .apin _ | .aunpin _ | .afill _ | .afwd _ | .areply _ | .aend _ => true
  | _ => false

/-- A well-formed instruction that has a word has its bytes, and they are decoded as that instruction. -/
def RoundTrip.Statement (i : Instr) : Prop :=
  i.wf = true → (isWord i = true → (encode i).isSome = true) ∧ ∀ l, encode i = some l → decodeTableWord (8 * l.length) (leNat l) = some i

/-- The same for a row without a word. -/
theorem roundNone {i : Instr} (hw : isWord i = false) (he : encode i = .none) : RoundTrip.Statement i := by
  intro _
  simp [hw, he]

theorem roundWord {i : Instr} {w : DWord} (he : encodeWord i = w) (h0 : w ≠ 0) (hd : i.wf = true → decodeWord w = .instr i) :
    RoundTrip.Statement i := by
  intro hwf
  have e : encode i = some (leBytes 8 w.toNat) := by unfold encode; rw [he, if_pos h0]
  refine ⟨fun _ => by simp [e], fun l hl => ?_⟩
  rw [e, Option.some.injEq] at hl
  subst hl
  have hlt := w.isLt
  have h1 : leBytes 8 (leNat (leBytes 8 w.toNat) % 2 ^ 64) = leBytes 8 w.toNat := by
    rw [leNat_leBytes]; congr 1; omega
  have h2 : BitVec.ofNat 64 (leNat ((leBytes 8 w.toNat).take 8)) = w := by
    rw [List.take_of_length_le (by simp), leNat_leBytes]
    apply BitVec.eq_of_toNat_eq
    simp only [BitVec.toNat_ofNat]
    omega
  simp only [decodeTableWord, length_leBytes, Nat.reduceMul, Nat.reduceLeDiff, if_false, h1, decodeBytes, h2, hd hwf]

/-- A full-form word that its fields name. -/
theorem roundFull {i : Instr} {w : DWord} (he : encodeWord i = w) (ht : w.getLsbD 63 = false) (op fn : Nat)
    (ho : w.extractLsb' 56 7 = BitVec.ofNat 7 op) (hn : w.extractLsb' 51 5 = BitVec.ofNat 5 fn) (hop : op < 128 ∧ op ≠ 0) (hfn : fn < 32)
    (hd : opTable op fn w = some i) : RoundTrip.Statement i := by
  refine roundWord he ?_ fun hwf => ?_
  · rintro rfl
    have := congrArg BitVec.toNat ho
    simp at this
    omega
  · simp only [decodeWord, ht, fullWord, ho, hn, BitVec.toNat_ofNat]
    rw [Nat.mod_eq_of_lt (by omega), Nat.mod_eq_of_lt (by omega), hd]
    simp [hwf]

theorem roundF3 {i : Instr} {f : F3} (op fn : Nat) (he : encodeWord i = packF3 op fn f) (hop : op < 128 ∧ op ≠ 0) (hfn : fn < 32)
    (c : F3 → Instr) (hd : ∀ w, opTable op fn w = some (c (f3Of w))) (hi : c f = i) : RoundTrip.Statement i :=
  roundFull he (top_packF3 ..) op fn (op_packF3 ..) (fn_packF3 ..) hop hfn (by rw [hd, f3Of_packF3, hi])

theorem roundFI {i : Instr} {f : FI} (op fn : Nat) (he : encodeWord i = packFI op fn f) (hop : op < 128 ∧ op ≠ 0) (hfn : fn < 32)
    (c : FI → Instr) (hd : ∀ w, opTable op fn w = some (c (fiOf w))) (hi : c f = i) : RoundTrip.Statement i :=
  roundFull he (top_packFI ..) op fn (op_packFI ..) (fn_packFI ..) hop hfn (by rw [hd, fiOf_packFI, hi])

theorem roundFL {i : Instr} {f : FL} (op fn : Nat) (he : encodeWord i = packFL op fn f) (hop : op < 128 ∧ op ≠ 0) (hfn : fn < 32)
    (c : FL → Instr) (hd : ∀ w, opTable op fn w = if flZero w then some (c (flOf w)) else .none) (hi : c f = i) : RoundTrip.Statement i :=
  roundFull he (top_packFL ..) op fn (op_packFL ..) (fn_packFL ..) hop hfn (by rw [hd, flZero_packFL, flOf_packFL, hi]; rfl)

theorem roundFB {i : Instr} {f : FB} (op fn : Nat) (he : encodeWord i = packFB op fn f) (hop : op < 128 ∧ op ≠ 0) (hfn : fn < 32)
    (c : FB → Instr) (hd : ∀ w, opTable op fn w = if fbZero w then some (c (fbOf w)) else .none) (hi : c f = i) : RoundTrip.Statement i :=
  roundFull he (top_packFB ..) op fn (op_packFB ..) (fn_packFB ..) hop hfn (by rw [hd, fbZero_packFB, fbOf_packFB, hi]; rfl)

/-- A cache-side word. -/
theorem roundAwl {i : Instr} {r : AwlR} (f7 f3 op : Nat) (hw : encodeWord i = 0) (he : encodeAwl i = packAwl f7 f3 op r)
    (hop : op = 0x0B ∨ op = 0x2B) (hb : ∀ j, i ≠ .awlBaseInstruction .illegal j) (hd : decodeCacheSide (packAwl f7 f3 op r) = some i) :
    RoundTrip.Statement i := by
  intro _
  have hf := packAwl_fields f7 f3 op r
  have h0 : packAwl f7 f3 op r ≠ 0 := by
    intro h
    have := hf.1
    rw [h] at this
    rcases hop with rfl | rfl <;> simp at this
  have e : encode i = some (leBytes 4 (packAwl f7 f3 op r).toNat) := by
    unfold encode
    rw [hw, he, if_neg (by simp), if_pos h0]
  refine ⟨fun _ => by simp [e], fun l hl => ?_⟩
  rw [e, Option.some.injEq] at hl
  subst hl
  have hlt := (packAwl f7 f3 op r).isLt
  have h2 : BitVec.ofNat 32 (leNat (leBytes 4 (leNat (leBytes 4 (packAwl f7 f3 op r).toNat) % 2 ^ 32))) = packAwl f7 f3 op r := by
    rw [leNat_leBytes, leNat_leBytes]
    apply BitVec.eq_of_toNat_eq
    simp only [BitVec.toNat_ofNat]
    omega
  have h3 : decodeAwl (packAwl f7 f3 op r) = i := by
    unfold decodeAwl
    rw [packAwl_low, hf.1, hd]
    rcases hop with rfl | rfl <;> rfl
  simp only [decodeTableWord, length_leBytes, Nat.reduceMul, Nat.le_refl, if_true, h2, h3]

/-! ### One lemma for each constructor -/

theorem RoundTrip.coldReset (straps : Straps) (presenceLow reliable : Bool) : RoundTrip.Statement (.coldReset straps presenceLow reliable) := roundNone rfl rfl
theorem RoundTrip.warmReset : RoundTrip.Statement .warmReset := roundNone rfl rfl
theorem RoundTrip.firmwareReady : RoundTrip.Statement .firmwareReady := roundNone rfl rfl
theorem RoundTrip.vfFlr (fn : Nat) : RoundTrip.Statement (.vfFlr fn) := roundNone rfl rfl
theorem RoundTrip.pwrbrakeAssert : RoundTrip.Statement .pwrbrakeAssert := roundNone rfl rfl
theorem RoundTrip.pwrbrakeRelease (mhz0 mhz1 : Nat) : RoundTrip.Statement (.pwrbrakeRelease mhz0 mhz1) := roundNone rfl rfl
theorem RoundTrip.thermalThrottle (die steps : Nat) : RoundTrip.Statement (.thermalThrottle die steps) := roundNone rfl rfl
theorem RoundTrip.thermtrip (die : Nat) : RoundTrip.Statement (.thermtrip die) := roundNone rfl rfl
theorem RoundTrip.powerLimitExceeded (watts mhz0 mhz1 : Nat) : RoundTrip.Statement (.powerLimitExceeded watts mhz0 mhz1) := roundNone rfl rfl
theorem RoundTrip.coreClockChange (die mhz : Nat) : RoundTrip.Statement (.coreClockChange die mhz) := roundNone rfl rfl
theorem RoundTrip.flitCrcFail (dir chan seq : Nat) : RoundTrip.Statement (.flitCrcFail dir chan seq) := roundNone rfl rfl
theorem RoundTrip.linkRetrain (lanes0 lanes1 : Nat) : RoundTrip.Statement (.linkRetrain lanes0 lanes1) := roundNone rfl rfl
theorem RoundTrip.linkRetrainEnd (ok : Bool) : RoundTrip.Statement (.linkRetrainEnd ok) := roundNone rfl rfl
theorem RoundTrip.hotPlug (out : Nat) (attached : Bool) : RoundTrip.Statement (.hotPlug out attached) := roundNone rfl rfl
theorem RoundTrip.barResize (fn log2 : Nat) : RoundTrip.Statement (.barResize fn log2) := roundNone rfl rfl
theorem RoundTrip.windowAccess (fn off : Nat) (write : Option (List Byte)) (len : Nat) : RoundTrip.Statement (.windowAccess fn off write len) := roundNone rfl rfl
theorem RoundTrip.atsInvalidation (pasid page : Nat) (absent : Bool) : RoundTrip.Statement (.atsInvalidation pasid page absent) := roundNone rfl rfl
theorem RoundTrip.priResponse (pasid page : Nat) (ok : Bool) : RoundTrip.Statement (.priResponse pasid page ok) := roundNone rfl rfl
theorem RoundTrip.registerWrite (fn off : Nat) (v : Word) : RoundTrip.Statement (.registerWrite fn off v) := roundNone rfl rfl
theorem RoundTrip.wctlWrite (fn : Nat) (v : Word) : RoundTrip.Statement (.wctlWrite fn v) := roundNone rfl rfl
theorem RoundTrip.qctlEnable (fn ctx : Nat) (v : Word) : RoundTrip.Statement (.qctlEnable fn ctx v) := roundNone rfl rfl
theorem RoundTrip.qctlDisable (fn ctx : Nat) (v : Word) : RoundTrip.Statement (.qctlDisable fn ctx v) := roundNone rfl rfl
theorem RoundTrip.qwptrWrite (fn ctx : Nat) (v : Word) : RoundTrip.Statement (.qwptrWrite fn ctx v) := roundNone rfl rfl
theorem RoundTrip.elctlWrite (fn : Nat) (v : Word) : RoundTrip.Statement (.elctlWrite fn v) := roundNone rfl rfl
theorem RoundTrip.nonce : RoundTrip.Statement .nonce := roundNone rfl rfl
theorem RoundTrip.enroll : RoundTrip.Statement .enroll := roundNone rfl rfl
theorem RoundTrip.revoke : RoundTrip.Statement .revoke := roundNone rfl rfl
theorem RoundTrip.vendoroff : RoundTrip.Statement .vendoroff := roundNone rfl rfl
theorem RoundTrip.svnset : RoundTrip.Statement .svnset := roundNone rfl rfl
theorem RoundTrip.seal : RoundTrip.Statement .seal := roundNone rfl rfl
theorem RoundTrip.fwstage : RoundTrip.Statement .fwstage := roundNone rfl rfl
theorem RoundTrip.s2root : RoundTrip.Statement .s2root := roundNone rfl rfl
theorem RoundTrip.s2inval : RoundTrip.Statement .s2inval := roundNone rfl rfl
theorem RoundTrip.fotset : RoundTrip.Statement .fotset := roundNone rfl rfl
theorem RoundTrip.errread : RoundTrip.Statement .errread := roundNone rfl rfl
theorem RoundTrip.outset (trained : Bool) : RoundTrip.Statement (.outset trained) := roundNone rfl rfl
theorem RoundTrip.unknownMailboxRequest : RoundTrip.Statement .unknownMailboxRequest := roundNone rfl rfl
theorem RoundTrip.getVersion (req : List Byte) : RoundTrip.Statement (.getVersion req) := roundNone rfl rfl
theorem RoundTrip.getCapabilities (req : List Byte) : RoundTrip.Statement (.getCapabilities req) := roundNone rfl rfl
theorem RoundTrip.negotiateAlgorithms (req : List Byte) : RoundTrip.Statement (.negotiateAlgorithms req) := roundNone rfl rfl
theorem RoundTrip.getDigests (req : List Byte) : RoundTrip.Statement (.getDigests req) := roundNone rfl rfl
theorem RoundTrip.getCertificate (req : List Byte) : RoundTrip.Statement (.getCertificate req) := roundNone rfl rfl
theorem RoundTrip.challenge (req : List Byte) : RoundTrip.Statement (.challenge req) := roundNone rfl rfl
theorem RoundTrip.getMeasurements (req : List Byte) : RoundTrip.Statement (.getMeasurements req) := roundNone rfl rfl
theorem RoundTrip.cmdNop (fn ctx : Nat) : RoundTrip.Statement (.cmdNop fn ctx) := roundNone rfl rfl
theorem RoundTrip.cmdLaunch (fn ctx : Nat) : RoundTrip.Statement (.cmdLaunch fn ctx) := roundNone rfl rfl
theorem RoundTrip.copy (fn ctx : Nat) : RoundTrip.Statement (.copy fn ctx) := roundNone rfl rfl
theorem RoundTrip.hostCopyComplete (id : Nat) : RoundTrip.Statement (.hostCopyComplete id) := roundNone rfl rfl
theorem RoundTrip.fenceWait (fn ctx : Nat) : RoundTrip.Statement (.fenceWait fn ctx) := roundNone rfl rfl
theorem RoundTrip.fenceWaitRecheck (fn ctx : Nat) : RoundTrip.Statement (.fenceWaitRecheck fn ctx) := roundNone rfl rfl
theorem RoundTrip.fenceSignal (fn ctx : Nat) : RoundTrip.Statement (.fenceSignal fn ctx) := roundNone rfl rfl
theorem RoundTrip.presentShow (fn ctx : Nat) : RoundTrip.Statement (.presentShow fn ctx) := roundNone rfl rfl
theorem RoundTrip.presentCapture (fn ctx : Nat) : RoundTrip.Statement (.presentCapture fn ctx) := roundNone rfl rfl
theorem RoundTrip.inval (fn ctx : Nat) : RoundTrip.Statement (.inval fn ctx) := roundNone rfl rfl
theorem RoundTrip.resFence (fn ctx : Nat) : RoundTrip.Statement (.resFence fn ctx) := roundNone rfl rfl
theorem RoundTrip.awlRegRegister (fn ctx : Nat) : RoundTrip.Statement (.awlRegRegister fn ctx) := roundNone rfl rfl
theorem RoundTrip.awlRegRemove (fn ctx : Nat) : RoundTrip.Statement (.awlRegRemove fn ctx) := roundNone rfl rfl
theorem RoundTrip.grantCreate (fn ctx : Nat) : RoundTrip.Statement (.grantCreate fn ctx) := roundNone rfl rfl
theorem RoundTrip.grantChange (fn ctx : Nat) : RoundTrip.Statement (.grantChange fn ctx) := roundNone rfl rfl
theorem RoundTrip.grantWithdraw (fn ctx : Nat) : RoundTrip.Statement (.grantWithdraw fn ctx) := roundNone rfl rfl
theorem RoundTrip.ownmapTiles (fn ctx : Nat) : RoundTrip.Statement (.ownmapTiles fn ctx) := roundNone rfl rfl
theorem RoundTrip.ownmapBlocks (fn ctx : Nat) : RoundTrip.Statement (.ownmapBlocks fn ctx) := roundNone rfl rfl
theorem RoundTrip.ownmapAssign (fn ctx : Nat) : RoundTrip.Statement (.ownmapAssign fn ctx) := roundNone rfl rfl
theorem RoundTrip.ownmapRegion (fn ctx : Nat) : RoundTrip.Statement (.ownmapRegion fn ctx) := roundNone rfl rfl
theorem RoundTrip.ctxCreate (fn ctx : Nat) : RoundTrip.Statement (.ctxCreate fn ctx) := roundNone rfl rfl
theorem RoundTrip.ctxDestroy (fn ctx : Nat) : RoundTrip.Statement (.ctxDestroy fn ctx) := roundNone rfl rfl
theorem RoundTrip.ctxReconfigure (fn ctx : Nat) : RoundTrip.Statement (.ctxReconfigure fn ctx) := roundNone rfl rfl
theorem RoundTrip.partCfg (fn ctx : Nat) : RoundTrip.Statement (.partCfg fn ctx) := roundNone rfl rfl
theorem RoundTrip.partCfgDisable (fn ctx : Nat) : RoundTrip.Statement (.partCfgDisable fn ctx) := roundNone rfl rfl
theorem RoundTrip.partPause (fn ctx : Nat) : RoundTrip.Statement (.partPause fn ctx) := roundNone rfl rfl
theorem RoundTrip.partResume (fn ctx : Nat) : RoundTrip.Statement (.partResume fn ctx) := roundNone rfl rfl
theorem RoundTrip.unknownCommand (fn ctx : Nat) : RoundTrip.Statement (.unknownCommand fn ctx) := roundNone rfl rfl
theorem RoundTrip.latchPoint (out : Nat) : RoundTrip.Statement (.latchPoint out) := roundNone rfl rfl
theorem RoundTrip.scanout (out : Nat) : RoundTrip.Statement (.scanout out) := roundNone rfl rfl
theorem RoundTrip.blockPlace (die part : Nat) : RoundTrip.Statement (.blockPlace die part) := roundNone rfl rfl
theorem RoundTrip.blockRetire (bid : Nat) : RoundTrip.Statement (.blockRetire bid) := roundNone rfl rfl
theorem RoundTrip.armedLaunchStart (bid k : Nat) : RoundTrip.Statement (.armedLaunchStart bid k) := roundNone rfl rfl
theorem RoundTrip.temporalQuantumExpiry (core : Nat) : RoundTrip.Statement (.temporalQuantumExpiry core) := roundNone rfl rfl
theorem RoundTrip.batchTimeout (lid die node : Nat) : RoundTrip.Statement (.batchTimeout lid die node) := roundNone rfl rfl
theorem RoundTrip.batchDispatch (die : Nat) : RoundTrip.Statement (.batchDispatch die) := roundNone rfl rfl
theorem RoundTrip.travelPin (lid : Nat) : RoundTrip.Statement (.travelPin lid) := roundNone rfl rfl
theorem RoundTrip.hopArrival (lid idx : Nat) : RoundTrip.Statement (.hopArrival lid idx) := roundNone rfl rfl
theorem RoundTrip.arrivalAdmit (core : Nat) : RoundTrip.Statement (.arrivalAdmit core) := roundNone rfl rfl
theorem RoundTrip.assemblyTimeout (core entry : Nat) : RoundTrip.Statement (.assemblyTimeout core entry) := roundNone rfl rfl
theorem RoundTrip.segmentReplicate (lid seg : Nat) : RoundTrip.Statement (.segmentReplicate lid seg) := roundNone rfl rfl
theorem RoundTrip.replicaRetire (core : Nat) : RoundTrip.Statement (.replicaRetire core) := roundNone rfl rfl
theorem RoundTrip.rep (f : FR) : RoundTrip.Statement (.rep f) := by
  refine roundWord (w := packFR f) rfl ?_ fun _ => ?_
  · intro h
    have := op_packFR f
    rw [h] at this
    exact absurd this (by decide)
  · have hf : fullWord (packFR f) = some (.rep f) := by
      unfold fullWord
      rw [op_packFR]
      show (if frZero (packFR f) then some (Instr.rep (frOf (packFR f))) else none) = _
      rw [frZero_packFR, frOf_packFR]
      rfl
    unfold decodeWord
    rw [top_packFR, hf]
    rfl
theorem RoundTrip.binChunk (lid : Nat) : RoundTrip.Statement (.binChunk lid) := roundNone rfl rfl
theorem RoundTrip.tilePassStart (lid : Nat) : RoundTrip.Statement (.tilePassStart lid) := roundNone rfl rfl
theorem RoundTrip.pixelGroupStart (bid : Nat) : RoundTrip.Statement (.pixelGroupStart bid) := roundNone rfl rfl
theorem RoundTrip.meshGroupAdmit (core : Nat) : RoundTrip.Statement (.meshGroupAdmit core) := roundNone rfl rfl
theorem RoundTrip.pmodeWindowEnd (frame : Nat) : RoundTrip.Statement (.pmodeWindowEnd frame) := roundNone rfl rfl
theorem RoundTrip.memoryResponse (gid : Nat) : RoundTrip.Statement (.memoryResponse gid) := roundNone rfl rfl
theorem RoundTrip.copyComplete (core idx : Nat) : RoundTrip.Statement (.copyComplete core idx) := roundNone rfl rfl
theorem RoundTrip.copyStop (core idx : Nat) : RoundTrip.Statement (.copyStop core idx) := roundNone rfl rfl
theorem RoundTrip.matrixOpFinish (core : Nat) : RoundTrip.Statement (.matrixOpFinish core) := roundNone rfl rfl
theorem RoundTrip.awlInvocation (slice : Nat) : RoundTrip.Statement (.awlInvocation slice) := roundNone rfl rfl
theorem RoundTrip.awlMessageArrival (idx : Nat) : RoundTrip.Statement (.awlMessageArrival idx) := roundNone rfl rfl
theorem RoundTrip.amsgReplyArrival (idx : Nat) : RoundTrip.Statement (.amsgReplyArrival idx) := roundNone rfl rfl
theorem RoundTrip.awlBudgetExhausted (slice : Nat) : RoundTrip.Statement (.awlBudgetExhausted slice) := roundNone rfl rfl
theorem RoundTrip.awlBaseInstruction (i : Rv) (len : Nat) : RoundTrip.Statement (.awlBaseInstruction i len) := roundNone rfl rfl
theorem RoundTrip.watchdogExpiry (gid : Nat) : RoundTrip.Statement (.watchdogExpiry gid) := roundNone rfl rfl
theorem RoundTrip.contextPreempt (part ctx core : Nat) : RoundTrip.Statement (.contextPreempt part ctx core) := roundNone rfl rfl
theorem RoundTrip.contextRestore (part ctx core : Nat) : RoundTrip.Statement (.contextRestore part ctx core) := roundNone rfl rfl
theorem RoundTrip.uncorrectableError (e : ErrSite) : RoundTrip.Statement (.uncorrectableError e) := roundNone rfl rfl
theorem RoundTrip.correctedError (e : ErrSite) : RoundTrip.Statement (.correctedError e) := roundNone rfl rfl
theorem RoundTrip.macroSelfTest (e : ErrSite) (pass : Bool) : RoundTrip.Statement (.macroSelfTest e pass) := roundNone rfl rfl
theorem RoundTrip.sadd (f : F3) : RoundTrip.Statement (.sadd f) := roundF3 0x01 0 rfl (by decide) (by decide) .sadd (fun _ => rfl) rfl
theorem RoundTrip.ssub (f : F3) : RoundTrip.Statement (.ssub f) := roundF3 0x01 1 rfl (by decide) (by decide) .ssub (fun _ => rfl) rfl
theorem RoundTrip.smul (f : F3) : RoundTrip.Statement (.smul f) := roundF3 0x01 2 rfl (by decide) (by decide) .smul (fun _ => rfl) rfl
theorem RoundTrip.smulhi (f : F3) : RoundTrip.Statement (.smulhi f) := roundF3 0x01 3 rfl (by decide) (by decide) .smulhi (fun _ => rfl) rfl
theorem RoundTrip.smulhu (f : F3) : RoundTrip.Statement (.smulhu f) := roundF3 0x01 4 rfl (by decide) (by decide) .smulhu (fun _ => rfl) rfl
theorem RoundTrip.sdiv (f : F3) : RoundTrip.Statement (.sdiv f) := roundF3 0x01 5 rfl (by decide) (by decide) .sdiv (fun _ => rfl) rfl
theorem RoundTrip.sdivu (f : F3) : RoundTrip.Statement (.sdivu f) := roundF3 0x01 6 rfl (by decide) (by decide) .sdivu (fun _ => rfl) rfl
theorem RoundTrip.srem (f : F3) : RoundTrip.Statement (.srem f) := roundF3 0x01 7 rfl (by decide) (by decide) .srem (fun _ => rfl) rfl
theorem RoundTrip.sremu (f : F3) : RoundTrip.Statement (.sremu f) := roundF3 0x01 8 rfl (by decide) (by decide) .sremu (fun _ => rfl) rfl
theorem RoundTrip.sand (f : F3) : RoundTrip.Statement (.sand f) := roundF3 0x01 9 rfl (by decide) (by decide) .sand (fun _ => rfl) rfl
theorem RoundTrip.sor (f : F3) : RoundTrip.Statement (.sor f) := roundF3 0x01 10 rfl (by decide) (by decide) .sor (fun _ => rfl) rfl
theorem RoundTrip.sxor (f : F3) : RoundTrip.Statement (.sxor f) := roundF3 0x01 11 rfl (by decide) (by decide) .sxor (fun _ => rfl) rfl
theorem RoundTrip.sshl (f : F3) : RoundTrip.Statement (.sshl f) := roundF3 0x01 12 rfl (by decide) (by decide) .sshl (fun _ => rfl) rfl
theorem RoundTrip.sshr (f : F3) : RoundTrip.Statement (.sshr f) := roundF3 0x01 13 rfl (by decide) (by decide) .sshr (fun _ => rfl) rfl
theorem RoundTrip.ssar (f : F3) : RoundTrip.Statement (.ssar f) := roundF3 0x01 14 rfl (by decide) (by decide) .ssar (fun _ => rfl) rfl
theorem RoundTrip.smin (f : F3) : RoundTrip.Statement (.smin f) := roundF3 0x01 15 rfl (by decide) (by decide) .smin (fun _ => rfl) rfl
theorem RoundTrip.smax (f : F3) : RoundTrip.Statement (.smax f) := roundF3 0x01 16 rfl (by decide) (by decide) .smax (fun _ => rfl) rfl
theorem RoundTrip.sminu (f : F3) : RoundTrip.Statement (.sminu f) := roundF3 0x01 17 rfl (by decide) (by decide) .sminu (fun _ => rfl) rfl
theorem RoundTrip.smaxu (f : F3) : RoundTrip.Statement (.smaxu f) := roundF3 0x01 18 rfl (by decide) (by decide) .smaxu (fun _ => rfl) rfl
theorem RoundTrip.ssel (f : F3) : RoundTrip.Statement (.ssel f) := roundF3 0x01 19 rfl (by decide) (by decide) .ssel (fun _ => rfl) rfl
theorem RoundTrip.sbfe (f : F3) : RoundTrip.Statement (.sbfe f) := roundF3 0x01 20 rfl (by decide) (by decide) .sbfe (fun _ => rfl) rfl
theorem RoundTrip.sbfi (f : F3) : RoundTrip.Statement (.sbfi f) := roundF3 0x01 21 rfl (by decide) (by decide) .sbfi (fun _ => rfl) rfl
theorem RoundTrip.spopc (f : F3) : RoundTrip.Statement (.spopc f) := roundF3 0x01 22 rfl (by decide) (by decide) .spopc (fun _ => rfl) rfl
theorem RoundTrip.sclz (f : F3) : RoundTrip.Statement (.sclz f) := roundF3 0x01 23 rfl (by decide) (by decide) .sclz (fun _ => rfl) rfl
theorem RoundTrip.smov (f : F3) : RoundTrip.Statement (.smov f) := roundF3 0x01 24 rfl (by decide) (by decide) .smov (fun _ => rfl) rfl
theorem RoundTrip.saddI (f : FI) : RoundTrip.Statement (.saddI f) := roundFI 0x02 0 rfl (by decide) (by decide) .saddI (fun _ => rfl) rfl
theorem RoundTrip.ssubI (f : FI) : RoundTrip.Statement (.ssubI f) := roundFI 0x02 1 rfl (by decide) (by decide) .ssubI (fun _ => rfl) rfl
theorem RoundTrip.smulI (f : FI) : RoundTrip.Statement (.smulI f) := roundFI 0x02 2 rfl (by decide) (by decide) .smulI (fun _ => rfl) rfl
theorem RoundTrip.smulhiI (f : FI) : RoundTrip.Statement (.smulhiI f) := roundFI 0x02 3 rfl (by decide) (by decide) .smulhiI (fun _ => rfl) rfl
theorem RoundTrip.smulhuI (f : FI) : RoundTrip.Statement (.smulhuI f) := roundFI 0x02 4 rfl (by decide) (by decide) .smulhuI (fun _ => rfl) rfl
theorem RoundTrip.sdivI (f : FI) : RoundTrip.Statement (.sdivI f) := roundFI 0x02 5 rfl (by decide) (by decide) .sdivI (fun _ => rfl) rfl
theorem RoundTrip.sdivuI (f : FI) : RoundTrip.Statement (.sdivuI f) := roundFI 0x02 6 rfl (by decide) (by decide) .sdivuI (fun _ => rfl) rfl
theorem RoundTrip.sremI (f : FI) : RoundTrip.Statement (.sremI f) := roundFI 0x02 7 rfl (by decide) (by decide) .sremI (fun _ => rfl) rfl
theorem RoundTrip.sremuI (f : FI) : RoundTrip.Statement (.sremuI f) := roundFI 0x02 8 rfl (by decide) (by decide) .sremuI (fun _ => rfl) rfl
theorem RoundTrip.sandI (f : FI) : RoundTrip.Statement (.sandI f) := roundFI 0x02 9 rfl (by decide) (by decide) .sandI (fun _ => rfl) rfl
theorem RoundTrip.sorI (f : FI) : RoundTrip.Statement (.sorI f) := roundFI 0x02 10 rfl (by decide) (by decide) .sorI (fun _ => rfl) rfl
theorem RoundTrip.sxorI (f : FI) : RoundTrip.Statement (.sxorI f) := roundFI 0x02 11 rfl (by decide) (by decide) .sxorI (fun _ => rfl) rfl
theorem RoundTrip.sshlI (f : FI) : RoundTrip.Statement (.sshlI f) := roundFI 0x02 12 rfl (by decide) (by decide) .sshlI (fun _ => rfl) rfl
theorem RoundTrip.sshrI (f : FI) : RoundTrip.Statement (.sshrI f) := roundFI 0x02 13 rfl (by decide) (by decide) .sshrI (fun _ => rfl) rfl
theorem RoundTrip.ssarI (f : FI) : RoundTrip.Statement (.ssarI f) := roundFI 0x02 14 rfl (by decide) (by decide) .ssarI (fun _ => rfl) rfl
theorem RoundTrip.sminI (f : FI) : RoundTrip.Statement (.sminI f) := roundFI 0x02 15 rfl (by decide) (by decide) .sminI (fun _ => rfl) rfl
theorem RoundTrip.smaxI (f : FI) : RoundTrip.Statement (.smaxI f) := roundFI 0x02 16 rfl (by decide) (by decide) .smaxI (fun _ => rfl) rfl
theorem RoundTrip.sminuI (f : FI) : RoundTrip.Statement (.sminuI f) := roundFI 0x02 17 rfl (by decide) (by decide) .sminuI (fun _ => rfl) rfl
theorem RoundTrip.smaxuI (f : FI) : RoundTrip.Statement (.smaxuI f) := roundFI 0x02 18 rfl (by decide) (by decide) .smaxuI (fun _ => rfl) rfl
theorem RoundTrip.sbfeI (f : FI) : RoundTrip.Statement (.sbfeI f) := roundFI 0x02 20 rfl (by decide) (by decide) .sbfeI (fun _ => rfl) rfl
theorem RoundTrip.sbfiI (f : FI) : RoundTrip.Statement (.sbfiI f) := roundFI 0x02 21 rfl (by decide) (by decide) .sbfiI (fun _ => rfl) rfl
theorem RoundTrip.sli (f : FL) : RoundTrip.Statement (.sli f) := roundFL 0x03 0 rfl (by decide) (by decide) .sli (fun _ => rfl) rfl
theorem RoundTrip.sadr (f : FL) : RoundTrip.Statement (.sadr f) := roundFL 0x03 1 rfl (by decide) (by decide) .sadr (fun _ => rfl) rfl
theorem RoundTrip.scmpeq (f : F3) : RoundTrip.Statement (.scmpeq f) := roundF3 0x04 0 rfl (by decide) (by decide) .scmpeq (fun _ => rfl) rfl
theorem RoundTrip.scmpne (f : F3) : RoundTrip.Statement (.scmpne f) := roundF3 0x04 1 rfl (by decide) (by decide) .scmpne (fun _ => rfl) rfl
theorem RoundTrip.scmplt (f : F3) : RoundTrip.Statement (.scmplt f) := roundF3 0x04 2 rfl (by decide) (by decide) .scmplt (fun _ => rfl) rfl
theorem RoundTrip.scmple (f : F3) : RoundTrip.Statement (.scmple f) := roundF3 0x04 3 rfl (by decide) (by decide) .scmple (fun _ => rfl) rfl
theorem RoundTrip.scmpltu (f : F3) : RoundTrip.Statement (.scmpltu f) := roundF3 0x04 4 rfl (by decide) (by decide) .scmpltu (fun _ => rfl) rfl
theorem RoundTrip.scmpleu (f : F3) : RoundTrip.Statement (.scmpleu f) := roundF3 0x04 5 rfl (by decide) (by decide) .scmpleu (fun _ => rfl) rfl
theorem RoundTrip.scmpgt (f : F3) : RoundTrip.Statement (.scmpgt f) := roundF3 0x04 6 rfl (by decide) (by decide) .scmpgt (fun _ => rfl) rfl
theorem RoundTrip.scmpge (f : F3) : RoundTrip.Statement (.scmpge f) := roundF3 0x04 7 rfl (by decide) (by decide) .scmpge (fun _ => rfl) rfl
theorem RoundTrip.scmpgtu (f : F3) : RoundTrip.Statement (.scmpgtu f) := roundF3 0x04 8 rfl (by decide) (by decide) .scmpgtu (fun _ => rfl) rfl
theorem RoundTrip.scmpgeu (f : F3) : RoundTrip.Statement (.scmpgeu f) := roundF3 0x04 9 rfl (by decide) (by decide) .scmpgeu (fun _ => rfl) rfl
theorem RoundTrip.scmpeqI (f : FI) : RoundTrip.Statement (.scmpeqI f) := roundFI 0x05 0 rfl (by decide) (by decide) .scmpeqI (fun _ => rfl) rfl
theorem RoundTrip.scmpneI (f : FI) : RoundTrip.Statement (.scmpneI f) := roundFI 0x05 1 rfl (by decide) (by decide) .scmpneI (fun _ => rfl) rfl
theorem RoundTrip.scmpltI (f : FI) : RoundTrip.Statement (.scmpltI f) := roundFI 0x05 2 rfl (by decide) (by decide) .scmpltI (fun _ => rfl) rfl
theorem RoundTrip.scmpleI (f : FI) : RoundTrip.Statement (.scmpleI f) := roundFI 0x05 3 rfl (by decide) (by decide) .scmpleI (fun _ => rfl) rfl
theorem RoundTrip.scmpltuI (f : FI) : RoundTrip.Statement (.scmpltuI f) := roundFI 0x05 4 rfl (by decide) (by decide) .scmpltuI (fun _ => rfl) rfl
theorem RoundTrip.scmpleuI (f : FI) : RoundTrip.Statement (.scmpleuI f) := roundFI 0x05 5 rfl (by decide) (by decide) .scmpleuI (fun _ => rfl) rfl
theorem RoundTrip.scmpgtI (f : FI) : RoundTrip.Statement (.scmpgtI f) := roundFI 0x05 6 rfl (by decide) (by decide) .scmpgtI (fun _ => rfl) rfl
theorem RoundTrip.scmpgeI (f : FI) : RoundTrip.Statement (.scmpgeI f) := roundFI 0x05 7 rfl (by decide) (by decide) .scmpgeI (fun _ => rfl) rfl
theorem RoundTrip.scmpgtuI (f : FI) : RoundTrip.Statement (.scmpgtuI f) := roundFI 0x05 8 rfl (by decide) (by decide) .scmpgtuI (fun _ => rfl) rfl
theorem RoundTrip.scmpgeuI (f : FI) : RoundTrip.Statement (.scmpgeuI f) := roundFI 0x05 9 rfl (by decide) (by decide) .scmpgeuI (fun _ => rfl) rfl
theorem RoundTrip.sfadd (f : F3) : RoundTrip.Statement (.sfadd f) := roundF3 0x06 0 rfl (by decide) (by decide) .sfadd (fun _ => rfl) rfl
theorem RoundTrip.sfsub (f : F3) : RoundTrip.Statement (.sfsub f) := roundF3 0x06 1 rfl (by decide) (by decide) .sfsub (fun _ => rfl) rfl
theorem RoundTrip.sfmul (f : F3) : RoundTrip.Statement (.sfmul f) := roundF3 0x06 2 rfl (by decide) (by decide) .sfmul (fun _ => rfl) rfl
theorem RoundTrip.sfma (f : F3) : RoundTrip.Statement (.sfma f) := roundF3 0x06 3 rfl (by decide) (by decide) .sfma (fun _ => rfl) rfl
theorem RoundTrip.sfmin (f : F3) : RoundTrip.Statement (.sfmin f) := roundF3 0x06 4 rfl (by decide) (by decide) .sfmin (fun _ => rfl) rfl
theorem RoundTrip.sfmax (f : F3) : RoundTrip.Statement (.sfmax f) := roundF3 0x06 5 rfl (by decide) (by decide) .sfmax (fun _ => rfl) rfl
theorem RoundTrip.sfcmp (f : F3) : RoundTrip.Statement (.sfcmp f) := roundF3 0x06 6 rfl (by decide) (by decide) .sfcmp (fun _ => rfl) rfl
theorem RoundTrip.scvt (f : F3) : RoundTrip.Statement (.scvt f) := roundF3 0x06 7 rfl (by decide) (by decide) .scvt (fun _ => rfl) rfl
theorem RoundTrip.mand (f : F3) : RoundTrip.Statement (.mand f) := roundF3 0x07 0 rfl (by decide) (by decide) .mand (fun _ => rfl) rfl
theorem RoundTrip.mor (f : F3) : RoundTrip.Statement (.mor f) := roundF3 0x07 1 rfl (by decide) (by decide) .mor (fun _ => rfl) rfl
theorem RoundTrip.mxor (f : F3) : RoundTrip.Statement (.mxor f) := roundF3 0x07 2 rfl (by decide) (by decide) .mxor (fun _ => rfl) rfl
theorem RoundTrip.mandn (f : F3) : RoundTrip.Statement (.mandn f) := roundF3 0x07 3 rfl (by decide) (by decide) .mandn (fun _ => rfl) rfl
theorem RoundTrip.mnot (f : F3) : RoundTrip.Statement (.mnot f) := roundF3 0x07 4 rfl (by decide) (by decide) .mnot (fun _ => rfl) rfl
theorem RoundTrip.mmov (f : F3) : RoundTrip.Statement (.mmov f) := roundF3 0x07 5 rfl (by decide) (by decide) .mmov (fun _ => rfl) rfl
theorem RoundTrip.mpopc (f : F3) : RoundTrip.Statement (.mpopc f) := roundF3 0x07 6 rfl (by decide) (by decide) .mpopc (fun _ => rfl) rfl
theorem RoundTrip.mfirst (f : F3) : RoundTrip.Statement (.mfirst f) := roundF3 0x07 7 rfl (by decide) (by decide) .mfirst (fun _ => rfl) rfl
theorem RoundTrip.mtos (f : F3) : RoundTrip.Statement (.mtos f) := roundF3 0x07 8 rfl (by decide) (by decide) .mtos (fun _ => rfl) rfl
theorem RoundTrip.mfroms (f : F3) : RoundTrip.Statement (.mfroms f) := roundF3 0x07 9 rfl (by decide) (by decide) .mfroms (fun _ => rfl) rfl
theorem RoundTrip.mall (f : F3) : RoundTrip.Statement (.mall f) := roundF3 0x07 10 rfl (by decide) (by decide) .mall (fun _ => rfl) rfl
theorem RoundTrip.mclear (f : F3) : RoundTrip.Statement (.mclear f) := roundF3 0x07 11 rfl (by decide) (by decide) .mclear (fun _ => rfl) rfl
theorem RoundTrip.nop (f : F3) : RoundTrip.Statement (.nop f) := roundF3 0x10 0 rfl (by decide) (by decide) .nop (fun _ => rfl) rfl
theorem RoundTrip.bra (f : FB) : RoundTrip.Statement (.bra f) := roundFB 0x11 0 rfl (by decide) (by decide) .bra (fun _ => rfl) rfl
theorem RoundTrip.brc (f : FB) : RoundTrip.Statement (.brc f) := roundFB 0x11 1 rfl (by decide) (by decide) .brc (fun _ => rfl) rfl
theorem RoundTrip.brmz (f : FB) : RoundTrip.Statement (.brmz f) := roundFB 0x11 2 rfl (by decide) (by decide) .brmz (fun _ => rfl) rfl
theorem RoundTrip.brmnz (f : FB) : RoundTrip.Statement (.brmnz f) := roundFB 0x11 3 rfl (by decide) (by decide) .brmnz (fun _ => rfl) rfl
theorem RoundTrip.call (f : FB) : RoundTrip.Statement (.call f) := roundFB 0x11 4 rfl (by decide) (by decide) .call (fun _ => rfl) rfl
theorem RoundTrip.ret (f : FB) : RoundTrip.Statement (.ret f) := roundFB 0x11 5 rfl (by decide) (by decide) .ret (fun _ => rfl) rfl
theorem RoundTrip.jmpr (f : F3) : RoundTrip.Statement (.jmpr f) := roundF3 0x11 6 rfl (by decide) (by decide) .jmpr (fun _ => rfl) rfl
theorem RoundTrip.callr (f : F3) : RoundTrip.Statement (.callr f) := roundF3 0x11 7 rfl (by decide) (by decide) .callr (fun _ => rfl) rfl
theorem RoundTrip.endI (f : F3) : RoundTrip.Statement (.endI f) := roundF3 0x13 0 rfl (by decide) (by decide) .endI (fun _ => rfl) rfl
theorem RoundTrip.yield (f : F3) : RoundTrip.Statement (.yield f) := roundF3 0x13 1 rfl (by decide) (by decide) .yield (fun _ => rfl) rfl
theorem RoundTrip.bar (f : F3) : RoundTrip.Statement (.bar f) := roundF3 0x13 2 rfl (by decide) (by decide) .bar (fun _ => rfl) rfl
theorem RoundTrip.bart (f : F3) : RoundTrip.Statement (.bart f) := roundF3 0x13 3 rfl (by decide) (by decide) .bart (fun _ => rfl) rfl
theorem RoundTrip.setfmt (f : F3) : RoundTrip.Statement (.setfmt f) := roundF3 0x13 4 rfl (by decide) (by decide) .setfmt (fun _ => rfl) rfl
theorem RoundTrip.kset (f : F3) : RoundTrip.Statement (.kset f) := roundF3 0x14 0 rfl (by decide) (by decide) .kset (fun _ => rfl) rfl
theorem RoundTrip.kadd (f : F3) : RoundTrip.Statement (.kadd f) := roundF3 0x14 1 rfl (by decide) (by decide) .kadd (fun _ => rfl) rfl
theorem RoundTrip.kwait (f : F3) : RoundTrip.Statement (.kwait f) := roundF3 0x14 2 rfl (by decide) (by decide) .kwait (fun _ => rfl) rfl
theorem RoundTrip.kyield (f : FI) : RoundTrip.Statement (.kyield f) := roundFI 0x14 3 rfl (by decide) (by decide) .kyield (fun _ => rfl) rfl
theorem RoundTrip.krd (f : F3) : RoundTrip.Statement (.krd f) := roundF3 0x14 4 rfl (by decide) (by decide) .krd (fun _ => rfl) rfl
theorem RoundTrip.karm (f : F3) : RoundTrip.Statement (.karm f) := roundF3 0x14 5 rfl (by decide) (by decide) .karm (fun _ => rfl) rfl
theorem RoundTrip.vadd (f : F3) : RoundTrip.Statement (.vadd f) := roundF3 0x20 0 rfl (by decide) (by decide) .vadd (fun _ => rfl) rfl
theorem RoundTrip.vsub (f : F3) : RoundTrip.Statement (.vsub f) := roundF3 0x20 1 rfl (by decide) (by decide) .vsub (fun _ => rfl) rfl
theorem RoundTrip.vmul (f : F3) : RoundTrip.Statement (.vmul f) := roundF3 0x20 2 rfl (by decide) (by decide) .vmul (fun _ => rfl) rfl
theorem RoundTrip.vmulhi (f : F3) : RoundTrip.Statement (.vmulhi f) := roundF3 0x20 3 rfl (by decide) (by decide) .vmulhi (fun _ => rfl) rfl
theorem RoundTrip.vmulhu (f : F3) : RoundTrip.Statement (.vmulhu f) := roundF3 0x20 4 rfl (by decide) (by decide) .vmulhu (fun _ => rfl) rfl
theorem RoundTrip.vand (f : F3) : RoundTrip.Statement (.vand f) := roundF3 0x20 5 rfl (by decide) (by decide) .vand (fun _ => rfl) rfl
theorem RoundTrip.vor (f : F3) : RoundTrip.Statement (.vor f) := roundF3 0x20 6 rfl (by decide) (by decide) .vor (fun _ => rfl) rfl
theorem RoundTrip.vxor (f : F3) : RoundTrip.Statement (.vxor f) := roundF3 0x20 7 rfl (by decide) (by decide) .vxor (fun _ => rfl) rfl
theorem RoundTrip.vshl (f : F3) : RoundTrip.Statement (.vshl f) := roundF3 0x20 8 rfl (by decide) (by decide) .vshl (fun _ => rfl) rfl
theorem RoundTrip.vshr (f : F3) : RoundTrip.Statement (.vshr f) := roundF3 0x20 9 rfl (by decide) (by decide) .vshr (fun _ => rfl) rfl
theorem RoundTrip.vsar (f : F3) : RoundTrip.Statement (.vsar f) := roundF3 0x20 10 rfl (by decide) (by decide) .vsar (fun _ => rfl) rfl
theorem RoundTrip.vmin (f : F3) : RoundTrip.Statement (.vmin f) := roundF3 0x20 11 rfl (by decide) (by decide) .vmin (fun _ => rfl) rfl
theorem RoundTrip.vmax (f : F3) : RoundTrip.Statement (.vmax f) := roundF3 0x20 12 rfl (by decide) (by decide) .vmax (fun _ => rfl) rfl
theorem RoundTrip.vminu (f : F3) : RoundTrip.Statement (.vminu f) := roundF3 0x20 13 rfl (by decide) (by decide) .vminu (fun _ => rfl) rfl
theorem RoundTrip.vmaxu (f : F3) : RoundTrip.Statement (.vmaxu f) := roundF3 0x20 14 rfl (by decide) (by decide) .vmaxu (fun _ => rfl) rfl
theorem RoundTrip.vaddsat (f : F3) : RoundTrip.Statement (.vaddsat f) := roundF3 0x20 15 rfl (by decide) (by decide) .vaddsat (fun _ => rfl) rfl
theorem RoundTrip.vsubsat (f : F3) : RoundTrip.Statement (.vsubsat f) := roundF3 0x20 16 rfl (by decide) (by decide) .vsubsat (fun _ => rfl) rfl
theorem RoundTrip.vabsdiff (f : F3) : RoundTrip.Statement (.vabsdiff f) := roundF3 0x20 17 rfl (by decide) (by decide) .vabsdiff (fun _ => rfl) rfl
theorem RoundTrip.vmad (f : F3) : RoundTrip.Statement (.vmad f) := roundF3 0x20 18 rfl (by decide) (by decide) .vmad (fun _ => rfl) rfl
theorem RoundTrip.vbfe (f : F3) : RoundTrip.Statement (.vbfe f) := roundF3 0x20 19 rfl (by decide) (by decide) .vbfe (fun _ => rfl) rfl
theorem RoundTrip.vbfi (f : F3) : RoundTrip.Statement (.vbfi f) := roundF3 0x20 20 rfl (by decide) (by decide) .vbfi (fun _ => rfl) rfl
theorem RoundTrip.vpopc (f : F3) : RoundTrip.Statement (.vpopc f) := roundF3 0x20 21 rfl (by decide) (by decide) .vpopc (fun _ => rfl) rfl
theorem RoundTrip.vclz (f : F3) : RoundTrip.Statement (.vclz f) := roundF3 0x20 22 rfl (by decide) (by decide) .vclz (fun _ => rfl) rfl
theorem RoundTrip.vmov (f : F3) : RoundTrip.Statement (.vmov f) := roundF3 0x20 23 rfl (by decide) (by decide) .vmov (fun _ => rfl) rfl
theorem RoundTrip.vsel (f : F3) : RoundTrip.Statement (.vsel f) := roundF3 0x20 24 rfl (by decide) (by decide) .vsel (fun _ => rfl) rfl
theorem RoundTrip.vdot4 (f : F3) : RoundTrip.Statement (.vdot4 f) := roundF3 0x20 25 rfl (by decide) (by decide) .vdot4 (fun _ => rfl) rfl
theorem RoundTrip.vdot4u (f : F3) : RoundTrip.Statement (.vdot4u f) := roundF3 0x20 26 rfl (by decide) (by decide) .vdot4u (fun _ => rfl) rfl
theorem RoundTrip.viota (f : F3) : RoundTrip.Statement (.viota f) := roundF3 0x20 27 rfl (by decide) (by decide) .viota (fun _ => rfl) rfl
theorem RoundTrip.vaddI (f : FI) : RoundTrip.Statement (.vaddI f) := roundFI 0x21 0 rfl (by decide) (by decide) .vaddI (fun _ => rfl) rfl
theorem RoundTrip.vsubI (f : FI) : RoundTrip.Statement (.vsubI f) := roundFI 0x21 1 rfl (by decide) (by decide) .vsubI (fun _ => rfl) rfl
theorem RoundTrip.vmulI (f : FI) : RoundTrip.Statement (.vmulI f) := roundFI 0x21 2 rfl (by decide) (by decide) .vmulI (fun _ => rfl) rfl
theorem RoundTrip.vmulhiI (f : FI) : RoundTrip.Statement (.vmulhiI f) := roundFI 0x21 3 rfl (by decide) (by decide) .vmulhiI (fun _ => rfl) rfl
theorem RoundTrip.vmulhuI (f : FI) : RoundTrip.Statement (.vmulhuI f) := roundFI 0x21 4 rfl (by decide) (by decide) .vmulhuI (fun _ => rfl) rfl
theorem RoundTrip.vandI (f : FI) : RoundTrip.Statement (.vandI f) := roundFI 0x21 5 rfl (by decide) (by decide) .vandI (fun _ => rfl) rfl
theorem RoundTrip.vorI (f : FI) : RoundTrip.Statement (.vorI f) := roundFI 0x21 6 rfl (by decide) (by decide) .vorI (fun _ => rfl) rfl
theorem RoundTrip.vxorI (f : FI) : RoundTrip.Statement (.vxorI f) := roundFI 0x21 7 rfl (by decide) (by decide) .vxorI (fun _ => rfl) rfl
theorem RoundTrip.vshlI (f : FI) : RoundTrip.Statement (.vshlI f) := roundFI 0x21 8 rfl (by decide) (by decide) .vshlI (fun _ => rfl) rfl
theorem RoundTrip.vshrI (f : FI) : RoundTrip.Statement (.vshrI f) := roundFI 0x21 9 rfl (by decide) (by decide) .vshrI (fun _ => rfl) rfl
theorem RoundTrip.vsarI (f : FI) : RoundTrip.Statement (.vsarI f) := roundFI 0x21 10 rfl (by decide) (by decide) .vsarI (fun _ => rfl) rfl
theorem RoundTrip.vminI (f : FI) : RoundTrip.Statement (.vminI f) := roundFI 0x21 11 rfl (by decide) (by decide) .vminI (fun _ => rfl) rfl
theorem RoundTrip.vmaxI (f : FI) : RoundTrip.Statement (.vmaxI f) := roundFI 0x21 12 rfl (by decide) (by decide) .vmaxI (fun _ => rfl) rfl
theorem RoundTrip.vminuI (f : FI) : RoundTrip.Statement (.vminuI f) := roundFI 0x21 13 rfl (by decide) (by decide) .vminuI (fun _ => rfl) rfl
theorem RoundTrip.vmaxuI (f : FI) : RoundTrip.Statement (.vmaxuI f) := roundFI 0x21 14 rfl (by decide) (by decide) .vmaxuI (fun _ => rfl) rfl
theorem RoundTrip.vaddsatI (f : FI) : RoundTrip.Statement (.vaddsatI f) := roundFI 0x21 15 rfl (by decide) (by decide) .vaddsatI (fun _ => rfl) rfl
theorem RoundTrip.vsubsatI (f : FI) : RoundTrip.Statement (.vsubsatI f) := roundFI 0x21 16 rfl (by decide) (by decide) .vsubsatI (fun _ => rfl) rfl
theorem RoundTrip.vabsdiffI (f : FI) : RoundTrip.Statement (.vabsdiffI f) := roundFI 0x21 17 rfl (by decide) (by decide) .vabsdiffI (fun _ => rfl) rfl
theorem RoundTrip.vmadI (f : FI) : RoundTrip.Statement (.vmadI f) := roundFI 0x21 18 rfl (by decide) (by decide) .vmadI (fun _ => rfl) rfl
theorem RoundTrip.vbfeI (f : FI) : RoundTrip.Statement (.vbfeI f) := roundFI 0x21 19 rfl (by decide) (by decide) .vbfeI (fun _ => rfl) rfl
theorem RoundTrip.vbfiI (f : FI) : RoundTrip.Statement (.vbfiI f) := roundFI 0x21 20 rfl (by decide) (by decide) .vbfiI (fun _ => rfl) rfl
theorem RoundTrip.vdot4I (f : FI) : RoundTrip.Statement (.vdot4I f) := roundFI 0x21 25 rfl (by decide) (by decide) .vdot4I (fun _ => rfl) rfl
theorem RoundTrip.vdot4uI (f : FI) : RoundTrip.Statement (.vdot4uI f) := roundFI 0x21 26 rfl (by decide) (by decide) .vdot4uI (fun _ => rfl) rfl
theorem RoundTrip.vcmpeq (f : F3) : RoundTrip.Statement (.vcmpeq f) := roundF3 0x22 0 rfl (by decide) (by decide) .vcmpeq (fun _ => rfl) rfl
theorem RoundTrip.vcmpne (f : F3) : RoundTrip.Statement (.vcmpne f) := roundF3 0x22 1 rfl (by decide) (by decide) .vcmpne (fun _ => rfl) rfl
theorem RoundTrip.vcmplt (f : F3) : RoundTrip.Statement (.vcmplt f) := roundF3 0x22 2 rfl (by decide) (by decide) .vcmplt (fun _ => rfl) rfl
theorem RoundTrip.vcmple (f : F3) : RoundTrip.Statement (.vcmple f) := roundF3 0x22 3 rfl (by decide) (by decide) .vcmple (fun _ => rfl) rfl
theorem RoundTrip.vcmpltu (f : F3) : RoundTrip.Statement (.vcmpltu f) := roundF3 0x22 4 rfl (by decide) (by decide) .vcmpltu (fun _ => rfl) rfl
theorem RoundTrip.vcmpleu (f : F3) : RoundTrip.Statement (.vcmpleu f) := roundF3 0x22 5 rfl (by decide) (by decide) .vcmpleu (fun _ => rfl) rfl
theorem RoundTrip.vcmpgt (f : F3) : RoundTrip.Statement (.vcmpgt f) := roundF3 0x22 6 rfl (by decide) (by decide) .vcmpgt (fun _ => rfl) rfl
theorem RoundTrip.vcmpge (f : F3) : RoundTrip.Statement (.vcmpge f) := roundF3 0x22 7 rfl (by decide) (by decide) .vcmpge (fun _ => rfl) rfl
theorem RoundTrip.vcmpgtu (f : F3) : RoundTrip.Statement (.vcmpgtu f) := roundF3 0x22 8 rfl (by decide) (by decide) .vcmpgtu (fun _ => rfl) rfl
theorem RoundTrip.vcmpgeu (f : F3) : RoundTrip.Statement (.vcmpgeu f) := roundF3 0x22 9 rfl (by decide) (by decide) .vcmpgeu (fun _ => rfl) rfl
theorem RoundTrip.vcmpeqI (f : FI) : RoundTrip.Statement (.vcmpeqI f) := roundFI 0x23 0 rfl (by decide) (by decide) .vcmpeqI (fun _ => rfl) rfl
theorem RoundTrip.vcmpneI (f : FI) : RoundTrip.Statement (.vcmpneI f) := roundFI 0x23 1 rfl (by decide) (by decide) .vcmpneI (fun _ => rfl) rfl
theorem RoundTrip.vcmpltI (f : FI) : RoundTrip.Statement (.vcmpltI f) := roundFI 0x23 2 rfl (by decide) (by decide) .vcmpltI (fun _ => rfl) rfl
theorem RoundTrip.vcmpleI (f : FI) : RoundTrip.Statement (.vcmpleI f) := roundFI 0x23 3 rfl (by decide) (by decide) .vcmpleI (fun _ => rfl) rfl
theorem RoundTrip.vcmpltuI (f : FI) : RoundTrip.Statement (.vcmpltuI f) := roundFI 0x23 4 rfl (by decide) (by decide) .vcmpltuI (fun _ => rfl) rfl
theorem RoundTrip.vcmpleuI (f : FI) : RoundTrip.Statement (.vcmpleuI f) := roundFI 0x23 5 rfl (by decide) (by decide) .vcmpleuI (fun _ => rfl) rfl
theorem RoundTrip.vcmpgtI (f : FI) : RoundTrip.Statement (.vcmpgtI f) := roundFI 0x23 6 rfl (by decide) (by decide) .vcmpgtI (fun _ => rfl) rfl
theorem RoundTrip.vcmpgeI (f : FI) : RoundTrip.Statement (.vcmpgeI f) := roundFI 0x23 7 rfl (by decide) (by decide) .vcmpgeI (fun _ => rfl) rfl
theorem RoundTrip.vcmpgtuI (f : FI) : RoundTrip.Statement (.vcmpgtuI f) := roundFI 0x23 8 rfl (by decide) (by decide) .vcmpgtuI (fun _ => rfl) rfl
theorem RoundTrip.vcmpgeuI (f : FI) : RoundTrip.Statement (.vcmpgeuI f) := roundFI 0x23 9 rfl (by decide) (by decide) .vcmpgeuI (fun _ => rfl) rfl
theorem RoundTrip.vshuf (f : F3) : RoundTrip.Statement (.vshuf f) := roundF3 0x24 0 rfl (by decide) (by decide) .vshuf (fun _ => rfl) rfl
theorem RoundTrip.vrot (f : F3) : RoundTrip.Statement (.vrot f) := roundF3 0x24 1 rfl (by decide) (by decide) .vrot (fun _ => rfl) rfl
theorem RoundTrip.vbcast (f : F3) : RoundTrip.Statement (.vbcast f) := roundF3 0x24 2 rfl (by decide) (by decide) .vbcast (fun _ => rfl) rfl
theorem RoundTrip.vred (f : F3) : RoundTrip.Statement (.vred f) := roundF3 0x24 3 rfl (by decide) (by decide) .vred (fun _ => rfl) rfl
theorem RoundTrip.vscan (f : F3) : RoundTrip.Statement (.vscan f) := roundF3 0x24 4 rfl (by decide) (by decide) .vscan (fun _ => rfl) rfl
theorem RoundTrip.vcompact (f : F3) : RoundTrip.Statement (.vcompact f) := roundF3 0x24 5 rfl (by decide) (by decide) .vcompact (fun _ => rfl) rfl
theorem RoundTrip.vswiz (f : F3) : RoundTrip.Statement (.vswiz f) := roundF3 0x24 6 rfl (by decide) (by decide) .vswiz (fun _ => rfl) rfl
theorem RoundTrip.vfadd (f : F3) : RoundTrip.Statement (.vfadd f) := roundF3 0x30 0 rfl (by decide) (by decide) .vfadd (fun _ => rfl) rfl
theorem RoundTrip.vfsub (f : F3) : RoundTrip.Statement (.vfsub f) := roundF3 0x30 1 rfl (by decide) (by decide) .vfsub (fun _ => rfl) rfl
theorem RoundTrip.vfmul (f : F3) : RoundTrip.Statement (.vfmul f) := roundF3 0x30 2 rfl (by decide) (by decide) .vfmul (fun _ => rfl) rfl
theorem RoundTrip.vfma (f : F3) : RoundTrip.Statement (.vfma f) := roundF3 0x30 3 rfl (by decide) (by decide) .vfma (fun _ => rfl) rfl
theorem RoundTrip.vfmin (f : F3) : RoundTrip.Statement (.vfmin f) := roundF3 0x30 4 rfl (by decide) (by decide) .vfmin (fun _ => rfl) rfl
theorem RoundTrip.vfmax (f : F3) : RoundTrip.Statement (.vfmax f) := roundF3 0x30 5 rfl (by decide) (by decide) .vfmax (fun _ => rfl) rfl
theorem RoundTrip.vfrnd (f : F3) : RoundTrip.Statement (.vfrnd f) := roundF3 0x30 6 rfl (by decide) (by decide) .vfrnd (fun _ => rfl) rfl
theorem RoundTrip.vfract (f : F3) : RoundTrip.Statement (.vfract f) := roundF3 0x30 7 rfl (by decide) (by decide) .vfract (fun _ => rfl) rfl
theorem RoundTrip.vhadd (f : F3) : RoundTrip.Statement (.vhadd f) := roundF3 0x30 8 rfl (by decide) (by decide) .vhadd (fun _ => rfl) rfl
theorem RoundTrip.vhmul (f : F3) : RoundTrip.Statement (.vhmul f) := roundF3 0x30 9 rfl (by decide) (by decide) .vhmul (fun _ => rfl) rfl
theorem RoundTrip.vhfma (f : F3) : RoundTrip.Statement (.vhfma f) := roundF3 0x30 10 rfl (by decide) (by decide) .vhfma (fun _ => rfl) rfl
theorem RoundTrip.vfdot2 (f : F3) : RoundTrip.Statement (.vfdot2 f) := roundF3 0x30 11 rfl (by decide) (by decide) .vfdot2 (fun _ => rfl) rfl
theorem RoundTrip.vfcmpeq (f : F3) : RoundTrip.Statement (.vfcmpeq f) := roundF3 0x31 0 rfl (by decide) (by decide) .vfcmpeq (fun _ => rfl) rfl
theorem RoundTrip.vfcmpne (f : F3) : RoundTrip.Statement (.vfcmpne f) := roundF3 0x31 1 rfl (by decide) (by decide) .vfcmpne (fun _ => rfl) rfl
theorem RoundTrip.vfcmplt (f : F3) : RoundTrip.Statement (.vfcmplt f) := roundF3 0x31 2 rfl (by decide) (by decide) .vfcmplt (fun _ => rfl) rfl
theorem RoundTrip.vfcmple (f : F3) : RoundTrip.Statement (.vfcmple f) := roundF3 0x31 3 rfl (by decide) (by decide) .vfcmple (fun _ => rfl) rfl
theorem RoundTrip.vfcmpgt (f : F3) : RoundTrip.Statement (.vfcmpgt f) := roundF3 0x31 4 rfl (by decide) (by decide) .vfcmpgt (fun _ => rfl) rfl
theorem RoundTrip.vfcmpge (f : F3) : RoundTrip.Statement (.vfcmpge f) := roundF3 0x31 5 rfl (by decide) (by decide) .vfcmpge (fun _ => rfl) rfl
theorem RoundTrip.vfcmpord (f : F3) : RoundTrip.Statement (.vfcmpord f) := roundF3 0x31 6 rfl (by decide) (by decide) .vfcmpord (fun _ => rfl) rfl
theorem RoundTrip.vfcmpunord (f : F3) : RoundTrip.Statement (.vfcmpunord f) := roundF3 0x31 7 rfl (by decide) (by decide) .vfcmpunord (fun _ => rfl) rfl
theorem RoundTrip.vrcp (f : F3) : RoundTrip.Statement (.vrcp f) := roundF3 0x32 0 rfl (by decide) (by decide) .vrcp (fun _ => rfl) rfl
theorem RoundTrip.vrsq (f : F3) : RoundTrip.Statement (.vrsq f) := roundF3 0x32 1 rfl (by decide) (by decide) .vrsq (fun _ => rfl) rfl
theorem RoundTrip.vsqrt (f : F3) : RoundTrip.Statement (.vsqrt f) := roundF3 0x32 2 rfl (by decide) (by decide) .vsqrt (fun _ => rfl) rfl
theorem RoundTrip.vexp2 (f : F3) : RoundTrip.Statement (.vexp2 f) := roundF3 0x32 3 rfl (by decide) (by decide) .vexp2 (fun _ => rfl) rfl
theorem RoundTrip.vlog2 (f : F3) : RoundTrip.Statement (.vlog2 f) := roundF3 0x32 4 rfl (by decide) (by decide) .vlog2 (fun _ => rfl) rfl
theorem RoundTrip.vsin (f : F3) : RoundTrip.Statement (.vsin f) := roundF3 0x32 5 rfl (by decide) (by decide) .vsin (fun _ => rfl) rfl
theorem RoundTrip.vcos (f : F3) : RoundTrip.Statement (.vcos f) := roundF3 0x32 6 rfl (by decide) (by decide) .vcos (fun _ => rfl) rfl
theorem RoundTrip.vtanh (f : F3) : RoundTrip.Statement (.vtanh f) := roundF3 0x32 7 rfl (by decide) (by decide) .vtanh (fun _ => rfl) rfl
theorem RoundTrip.vcvt (f : F3) : RoundTrip.Statement (.vcvt f) := roundF3 0x33 0 rfl (by decide) (by decide) .vcvt (fun _ => rfl) rfl
theorem RoundTrip.vpack (f : F3) : RoundTrip.Statement (.vpack f) := roundF3 0x33 1 rfl (by decide) (by decide) .vpack (fun _ => rfl) rfl
theorem RoundTrip.vunpack (f : F3) : RoundTrip.Statement (.vunpack f) := roundF3 0x33 2 rfl (by decide) (by decide) .vunpack (fun _ => rfl) rfl
theorem RoundTrip.vscale (f : F3) : RoundTrip.Statement (.vscale f) := roundF3 0x33 3 rfl (by decide) (by decide) .vscale (fun _ => rfl) rfl
theorem RoundTrip.pairedWord (h0 h1 : Half) : RoundTrip.Statement (.pairedWord h0 h1) := by
  refine roundWord (w := packPair h0 h1) rfl ?_ fun hwf => ?_
  · intro h
    have := top_packPair h0 h1
    rw [h] at this
    exact absurd this (by decide)
  · have hl := Bool.and_eq_true_iff.mp (Bool.and_eq_true_iff.mp hwf).1
    unfold decodeWord
    rw [top_packPair]
    show decodePair _ = _
    simp only [decodePair, packPair_high, packPair_low, bottom_packPair, packHalf_low, halfOf_packHalf, hl.1, hl.2]
    rfl
theorem RoundTrip.ldg (f : F3) : RoundTrip.Statement (.ldg f) := roundF3 0x40 0 rfl (by decide) (by decide) .ldg (fun _ => rfl) rfl
theorem RoundTrip.stg (f : F3) : RoundTrip.Statement (.stg f) := roundF3 0x40 1 rfl (by decide) (by decide) .stg (fun _ => rfl) rfl
theorem RoundTrip.ldgs (f : F3) : RoundTrip.Statement (.ldgs f) := roundF3 0x40 2 rfl (by decide) (by decide) .ldgs (fun _ => rfl) rfl
theorem RoundTrip.stgs (f : F3) : RoundTrip.Statement (.stgs f) := roundF3 0x40 3 rfl (by decide) (by decide) .stgs (fun _ => rfl) rfl
theorem RoundTrip.pin (f : F3) : RoundTrip.Statement (.pin f) := roundF3 0x40 4 rfl (by decide) (by decide) .pin (fun _ => rfl) rfl
theorem RoundTrip.unpin (f : F3) : RoundTrip.Statement (.unpin f) := roundF3 0x40 5 rfl (by decide) (by decide) .unpin (fun _ => rfl) rfl
theorem RoundTrip.cflush (f : F3) : RoundTrip.Statement (.cflush f) := roundF3 0x40 6 rfl (by decide) (by decide) .cflush (fun _ => rfl) rfl
theorem RoundTrip.ldlod (f : F3) : RoundTrip.Statement (.ldlod f) := roundF3 0x40 7 rfl (by decide) (by decide) .ldlod (fun _ => rfl) rfl
theorem RoundTrip.lodq (f : F3) : RoundTrip.Statement (.lodq f) := roundF3 0x40 8 rfl (by decide) (by decide) .lodq (fun _ => rfl) rfl
theorem RoundTrip.lds (f : F3) : RoundTrip.Statement (.lds f) := roundF3 0x41 0 rfl (by decide) (by decide) .lds (fun _ => rfl) rfl
theorem RoundTrip.sts (f : F3) : RoundTrip.Statement (.sts f) := roundF3 0x41 1 rfl (by decide) (by decide) .sts (fun _ => rfl) rfl
theorem RoundTrip.ldt (f : F3) : RoundTrip.Statement (.ldt f) := roundF3 0x41 2 rfl (by decide) (by decide) .ldt (fun _ => rfl) rfl
theorem RoundTrip.stt (f : F3) : RoundTrip.Statement (.stt f) := roundF3 0x41 3 rfl (by decide) (by decide) .stt (fun _ => rfl) rfl
theorem RoundTrip.ldb (f : F3) : RoundTrip.Statement (.ldb f) := roundF3 0x41 4 rfl (by decide) (by decide) .ldb (fun _ => rfl) rfl
theorem RoundTrip.stb (f : F3) : RoundTrip.Statement (.stb f) := roundF3 0x41 5 rfl (by decide) (by decide) .stb (fun _ => rfl) rfl
theorem RoundTrip.aaddG (f : F3) : RoundTrip.Statement (.aaddG f) := roundF3 0x42 0 rfl (by decide) (by decide) .aaddG (fun _ => rfl) rfl
theorem RoundTrip.aminG (f : F3) : RoundTrip.Statement (.aminG f) := roundF3 0x42 1 rfl (by decide) (by decide) .aminG (fun _ => rfl) rfl
theorem RoundTrip.amaxG (f : F3) : RoundTrip.Statement (.amaxG f) := roundF3 0x42 2 rfl (by decide) (by decide) .amaxG (fun _ => rfl) rfl
theorem RoundTrip.aminuG (f : F3) : RoundTrip.Statement (.aminuG f) := roundF3 0x42 3 rfl (by decide) (by decide) .aminuG (fun _ => rfl) rfl
theorem RoundTrip.amaxuG (f : F3) : RoundTrip.Statement (.amaxuG f) := roundF3 0x42 4 rfl (by decide) (by decide) .amaxuG (fun _ => rfl) rfl
theorem RoundTrip.aandG (f : F3) : RoundTrip.Statement (.aandG f) := roundF3 0x42 5 rfl (by decide) (by decide) .aandG (fun _ => rfl) rfl
theorem RoundTrip.aorG (f : F3) : RoundTrip.Statement (.aorG f) := roundF3 0x42 6 rfl (by decide) (by decide) .aorG (fun _ => rfl) rfl
theorem RoundTrip.axorG (f : F3) : RoundTrip.Statement (.axorG f) := roundF3 0x42 7 rfl (by decide) (by decide) .axorG (fun _ => rfl) rfl
theorem RoundTrip.axchgG (f : F3) : RoundTrip.Statement (.axchgG f) := roundF3 0x42 8 rfl (by decide) (by decide) .axchgG (fun _ => rfl) rfl
theorem RoundTrip.acasG (f : F3) : RoundTrip.Statement (.acasG f) := roundF3 0x42 9 rfl (by decide) (by decide) .acasG (fun _ => rfl) rfl
theorem RoundTrip.afaddG (f : F3) : RoundTrip.Statement (.afaddG f) := roundF3 0x42 10 rfl (by decide) (by decide) .afaddG (fun _ => rfl) rfl
theorem RoundTrip.afminG (f : F3) : RoundTrip.Statement (.afminG f) := roundF3 0x42 11 rfl (by decide) (by decide) .afminG (fun _ => rfl) rfl
theorem RoundTrip.afmaxG (f : F3) : RoundTrip.Statement (.afmaxG f) := roundF3 0x42 12 rfl (by decide) (by decide) .afmaxG (fun _ => rfl) rfl
theorem RoundTrip.aaddS (f : F3) : RoundTrip.Statement (.aaddS f) := roundF3 0x43 0 rfl (by decide) (by decide) .aaddS (fun _ => rfl) rfl
theorem RoundTrip.aminS (f : F3) : RoundTrip.Statement (.aminS f) := roundF3 0x43 1 rfl (by decide) (by decide) .aminS (fun _ => rfl) rfl
theorem RoundTrip.amaxS (f : F3) : RoundTrip.Statement (.amaxS f) := roundF3 0x43 2 rfl (by decide) (by decide) .amaxS (fun _ => rfl) rfl
theorem RoundTrip.aminuS (f : F3) : RoundTrip.Statement (.aminuS f) := roundF3 0x43 3 rfl (by decide) (by decide) .aminuS (fun _ => rfl) rfl
theorem RoundTrip.amaxuS (f : F3) : RoundTrip.Statement (.amaxuS f) := roundF3 0x43 4 rfl (by decide) (by decide) .amaxuS (fun _ => rfl) rfl
theorem RoundTrip.aandS (f : F3) : RoundTrip.Statement (.aandS f) := roundF3 0x43 5 rfl (by decide) (by decide) .aandS (fun _ => rfl) rfl
theorem RoundTrip.aorS (f : F3) : RoundTrip.Statement (.aorS f) := roundF3 0x43 6 rfl (by decide) (by decide) .aorS (fun _ => rfl) rfl
theorem RoundTrip.axorS (f : F3) : RoundTrip.Statement (.axorS f) := roundF3 0x43 7 rfl (by decide) (by decide) .axorS (fun _ => rfl) rfl
theorem RoundTrip.axchgS (f : F3) : RoundTrip.Statement (.axchgS f) := roundF3 0x43 8 rfl (by decide) (by decide) .axchgS (fun _ => rfl) rfl
theorem RoundTrip.acasS (f : F3) : RoundTrip.Statement (.acasS f) := roundF3 0x43 9 rfl (by decide) (by decide) .acasS (fun _ => rfl) rfl
theorem RoundTrip.afaddS (f : F3) : RoundTrip.Statement (.afaddS f) := roundF3 0x43 10 rfl (by decide) (by decide) .afaddS (fun _ => rfl) rfl
theorem RoundTrip.afminS (f : F3) : RoundTrip.Statement (.afminS f) := roundF3 0x43 11 rfl (by decide) (by decide) .afminS (fun _ => rfl) rfl
theorem RoundTrip.afmaxS (f : F3) : RoundTrip.Statement (.afmaxS f) := roundF3 0x43 12 rfl (by decide) (by decide) .afmaxS (fun _ => rfl) rfl
theorem RoundTrip.fence (f : F3) : RoundTrip.Statement (.fence f) := roundF3 0x44 0 rfl (by decide) (by decide) .fence (fun _ => rfl) rfl
theorem RoundTrip.afence (f : F3) : RoundTrip.Statement (.afence f) := roundF3 0x44 1 rfl (by decide) (by decide) .afence (fun _ => rfl) rfl
theorem RoundTrip.amsg (f : F3) : RoundTrip.Statement (.amsg f) := roundF3 0x45 0 rfl (by decide) (by decide) .amsg (fun _ => rfl) rfl
theorem RoundTrip.amsgw (f : F3) : RoundTrip.Statement (.amsgw f) := roundF3 0x45 1 rfl (by decide) (by decide) .amsgw (fun _ => rfl) rfl
theorem RoundTrip.laymake (f : F3) : RoundTrip.Statement (.laymake f) := roundF3 0x50 0 rfl (by decide) (by decide) .laymake (fun _ => rfl) rfl
theorem RoundTrip.laychk (f : F3) : RoundTrip.Statement (.laychk f) := roundF3 0x50 1 rfl (by decide) (by decide) .laychk (fun _ => rfl) rfl
theorem RoundTrip.cpyin (f : F3) : RoundTrip.Statement (.cpyin f) := roundF3 0x51 0 rfl (by decide) (by decide) .cpyin (fun _ => rfl) rfl
theorem RoundTrip.cpyout (f : F3) : RoundTrip.Statement (.cpyout f) := roundF3 0x51 1 rfl (by decide) (by decide) .cpyout (fun _ => rfl) rfl
theorem RoundTrip.cpymc (f : F3) : RoundTrip.Statement (.cpymc f) := roundF3 0x51 2 rfl (by decide) (by decide) .cpymc (fun _ => rfl) rfl
theorem RoundTrip.cpycb (f : F3) : RoundTrip.Statement (.cpycb f) := roundF3 0x51 3 rfl (by decide) (by decide) .cpycb (fun _ => rfl) rfl
theorem RoundTrip.cbload (f : F3) : RoundTrip.Statement (.cbload f) := roundF3 0x51 4 rfl (by decide) (by decide) .cbload (fun _ => rfl) rfl
theorem RoundTrip.tcfg (f : F3) : RoundTrip.Statement (.tcfg f) := roundF3 0x58 0 rfl (by decide) (by decide) .tcfg (fun _ => rfl) rfl
theorem RoundTrip.mma (f : F3) : RoundTrip.Statement (.mma f) := roundF3 0x58 1 rfl (by decide) (by decide) .mma (fun _ => rfl) rfl
theorem RoundTrip.mmaz (f : F3) : RoundTrip.Statement (.mmaz f) := roundF3 0x58 2 rfl (by decide) (by decide) .mmaz (fun _ => rfl) rfl
theorem RoundTrip.mclr (f : F3) : RoundTrip.Statement (.mclr f) := roundF3 0x58 3 rfl (by decide) (by decide) .mclr (fun _ => rfl) rfl
theorem RoundTrip.mld (f : F3) : RoundTrip.Statement (.mld f) := roundF3 0x58 4 rfl (by decide) (by decide) .mld (fun _ => rfl) rfl
theorem RoundTrip.mst (f : F3) : RoundTrip.Statement (.mst f) := roundF3 0x58 5 rfl (by decide) (by decide) .mst (fun _ => rfl) rfl
theorem RoundTrip.mstv (f : F3) : RoundTrip.Statement (.mstv f) := roundF3 0x58 6 rfl (by decide) (by decide) .mstv (fun _ => rfl) rfl
theorem RoundTrip.mfence (f : F3) : RoundTrip.Statement (.mfence f) := roundF3 0x58 7 rfl (by decide) (by decide) .mfence (fun _ => rfl) rfl
theorem RoundTrip.mbatch (f : F3) : RoundTrip.Statement (.mbatch f) := roundF3 0x58 8 rfl (by decide) (by decide) .mbatch (fun _ => rfl) rfl
theorem RoundTrip.mwait (f : F3) : RoundTrip.Statement (.mwait f) := roundF3 0x58 9 rfl (by decide) (by decide) .mwait (fun _ => rfl) rfl
theorem RoundTrip.sample (f : F3) : RoundTrip.Statement (.sample f) := roundF3 0x60 0 rfl (by decide) (by decide) .sample (fun _ => rfl) rfl
theorem RoundTrip.samplel (f : F3) : RoundTrip.Statement (.samplel f) := roundF3 0x60 1 rfl (by decide) (by decide) .samplel (fun _ => rfl) rfl
theorem RoundTrip.sampleg (f : F3) : RoundTrip.Statement (.sampleg f) := roundF3 0x60 2 rfl (by decide) (by decide) .sampleg (fun _ => rfl) rfl
theorem RoundTrip.tfetch (f : F3) : RoundTrip.Statement (.tfetch f) := roundF3 0x60 3 rfl (by decide) (by decide) .tfetch (fun _ => rfl) rfl
theorem RoundTrip.gather4 (f : F3) : RoundTrip.Statement (.gather4 f) := roundF3 0x60 4 rfl (by decide) (by decide) .gather4 (fun _ => rfl) rfl
theorem RoundTrip.imgld (f : F3) : RoundTrip.Statement (.imgld f) := roundF3 0x60 5 rfl (by decide) (by decide) .imgld (fun _ => rfl) rfl
theorem RoundTrip.imgst (f : F3) : RoundTrip.Statement (.imgst f) := roundF3 0x60 6 rfl (by decide) (by decide) .imgst (fun _ => rfl) rfl
theorem RoundTrip.qlod (f : F3) : RoundTrip.Statement (.qlod f) := roundF3 0x60 7 rfl (by decide) (by decide) .qlod (fun _ => rfl) rfl
theorem RoundTrip.pixout (f : F3) : RoundTrip.Statement (.pixout f) := roundF3 0x61 0 rfl (by decide) (by decide) .pixout (fun _ => rfl) rfl
theorem RoundTrip.zout (f : F3) : RoundTrip.Statement (.zout f) := roundF3 0x61 1 rfl (by decide) (by decide) .zout (fun _ => rfl) rfl
theorem RoundTrip.discard (f : F3) : RoundTrip.Statement (.discard f) := roundF3 0x61 2 rfl (by decide) (by decide) .discard (fun _ => rfl) rfl
theorem RoundTrip.pixld (f : F3) : RoundTrip.Statement (.pixld f) := roundF3 0x61 3 rfl (by decide) (by decide) .pixld (fun _ => rfl) rfl
theorem RoundTrip.vtxout (f : F3) : RoundTrip.Statement (.vtxout f) := roundF3 0x62 0 rfl (by decide) (by decide) .vtxout (fun _ => rfl) rfl
theorem RoundTrip.primout (f : F3) : RoundTrip.Statement (.primout f) := roundF3 0x62 1 rfl (by decide) (by decide) .primout (fun _ => rfl) rfl
theorem RoundTrip.meshend (f : F3) : RoundTrip.Statement (.meshend f) := roundF3 0x62 2 rfl (by decide) (by decide) .meshend (fun _ => rfl) rfl
theorem RoundTrip.taskout (f : F3) : RoundTrip.Statement (.taskout f) := roundF3 0x62 3 rfl (by decide) (by decide) .taskout (fun _ => rfl) rfl
theorem RoundTrip.posout (f : F3) : RoundTrip.Statement (.posout f) := roundF3 0x62 4 rfl (by decide) (by decide) .posout (fun _ => rfl) rfl
theorem RoundTrip.rqinit (f : F3) : RoundTrip.Statement (.rqinit f) := roundF3 0x68 0 rfl (by decide) (by decide) .rqinit (fun _ => rfl) rfl
theorem RoundTrip.rqstep (f : F3) : RoundTrip.Statement (.rqstep f) := roundF3 0x68 1 rfl (by decide) (by decide) .rqstep (fun _ => rfl) rfl
theorem RoundTrip.rqcommit (f : F3) : RoundTrip.Statement (.rqcommit f) := roundF3 0x68 2 rfl (by decide) (by decide) .rqcommit (fun _ => rfl) rfl
theorem RoundTrip.rqget (f : F3) : RoundTrip.Statement (.rqget f) := roundF3 0x68 3 rfl (by decide) (by decide) .rqget (fun _ => rfl) rfl
theorem RoundTrip.rqtrail (f : F3) : RoundTrip.Statement (.rqtrail f) := roundF3 0x68 4 rfl (by decide) (by decide) .rqtrail (fun _ => rfl) rfl
theorem RoundTrip.boxtest (f : F3) : RoundTrip.Statement (.boxtest f) := roundF3 0x68 5 rfl (by decide) (by decide) .boxtest (fun _ => rfl) rfl
theorem RoundTrip.tritest (f : F3) : RoundTrip.Statement (.tritest f) := roundF3 0x68 6 rfl (by decide) (by decide) .tritest (fun _ => rfl) rfl
theorem RoundTrip.hop (f : FI) : RoundTrip.Statement (.hop f) := roundFI 0x69 0 rfl (by decide) (by decide) .hop (fun _ => rfl) rfl
theorem RoundTrip.hopl (f : F3) : RoundTrip.Statement (.hopl f) := roundF3 0x69 1 rfl (by decide) (by decide) .hopl (fun _ => rfl) rfl
theorem RoundTrip.segid (f : F3) : RoundTrip.Statement (.segid f) := roundF3 0x69 2 rfl (by decide) (by decide) .segid (fun _ => rfl) rfl
theorem RoundTrip.launch (f : F3) : RoundTrip.Statement (.launch f) := roundF3 0x6A 0 rfl (by decide) (by decide) .launch (fun _ => rfl) rfl
theorem RoundTrip.emit (f : F3) : RoundTrip.Statement (.emit f) := roundF3 0x6A 1 rfl (by decide) (by decide) .emit (fun _ => rfl) rfl
theorem RoundTrip.emitc (f : F3) : RoundTrip.Statement (.emitc f) := roundF3 0x6A 2 rfl (by decide) (by decide) .emitc (fun _ => rfl) rfl
theorem RoundTrip.recget (f : F3) : RoundTrip.Statement (.recget f) := roundF3 0x6A 3 rfl (by decide) (by decide) .recget (fun _ => rfl) rfl
theorem RoundTrip.recdone (f : F3) : RoundTrip.Statement (.recdone f) := roundF3 0x6A 4 rfl (by decide) (by decide) .recdone (fun _ => rfl) rfl
theorem RoundTrip.trap (f : FI) : RoundTrip.Statement (.trap f) := roundFI 0x70 0 rfl (by decide) (by decide) .trap (fun _ => rfl) rfl
theorem RoundTrip.tret (f : F3) : RoundTrip.Statement (.tret f) := roundF3 0x70 1 rfl (by decide) (by decide) .tret (fun _ => rfl) rfl
theorem RoundTrip.srd (f : F3) : RoundTrip.Statement (.srd f) := roundF3 0x70 2 rfl (by decide) (by decide) .srd (fun _ => rfl) rfl
theorem RoundTrip.swr (f : F3) : RoundTrip.Statement (.swr f) := roundF3 0x70 3 rfl (by decide) (by decide) .swr (fun _ => rfl) rfl
theorem RoundTrip.pctr (f : F3) : RoundTrip.Statement (.pctr f) := roundF3 0x70 4 rfl (by decide) (by decide) .pctr (fun _ => rfl) rfl
theorem RoundTrip.pcfg (f : F3) : RoundTrip.Statement (.pcfg f) := roundF3 0x70 5 rfl (by decide) (by decide) .pcfg (fun _ => rfl) rfl
theorem RoundTrip.iflush (f : F3) : RoundTrip.Statement (.iflush f) := roundF3 0x70 6 rfl (by decide) (by decide) .iflush (fun _ => rfl) rfl
theorem RoundTrip.brk (f : F3) : RoundTrip.Statement (.brk f) := roundF3 0x70 7 rfl (by decide) (by decide) .brk (fun _ => rfl) rfl
theorem RoundTrip.writeAcknowledgement (idx : Nat) : RoundTrip.Statement (.writeAcknowledgement idx) := roundNone rfl rfl
theorem RoundTrip.perfCounterWrap (gid n : Nat) : RoundTrip.Statement (.perfCounterWrap gid n) := roundNone rfl rfl
theorem RoundTrip.powerRemoval : RoundTrip.Statement .powerRemoval := roundNone rfl rfl
theorem RoundTrip.alrd (r : AwlR) : RoundTrip.Statement (.alrd r) := by
  intro hwf
  have hl := (Bool.and_eq_true_iff.mp hwf).1
  refine roundAwl 0 0 0x0B rfl rfl (by decide) (by intro j h; cases h) ?_ hwf
  obtain ⟨e1, e2, e3, e4, e5, e6⟩ := packAwl_fields 0 0 0x0B r
  simp only [decodeCacheSide, e1, e2, e3, e4, e5, e6, BitVec.toNat_ofNat]
  simp [hl]
theorem RoundTrip.alwr (r : AwlR) : RoundTrip.Statement (.alwr r) := by
  intro hwf
  have hl := (Bool.and_eq_true_iff.mp hwf).1
  refine roundAwl 0 1 0x0B rfl rfl (by decide) (by intro j h; cases h) ?_ hwf
  obtain ⟨e1, e2, e3, e4, e5, e6⟩ := packAwl_fields 0 1 0x0B r
  simp only [decodeCacheSide, e1, e2, e3, e4, e5, e6, BitVec.toNat_ofNat]
  simp [hl]
theorem RoundTrip.alock (r : AwlR) : RoundTrip.Statement (.alock r) := by
  intro hwf
  have hl := (Bool.and_eq_true_iff.mp hwf).1
  refine roundAwl 0 2 0x0B rfl rfl (by decide) (by intro j h; cases h) ?_ hwf
  obtain ⟨e1, e2, e3, e4, e5, e6⟩ := packAwl_fields 0 2 0x0B r
  simp only [decodeCacheSide, e1, e2, e3, e4, e5, e6, BitVec.toNat_ofNat]
  simp [hl]
theorem RoundTrip.apin (r : AwlR) : RoundTrip.Statement (.apin r) := by
  intro hwf
  have hl := (Bool.and_eq_true_iff.mp hwf).1
  refine roundAwl 1 2 0x0B rfl rfl (by decide) (by intro j h; cases h) ?_ hwf
  obtain ⟨e1, e2, e3, e4, e5, e6⟩ := packAwl_fields 1 2 0x0B r
  simp only [decodeCacheSide, e1, e2, e3, e4, e5, e6, BitVec.toNat_ofNat]
  simp [hl]
theorem RoundTrip.aunpin (r : AwlR) : RoundTrip.Statement (.aunpin r) := by
  intro hwf
  have hl := (Bool.and_eq_true_iff.mp hwf).1
  refine roundAwl 2 2 0x0B rfl rfl (by decide) (by intro j h; cases h) ?_ hwf
  obtain ⟨e1, e2, e3, e4, e5, e6⟩ := packAwl_fields 2 2 0x0B r
  simp only [decodeCacheSide, e1, e2, e3, e4, e5, e6, BitVec.toNat_ofNat]
  simp [hl]
theorem RoundTrip.afill (r : AwlR) : RoundTrip.Statement (.afill r) := by
  intro hwf
  have hl := (Bool.and_eq_true_iff.mp hwf).1
  refine roundAwl 0 3 0x0B rfl rfl (by decide) (by intro j h; cases h) ?_ hwf
  obtain ⟨e1, e2, e3, e4, e5, e6⟩ := packAwl_fields 0 3 0x0B r
  simp only [decodeCacheSide, e1, e2, e3, e4, e5, e6, BitVec.toNat_ofNat]
  simp [hl]
theorem RoundTrip.afwd (r : AwlR) : RoundTrip.Statement (.afwd r) := by
  intro hwf
  have hl := (Bool.and_eq_true_iff.mp hwf).1
  refine roundAwl 0 0 0x2B rfl rfl (by decide) (by intro j h; cases h) ?_ hwf
  obtain ⟨e1, e2, e3, e4, e5, e6⟩ := packAwl_fields 0 0 0x2B r
  simp only [decodeCacheSide, e1, e2, e3, e4, e5, e6, BitVec.toNat_ofNat]
  simp [hl]
theorem RoundTrip.areply (r : AwlR) : RoundTrip.Statement (.areply r) := by
  intro hwf
  have hl := (Bool.and_eq_true_iff.mp hwf).1
  refine roundAwl 0 1 0x2B rfl rfl (by decide) (by intro j h; cases h) ?_ hwf
  obtain ⟨e1, e2, e3, e4, e5, e6⟩ := packAwl_fields 0 1 0x2B r
  simp only [decodeCacheSide, e1, e2, e3, e4, e5, e6, BitVec.toNat_ofNat]
  simp [hl]
theorem RoundTrip.aend (r : AwlR) : RoundTrip.Statement (.aend r) := by
  intro hwf
  have hl := (Bool.and_eq_true_iff.mp hwf).1
  refine roundAwl 0 2 0x2B rfl rfl (by decide) (by intro j h; cases h) ?_ hwf
  obtain ⟨e1, e2, e3, e4, e5, e6⟩ := packAwl_fields 0 2 0x2B r
  simp only [decodeCacheSide, e1, e2, e3, e4, e5, e6, BitVec.toNat_ofNat]
  simp [hl]

end Sys2Proof.Laws
end

