-- ==== Sys2Proof/Laws/Writes.lean ====
section
/-! SUPPORT. What a write to device memory leaves: the bytes, and the old values that others may still read. -/
namespace Sys2Proof.Machine

/-! ### Old values -/

@[simp] theorem State.noteOld_mem (s : State) (p : Group → Bool) (q : Nat → Bool) (k : Nat) (v : BitVec 256) : (s.noteOld p q k v).mem = s.mem := rfl
@[simp] theorem State.noteOld_blocks (s : State) (p : Group → Bool) (q : Nat → Bool) (k : Nat) (v : BitVec 256) : (s.noteOld p q k v).blocks = s.blocks := rfl
@[simp] theorem State.noteOld_launches (s : State) (p : Group → Bool) (q : Nat → Bool) (k : Nat) (v : BitVec 256) : (s.noteOld p q k v).launches = s.launches := rfl
@[simp] theorem State.noteOld_lines (s : State) (p : Group → Bool) (q : Nat → Bool) (k : Nat) (v : BitVec 256) : (s.noteOld p q k v).lines = s.lines := rfl
@[simp] theorem State.noteOld_pendingWrites (s : State) (p : Group → Bool) (q : Nat → Bool) (k : Nat) (v : BitVec 256) :
    (s.noteOld p q k v).pendingWrites = s.pendingWrites := rfl
@[simp] theorem State.noteOld_awls (s : State) (p : Group → Bool) (q : Nat → Bool) (k : Nat) (v : BitVec 256) : (s.noteOld p q k v).awls = s.awls := rfl

/-- What a group keeps of another's write. -/
theorem Group.note_frame (p : Group → Bool) (k : Nat) (v : BitVec 256) (g : Group) : ∃ u w, g.note p k v = { g with unfenced := u, uncode := w } := by
  unfold Group.note
  split
  · exact ⟨_, _, rfl⟩
  · exact ⟨_, _, rfl⟩

theorem Out.note_frame (k : Nat) (v : BitVec 256) (o : Out) : ∃ l, o.note k v = { o with old := l } := by
  unfold Out.note
  split
  · exact ⟨_, rfl⟩
  · exact ⟨_, rfl⟩

theorem Noted.refl (s : State) : Noted s s :=
  ⟨fun _ g h => ⟨g.unfenced, g.uncode, h⟩, fun _ c h => ⟨c.copyq, c.pipe, c.l1, h⟩, fun _ x h => ⟨x.saved, h⟩, fun _ o h => ⟨o.old, h⟩⟩

theorem Noted.trans {s t u : State} (h : Noted s t) (k : Noted t u) : Noted s u := by
  refine ⟨fun j g hg => ?_, fun j c hc => ?_, fun j x hx => ?_, fun j o ho => ?_⟩
  · obtain ⟨_, _, h1⟩ := h.1 j g hg
    obtain ⟨_, _, h2⟩ := k.1 j _ h1
    exact ⟨_, _, h2⟩
  · obtain ⟨_, _, _, h1⟩ := h.2.1 j c hc
    obtain ⟨_, _, _, h2⟩ := k.2.1 j _ h1
    exact ⟨_, _, _, h2⟩
  · obtain ⟨_, h1⟩ := h.2.2.1 j x hx
    obtain ⟨_, h2⟩ := k.2.2.1 j _ h1
    exact ⟨_, h2⟩
  · obtain ⟨_, h1⟩ := h.2.2.2 j o ho
    obtain ⟨_, h2⟩ := k.2.2.2 j _ h1
    exact ⟨_, h2⟩

theorem State.noteOld_noted (s : State) (p : Group → Bool) (q : Nat → Bool) (k : Nat) (v : BitVec 256) : Noted s (s.noteOld p q k v) := by
  refine ⟨fun j g hg => ?_, fun j c hc => ?_, fun j x hx => ?_, fun j o ho => ?_⟩ <;> simp only [State.noteOld, kget_kmapAll, *, Option.map_some, Option.some.injEq]
  · exact Group.note_frame p k v g
  · exact ⟨_, _, _, rfl⟩
  · exact ⟨_, rfl⟩
  · exact Out.note_frame k v o

theorem State.modCore_noted (s : State) (n key : Nat) : Noted s (s.modCore n fun c => dropL1 c key) := by
  refine ⟨fun _ g h => ⟨g.unfenced, g.uncode, h⟩, fun j c hc => ?_, fun _ x h => ⟨x.saved, h⟩, fun _ o h => ⟨o.old, h⟩⟩
  simp only [State.modCore]
  rw [kget_kmod]
  split
  · rw [hc]; exact ⟨_, _, _, rfl⟩
  · exact ⟨_, _, _, hc⟩

/-! ### Writes that land and writes that wait (R218) -/

/-- R218, R263: a write that lands puts its bytes in memory. -/
@[simp] theorem State.land_mem (s : State) (w : PendingWrite) : (s.land w).mem = setBytes s.mem w.pa w.data := by
  simp only [State.land]
  split
  · next h => rw [h]; rfl
  · cases w.core <;> rfl

theorem State.land_noted (s : State) (w : PendingWrite) : Noted s (s.land w) := by
  have h : ∀ (u : State) a l, Noted u (u.writeMem a l) := fun u _ _ => Noted.refl u
  simp only [State.land]
  split
  · exact Noted.refl s
  · cases w.core with
    | none => exact (State.noteOld_noted ..).trans (h ..)
    | some c => exact ((State.noteOld_noted ..).trans (h ..)).trans (State.modCore_noted ..)

theorem State.settleLine_noted (s : State) (line : Nat) : Noted s (s.settleLine line) := by
  have go : ∀ (l : List PendingWrite) (u : State), Noted s u → Noted s (l.foldl State.land u) := by
    intro l
    induction l with
    | nil => exact fun _ h => h
    | cons w r ih => exact fun u h => ih _ (h.trans (u.land_noted w))
  exact go _ _ (Noted.refl s)

/-- R218: a store to a line without copies and without a write before it lands at once. -/
theorem State.storeDev_lands {s : State} {pa : Nat} (h : s.mustWait pa = false) (w : Writer) (data : List Byte) :
    s.storeDev w pa data = s.land { uid := w.uid, core := w.core, own := false, lid := w.lid, ck := w.ck, line := lineOf pa
                                    sharers := ((s.line? pa).map (·.sharers)).getD [], pa := pa, data := data } := by
  simp only [State.storeDev, h, Bool.not_false, if_true]

/-- R218, R263: one that waits leaves memory as it was. -/
theorem State.storeDev_waits {s : State} {pa : Nat} (h : s.mustWait pa = true) (w : Writer) (data : List Byte) :
    (s.storeDev w pa data).mem = s.mem ∧ (s.storeDev w pa data).pendingWrites.length = s.pendingWrites.length + 1 := by
  simp only [State.storeDev, h, Bool.not_true, Bool.false_eq_true, if_false]
  split <;> exact ⟨rfl, by simp [State.modLine, State.modCore]⟩

/-! ### A queue's visit (R48, R46) -/

/-- The Bridle's visit of a queue changes its partition's record of it. -/
theorem State.visit_frame (s : State) (fn num : Nat) : s.visit fn num = { s with parts := (s.visit fn num).parts } := rfl

/-- A queue that waits for a page changes in that alone. -/
theorem State.parkQueue_frame (s : State) (ck : Nat) (va : DWord) (ipa : Option Nat) :
    s.parkQueue ck va ipa = { s with ctxs := kmod s.ctxs ck fun x => { x with queue := { x.queue with parked := if ipa.isNone then some va else none } } } := rfl

/-! ### What waits for the link, for a held line, or for a write (R29, R246, R257) -/

/-- R29: crossing the link changes nothing but whether the step stalls. -/
theorem State.cross_frame (s : State) (die pa : Nat) : s.cross die pa = { s with stalled := s.stalled || s.far die pa } := by
  unfold State.cross
  cases h : s.far die pa <;> simp

/-- R246, R29: so does meeting a range that must wait. -/
theorem State.meet_frame (s : State) (pa n : Nat) : ∃ b, s.meet pa n = { s with stalled := b } := by
  unfold State.meet
  split
  · exact ⟨s.stalled, rfl⟩
  · split
    · exact ⟨true, rfl⟩
    · exact ⟨s.stalled, rfl⟩

/-- An awl's own access meets no range. -/
theorem State.meet_awl {s : State} {slice : Nat} (h : s.cur = .awl slice) (pa n : Nat) : s.meet pa n = s := by
  simp only [State.meet, h]

/-- A range without a held line, on the agent's die, makes nothing wait. -/
theorem State.meet_free {s : State} {pa n : Nat} (h : s.cut pa n = false) : s.meet pa n = s := by
  unfold State.meet
  split
  · rfl
  · simp [h]

/-- R397: observing a counter changes groups alone. -/
theorem State.observe_frame (s : State) (gid bid k : Nat) : s.observe gid bid k = { s with groups := (s.observe gid bid k).groups } := rfl

end Sys2Proof.Machine
end

