-- ==== Sys2Proof/Tests/Slice0.lean ====
section
/-! SUPPORT. The model's own tests: words written out from the manual's encodings, forms that are refused, one step of instructions on small states,
and for each statement a state and operands that meet its hypotheses. -/
namespace Sys2Proof.Tests
open Sys2Proof Sys2Proof.Machine

/-! ### Small states -/

/-- A group of three threads with some registers set. -/
def g0 : Group :=
  { placedGroup with regs := { v := [(512, 8), (513, 24), (514, 16), (640, 3), (641, 2)], m := [(0, 7), (1, 2)], s := [(2, 5), (3, 7), (6, 65535), (7, 65536)] }
                     trap := { base := 0x40 } }

/-- The state after reset, of which the parts of PF0 and of cores 0 and 1 are listed. -/
def tiny : State :=
  { State.reset with funcs := [(0, {})], parts := [(31, { en := true, coreset := 3 })], ctxs := [(ctxKey 31 0, { allow := 0xFFFF })], cores := [(0, {}), (1, {})], awls := [(0, {})] }

/-- The state in which a group of a block of a launch issues. -/
def stOf (g : Group) (b : Block := placedBlock) (l : Launch := placedLaunch) : State :=
  { tiny with cur := .group 0 0, groups := [(0, g)], blocks := [(2, b)], launches := [(1, l)], nextId := 4 }

/-- That group with what it belongs to. -/
def enOf (g : Group) (b : Block := placedBlock) (l : Launch := placedLaunch) : Env :=
  { gid := 0, word := 0, g := g, b := b, l := l, ck := l.ctx, ctx := tiny.ctx l.ctx }

theorem env_stOf (g : Group) (b : Block) (l : Launch) (hg : g.block = 2) (hb : b.launch = 1) : (stOf g b l).env = some (enOf g b l) := by
  simp [stOf, enOf, State.env, State.envOf, kget, hg, hb, State.ctx]

/-- Whether a group's operands fit every instruction of a list. -/
def fit (g : Group) (l : List Instr) : Bool := l.all fun i => decodeCause i g = none

def sOp : F3 := { d := 0x402, a := 0x402, b := 0x404 }
def sWide : F3 := { ty := 14, d := 0x402, a := 0x402, b := 0x24F }
def sImm : FI := { d := 0x402, a := 0x403, imm := 5 }
def sImmW : FI := { ty := 14, d := 0x402, a := 0x24F, imm := 5 }
def vOp : F3 := { d := 3, a := 4, b := 5 }
def vImm : FI := { d := 3, a := 4, imm := 0x1FFFFF }

theorem witness_scalarIntegerResults : (stOf g0).env = some (enOf g0) ∧ sOp.ty = 0 ∧ sImm.ty = 0 ∧ fit g0 ([Instr.sadd, Instr.ssub, Instr.smul, Instr.smulhi,
    Instr.smulhu, Instr.sdiv, Instr.sdivu, Instr.srem, Instr.sremu, Instr.sand, Instr.sor, Instr.sxor, Instr.sshl, Instr.sshr, Instr.ssar, Instr.smin,
    Instr.smax, Instr.sminu, Instr.smaxu, Instr.ssel].map (· sOp)) = true
  ∧ fit g0 ([Instr.saddI, Instr.ssubI, Instr.smulI, Instr.smulhiI, Instr.smulhuI, Instr.sdivI, Instr.sdivuI, Instr.sremI, Instr.sremuI, Instr.sandI,
    Instr.sorI, Instr.sxorI, Instr.sshlI, Instr.sshrI, Instr.ssarI, Instr.sminI, Instr.smaxI, Instr.sminuI, Instr.smaxuI].map (· sImm)) = true :=
  ⟨rfl, rfl, rfl, by decide, by decide⟩

theorem witness_scalarWideResults : (stOf g0).env = some (enOf g0)
  ∧ fit g0 ([Instr.sadd, Instr.ssub, Instr.sand, Instr.sor, Instr.sxor, Instr.sshl, Instr.sshr, Instr.ssar].flatMap fun c => [c sWide, c { sWide with b := 0x250 }]) = true
  ∧ fit g0 ([Instr.saddI, Instr.ssubI, Instr.sandI, Instr.sorI, Instr.sxorI, Instr.sshlI, Instr.sshrI, Instr.ssarI].flatMap fun c =>
    [c sImmW, c { sImmW with a := 0x250 }]) = true ∧ (opKind 0x250 = .const ∧ 80 ≤ regOf 0x250) ∧ ¬80 ≤ regOf 0x24F := ⟨rfl, by decide, by decide, by decide, by decide⟩

theorem witness_scalarMoveAndFieldResults : (stOf g0).env = some (enOf g0)
  ∧ fit g0 [.smov { d := 0x402, a := 0x403 }, .smov { ty := 14, d := 0x402, a := 0x24F }, .smov { ty := 14, d := 0x402, a := 0x250 }, .spopc { d := 0x402, a := 0x403 },
    .sclz { d := 0x402, a := 0x403 }, .sbfe { sOp with x := 1 }, .sbfeI sImm, .sbfi sOp, .sbfiI sImm] = true
  ∧ flCause 1 { d := 0x407, imm := 5 } g0 = none ∧ flCause 2 { d := 0x406, imm := 5 } g0 = none := ⟨rfl, by decide, by decide, by decide⟩

theorem witness_scalarCompareResults : (stOf g0).env = some (enOf g0)
  ∧ fit g0 ([Instr.scmpeq, Instr.scmpne, Instr.scmplt, Instr.scmple, Instr.scmpltu, Instr.scmpleu, Instr.scmpgt, Instr.scmpge, Instr.scmpgtu, Instr.scmpgeu].flatMap
    fun c => [c { sOp with d := 7 }, c { sWide with d := 7 }, c { sWide with d := 7, b := 0x250 }]) = true
  ∧ fit g0 ([Instr.scmpeqI, Instr.scmpneI, Instr.scmpltI, Instr.scmpleI, Instr.scmpltuI, Instr.scmpleuI, Instr.scmpgtI, Instr.scmpgeI, Instr.scmpgtuI,
    Instr.scmpgeuI].flatMap fun c => [c { sImm with d := 7 }, c { sImmW with d := 7 }, c { sImmW with d := 7, a := 0x250 }]) = true
  ∧ badI64 0x24F = false ∧ badI64 0x250 = true ∧ fit g0 ((List.range 8).map fun x => .sfcmp { ty := 8, x := BitVec.ofNat 7 x, d := 7, a := 0x403, b := 0x25D }) = true :=
  ⟨rfl, by decide, by decide, by decide, by decide, by decide⟩

theorem witness_scalarFloatResults : (stOf g0).env = some (enOf g0)
  ∧ fit g0 ([Instr.sfadd, Instr.sfsub, Instr.sfmul, Instr.sfma, Instr.sfmin, Instr.sfmax].flatMap fun c => [c { sOp with ty := 8 }, c { sOp with ty := 14 }]) = true
  ∧ fit g0 ([0, 1, 8, 14].map fun t => .scvt { ty := BitVec.ofNat 4 (if t = 8 then 14 else 8), x := BitVec.ofNat 7 t, d := 0x402, a := 0x404 }) = true :=
  ⟨rfl, by decide, by decide⟩

theorem witness_maskResults : (stOf g0).env = some (enOf g0)
  ∧ fit g0 ([Instr.mand, Instr.mor, Instr.mxor, Instr.mandn].map (· { d := 7, a := 0, b := 1 })) = true
  ∧ fit g0 [.mnot { d := 7, a := 1 }, .mmov { d := 7, a := 1 }, .mall { d := 7 }, .mclear { d := 7 }, .mpopc { d := 0x402, a := 1 }, .mfirst { d := 0x402, a := 1 },
    .mfirst { d := 0x402, a := 2 }, .mtos { x := 3, d := 0x402, a := 1 }, .mfroms { x := 3, d := 7, a := 0x402 }] = true
  ∧ g0.regs.mget (mnum 1) ≠ 0 ∧ g0.regs.mget (mnum 2) = 0 := ⟨rfl, by decide, by decide, by decide, by decide⟩

def vTypes (l : List Nat) (c : F3 → Instr) : List Instr := l.map fun t => c { vOp with ty := BitVec.ofNat 4 t }

theorem witness_vectorIntegerResults : (stOf g0).env = some (enOf g0)
  ∧ fit g0 ([Instr.vadd, Instr.vsub, Instr.vmul, Instr.vshl, Instr.vshr, Instr.vsar, Instr.vmin, Instr.vmax, Instr.vminu, Instr.vmaxu, Instr.vaddsat, Instr.vsubsat,
    Instr.vabsdiff, Instr.vmad].flatMap (vTypes [0, 2, 4])) = true
  ∧ fit g0 ([Instr.vaddI, Instr.vsubI, Instr.vmulI, Instr.vshlI, Instr.vshrI, Instr.vsarI, Instr.vminI, Instr.vmaxI, Instr.vminuI, Instr.vmaxuI, Instr.vaddsatI,
    Instr.vsubsatI, Instr.vabsdiffI].map (· vImm)) = true
  ∧ fit g0 ([Instr.vmulhi, Instr.vmulhu, Instr.vand, Instr.vor, Instr.vxor, Instr.vbfi, Instr.vbfe].map (· vOp)) = true
  ∧ fit g0 ([Instr.vmulhiI, Instr.vmulhuI, Instr.vandI, Instr.vorI, Instr.vxorI, Instr.vbfiI, Instr.vbfeI].map (· vImm)) = true
  ∧ fit g0 ([Instr.vpopc, Instr.vclz, Instr.vmov, Instr.viota].map (· { vOp with b := 0 })) = true
  ∧ fit g0 [.vmov { ty := 14, d := 4, a := 6 }, .vsel { x := 1, d := 4, a := 6, b := 0x201 }, .vsel { ty := 14, x := 7, d := 4, a := 6, b := 8 }] = true
  ∧ fit g0 [.vdot4 { vOp with ty := 4 }, .vdot4 { vOp with ty := 6 }, .vdot4u { vOp with ty := 5 }] = true ∧ fit g0 [.vdot4I { vImm with ty := 4 }, .vdot4uI { vImm with ty := 7 }] = true := by
  and_intros <;> first | decide | rfl

theorem witness_vectorCompareResults : (stOf g0).env = some (enOf g0)
  ∧ fit g0 ([Instr.vcmpeq, Instr.vcmpne, Instr.vcmplt, Instr.vcmple, Instr.vcmpltu, Instr.vcmpleu, Instr.vcmpgt, Instr.vcmpge, Instr.vcmpgtu,
    Instr.vcmpgeu].map (· { vOp with d := 7 })) = true
  ∧ fit g0 ([Instr.vcmpeqI, Instr.vcmpneI, Instr.vcmpltI, Instr.vcmpleI, Instr.vcmpltuI, Instr.vcmpleuI, Instr.vcmpgtI, Instr.vcmpgeI, Instr.vcmpgtuI,
    Instr.vcmpgeuI].map (· { vImm with d := 7 })) = true
  ∧ fit g0 ([Instr.vfcmpeq, Instr.vfcmpne, Instr.vfcmplt, Instr.vfcmple, Instr.vfcmpgt, Instr.vfcmpge, Instr.vfcmpord, Instr.vfcmpunord].flatMap fun c =>
    [c { vOp with ty := 8, d := 7 }, c { ty := 14, d := 7, a := 4, b := 6 }]) = true :=
  ⟨rfl, by decide, by decide, by decide⟩

theorem witness_crossThreadResults : (stOf g0).env = some (enOf g0)
  ∧ fit g0 ([Instr.vshuf, Instr.vrot].flatMap fun c => [c vOp, c { ty := 14, d := 4, a := 6, b := 5 }]) = true ∧ fit g0 [.vbcast { vOp with b := 0x405 }] = true
  ∧ fit g0 ([0, 2, 3, 6].map fun x => .vswiz { d := 3, a := 4, x := BitVec.ofNat 7 x }) = true
  ∧ fit g0 [.vcompact { d := 3, a := 4, x := 1 }, .vcompact { ty := 14, d := 6, a := 4, x := 1 }, .vred { ty := 8, x := 8, d := 0x409, a := 3 }, .vred { x := 0, d := 9, a := 3 },
    .vscan { d := 9, a := 3 }, .vscan { d := 9, a := 3, x := 16 }] = true ∧ opKind 0x409 = .scalar ∧ opKind 9 = .vector := by
  and_intros <;> first | decide | rfl

theorem witness_vectorFloatResults : (stOf g0).env = some (enOf g0)
  ∧ fit g0 ([Instr.vfadd, Instr.vfsub, Instr.vfmul, Instr.vfma].map (· { ty := 14, d := 4, a := 6, b := 8 })) = true
  ∧ fit g0 ([Instr.vfadd, Instr.vfsub, Instr.vfmul, Instr.vfma, Instr.vfmin, Instr.vfmax].flatMap (vTypes [8, 9, 10])) = true
  ∧ fit g0 ([Instr.vfrnd, Instr.vfract].map (· { ty := 8, d := 3, a := 4 })) = true
  ∧ fit g0 ([Instr.vhadd, Instr.vhmul, Instr.vhfma].flatMap fun c => [c { vOp with ty := 9 }, c { vOp with ty := 9, x := 3 }]) = true ∧ fit g0 (vTypes [9, 10] .vfdot2) = true :=
  ⟨rfl, by decide, by decide, by decide, by decide, by decide⟩

theorem witness_vectorFunctionAndConversionResults : (stOf g0).env = some (enOf g0)
  ∧ fit g0 ([Instr.vrcp, Instr.vrsq, Instr.vsqrt, Instr.vexp2, Instr.vlog2, Instr.vsin, Instr.vcos, Instr.vtanh].flatMap fun c =>
    [c { ty := 8, d := 3, a := 4 }, c { ty := 9, d := 3, a := 4 }]) = true
  ∧ fit g0 [.vcvt { ty := 14, x := 8, d := 4, a := 3 }, .vcvt { ty := 0, x := 14, d := 3, a := 4 }, .vpack { ty := 4, x := 0, d := 3, a := 4, b := 5 },
    .vpack { ty := 11, x := 1, d := 3, a := 4, b := 5 }, .vunpack { ty := 4, x := 3, d := 3, a := 4 }, .vunpack { ty := 11, x := 0, d := 3, a := 4 },
    .vscale { ty := 8, d := 3, a := 4, b := 5 }] = true ∧ (f32 0x7FC00000#32).isNan = true := ⟨rfl, by decide, by decide, by decide⟩

theorem witness_pairedWordResults : (stOf g0).env = some (enOf g0)
  ∧ pairLegal { ho := 1, d := 4, a := 8 } { ho := 15, d := 9, a := 0x143 } = true ∧ bankRule { ho := 1, d := 4, a := 8 } { ho := 15, d := 9, a := 0x143 } = true
  ∧ halfFits g0 { ho := 1, d := 4, a := 8 } = true ∧ halfFits g0 { ho := 15, d := 9, a := 0x143 } = true ∧ pairLegal { ho := 1, d := 4, a := 8 } { ho := 1, d := 8, a := 9 } = true
  ∧ bankRule { ho := 1, d := 4, a := 8 } { ho := 1, d := 8, a := 9 } = false := by
  and_intros <;> first | decide | rfl

/-- A branch to a misaligned register value and to one beyond the addresses, with the target of a REP. -/
def gJump : Group := { g0 with pc := 0x100, regs := { g0.regs with s := [(0, 0x40), (2, 4), (5, 0x8000), (6, 0x80)], c := 2 } }

theorem witness_controlTransferResults : (stOf gJump).env = some (enOf gJump)
  ∧ fit gJump [.nop {}, .jmpr { a := 0x400 }, .jmpr { a := 0x402 }, .callr { a := 0x404 }] = true
  ∧ (gJump.pc + 8 + 8 * (BitVec.ofInt 32 (-4)).signExtend 64).extractLsb' 0 3 = 0 ∧ canonical (gJump.pc + 8 + 8 * (BitVec.ofInt 32 (-4)).signExtend 64) = true
  ∧ (gJump.regs.sget64 2).extractLsb' 0 3 ≠ 0 ∧ (gJump.regs.sget64 4).extractLsb' 0 3 = 0 ∧ canonical (gJump.regs.sget64 4) = false
  ∧ gJump.regs.cget 1 ≠ decide ((1 : BitVec 1) = 0) ∧ gJump.regs.cget 0 = decide ((0 : BitVec 1) = 1)
  ∧ gJump.regs.mget 2 &&& gJump.regs.mget 0 = 0 ∧ gJump.regs.mget 1 &&& gJump.regs.mget 0 ≠ 0 := by
  and_intros <;> first | decide | rfl

def rep411 : FR := { cnt := 3, dinc := 1, ainc := 1, binc := 0 }
theorem witness_repeatPrefix :
  ((match ((State.reset.withFetchWord 64 0x120C440000000000).writeMem 0x104008 (leBytes 8 0x2000000000C02205)) with
    | s => ((s.envOf 0 0).map fun e => s.peekWord e (e.g.pc + 8)) = some (some 0x2000000000C02205#64)) : Bool) = true
  ∧ repTargetOk rep411 0x2000000000C02205 = true ∧ repTargetOk rep411 0x1300000000000000 = false
  ∧ ({ g0 with rep := some rep411, repcnt := 2 } : Group).repcnt.toNat = 2 ∧ (repFields 0x2000000000C02205).isSome = true
  ∧ (repWord rep411 0x2000000000C02205 3).isSome = true := ⟨by decide, by decide, by decide, rfl, by decide, by decide⟩

/-- A machine where the page at address 0 of PF0's context 0 is memory. -/
def memBase : State := tiny.withFetchWord 64 0x2000000000C02205

/-- The state in which a group issues there, the lines listed present. -/
def memOf (g : Group) (b : Block := placedBlock) (l : Launch := placedLaunch) (lines : KMap Line := [(lineOf 0x104000, {})]) : State :=
  { memBase with cur := .group 0 0, groups := [(0, g)], blocks := [(2, b)], launches := [(1, l)], lines := lines }
def enMem (g : Group) (b : Block := placedBlock) (l : Launch := placedLaunch) : Env :=
  { gid := 0, word := 0, g := g, b := b, l := l, ck := l.ctx, ctx := { allow := 0xFFFF, s1root := BitVec.ofNat 64 placeBase } }

/-- An entry of a table in a machine with no translation held. -/
theorem entry_fresh {s : State} (h : s.tlb = []) {id : EntryId} {pa : Nat} {e : DWord} (he : word64 (s.readMem pa 8) = e) (n : Nat) : s.entryAt n id pa = e :=
  he ▸ entryAt_held (by simp [h])

theorem walk_memOf : ∀ n va, va < 4096 → ((memBase).walk1 n 31 (ctxKey 31 0) va levels4 placeBase).1 = .ok { pa := 0x104000 + va, rd := true, wr := true, ex := true } := by
  intro n va hva
  have hi : ∀ k, 12 ≤ k → va / 2 ^ k = 0 := fun k hk => Nat.div_eq_of_lt (Nat.lt_of_lt_of_le hva (Nat.pow_le_pow_right (by decide) hk : 2 ^ 12 ≤ 2 ^ k))
  unfold levels4
  rw [walk1_table (oa := 0x101000) (by decide) (by rw [hi _ (by decide)]; decide) (by rw [hi _ (by decide)]; decide) (entry_fresh rfl rfl) (by rw [hi _ (by decide)]; decide),
    walk1_table (oa := 0x102000) (by decide) (by rw [hi _ (by decide)]; decide) (by rw [hi _ (by decide)]; decide) (entry_fresh rfl rfl) (by rw [hi _ (by decide)]; decide),
    walk1_table (oa := 0x103000) (by decide) (by rw [hi _ (by decide)]; decide) (by rw [hi _ (by decide)]; decide) (entry_fresh rfl rfl) (by rw [hi _ (by decide)]; decide)]
  have h := walk1_leaf (s := memBase) (n := n) (ck := ctxKey 31 0) (va := va) (table := 0x103000) (e := BitVec.ofNat 64 (pageEntry 0x104000))
    (f := { pa := 0x104000 + va, rd := true, wr := true, ex := true })
  rw [hi 12 (by decide)] at h
  refine h (by decide) (by decide) (entry_fresh rfl (by decide)) (fun n j hj => by rw [entry_fresh rfl rfl n]; revert j; decide) (by decide) ?_ rfl ?_
  · simp only [leafOf, pageEntry, Leaf.mk.injEq]
    refine ⟨?_, by decide, by decide, by decide, by decide, by decide⟩
    have hz : (if (decide True && (BitVec.ofNat 64 (1064960 + 3 + 7 * 2 ^ 51)).getLsbD 56) = true then 2 ^ 16 else 2 ^ (12 + 9 * 0)) = 4096 := by decide
    have ho : oaOf (BitVec.ofNat 64 (1064960 + 3 + 7 * 2 ^ 51)) = 1064960 := by decide
    rw [hz, ho, Nat.mod_eq_of_lt hva]
  · simp only [State.backed, Bool.and_eq_true, decide_eq_true_eq]
    refine ⟨by omega, ?_⟩
    rw [Nat.mod_eq_of_lt (by omega)]
    exact Nat.lt_trans (by omega : _ < 2 ^ 34) (by decide)

/-- Every access to the page succeeds. -/
theorem access_memOf (g : Group) (b : Block) (l : Launch) (x : KMap Line) (va : DWord) (hv : va.toNat < 4096) (hc : canonical va = true) (k : Access) (n : Nat) :
    ((memOf g b l x).access n (ctxKey 31 0) va k).1 = .dev (0x104000 + va.toNat) false := by
  have hs : SameMap (memOf g b l x) (memBase) := ⟨rfl, rfl, rfl, rfl, rfl, rfl, rfl, rfl⟩
  rw [hs.access]
  have h1 : ((memBase).ctx (ctxKey 31 0)).s1root.toNat = placeBase := by decide
  have hd : (0x104000 + va.toNat) / 65536 = 16 := by omega
  have hm : (0x104000 + va.toNat) % 2 ^ 36 / 65536 = 16 := by omega
  have h2 : (memBase).mayRead 31 (0x104000 + va.toNat) = true := by simp only [State.mayRead, State.inFot, hd, hm]; decide
  have h3 : (memBase).mayWrite 31 (0x104000 + va.toNat) = true := by simp only [State.mayWrite, State.inFot, hd, hm]; decide
  have h4 : (memBase).isPoisoned (0x104000 + va.toNat) = false := by
    have hp : (memBase).poisoned = [] := rfl
    simp only [State.isPoisoned, hp, hd, List.contains_nil, Bool.false_or]; decide
  have h5 : partOfCtx (ctxKey 31 0) = 31 := by decide
  have h6 : va.toNat % 2 ^ 48 = va.toNat := Nat.mod_eq_of_lt (by omega)
  have hw : ((memBase).translate n 31 (ctxKey 31 0) va.toNat).1 = .ok { pa := 0x104000 + va.toNat, rd := true, wr := true, ex := true } :=
    translate_walk (s := memBase) (by intro t ht; cases ht) (by rw [h1]; exact walk_memOf n va.toNat hv)
  simp only [State.access, hc, Bool.not_true, Bool.false_eq_true, if_false, h5, h6]
  split
  · rename_i heq; rw [heq] at hw; cases hw
  · rename_i heq; rw [heq] at hw; cases hw
  · rename_i heq; rw [heq] at hw; cases hw
    cases k <;> simp [Leaf.allows, h2, h3, h4]

/-! ### The control and system families -/

def g1 : Group := { placedGroup with uid := 4, cp := 1, index := 1, regs := { m := [(0, 1)] }, waitFor := .barrier false 3, wait := 1 }
/-- Two groups of one block, the second at a barrier. -/
def twoOf (g h : Group) : State := { stOf g with groups := [(0, g), (16, h)] }

theorem witness_groupControlResults :
  (twoOf g0 g1).env = some (enOf g0) ∧ placedLaunch.kind = .plain ∧ placedBlock.prog = .compute
  ∧ fit g0 [.endI {}, .yield {}, .bar { x := 3 }, .bart { x := 3 }] = true ∧ (∃ x ∈ (twoOf g0 g1).groups, x.1 ≠ 0 ∧ x.2.block = g0.block)
  ∧ (∀ x ∈ (stOf g0).groups, x.2.block = g0.block → x.1 = 0) ∧ placedBlock.stopped = [] ∧ placedBlock.openOps = 0 ∧ placedBlock.armed = []
  ∧ ((twoOf g0 g1).groups.map Prod.fst).Nodup ∧ (twoOf g0 g1).teamResident g0.block = true
  ∧ (∀ x ∈ (twoOf g0 g1).groups, x.2.block = g0.block → x.1 ≠ 0 → x.2.waitFor = .barrier false 3)
  ∧ (∃ x ∈ (twoOf g0 g1).groups, x.2.block = g0.block ∧ x.1 ≠ 0 ∧ x.2.waitFor ≠ .barrier false 4) ∧ (twoOf g0 g1).writesPending g0.uid = false
  ∧ ∀ x ∈ (stOf g0).groups, x.1 ≠ 0 → ∀ o, kget (stOf g0).blocks x.2.block = some o → o.launch = placedBlock.launch → o.team = placedBlock.team →
      x.2.waitFor = .barrier true 3 := by
  have last : ∀ x ∈ (stOf g0).groups, x.1 ≠ 0 → ∀ o, kget (stOf g0).blocks x.2.block = some o → o.launch = placedBlock.launch → o.team = placedBlock.team →
      x.2.waitFor = .barrier true 3 := by
    intro x hx h0
    simp [stOf] at hx
    exact absurd (congrArg Prod.fst hx) h0
  and_intros <;> first | exact last | decide | rfl

/-- A copy that a page fault has stopped, counted on counter 2. -/
def cStop : Copy := { fn := 0, ty := 0, bstore := false, k := 2, bid := 2, gid := 0, groupUid := 3, recd := {}, off := 0, dval := 0, statusReg := 20, start := [0], reserved := true, issued := 0, fault := 0x9000 }
/-- A block whose counter 0 is at 1, counter 1 at its largest value, and counter 2 with a stopped copy. -/
def bCount : Block := { placedBlock with k := ((List.replicate 32 0#16).set 1 0xFFFF).set 0 1, stopped := [cStop] }

theorem witness_cinchCounterResults :
  (stOf g0 bCount).env = some (enOf g0 bCount) ∧ NotAtCounter g0 ∧ fit g0 [.setfmt { a := 0x406 }, .setfmt { a := 0x207 }, .kset { x := 3, a := 0x406 }, .kset { x := 3, a := 0x407 },
    .kadd { x := 1, a := 0x201 }, .kadd { x := 1, a := 0x240 }, .kwait { x := 0 }, .kwait { x := 3 }, .kwait { x := 2 }, .krd { x := 3, d := 0x402 }, .kyield { d := 0, imm := 3 },
    .kyield { d := 3, imm := 3 }, .kyield { d := 2, imm := 3 }] = true
  ∧ fmtLegal (g0.s32 0x207) = false ∧ fmtLegal 0x899 = true ∧ (g0.s32 0x406).toNat = 65535 ∧ (g0.s32 0x407).toNat = 65536
  ∧ (bCount.kval 1 : Int) + (g0.s32 0x201).toInt = 65536 ∧ (bCount.kval 1 : Int) + (g0.s32 0x240).toInt = 65534 ∧ bCount.kval 0 ≠ 0 ∧ bCount.kval 3 = 0
  ∧ bCount.stoppedOn 0 = none ∧ bCount.stoppedOn 3 = none ∧ bCount.stoppedOn 2 = some cStop
  ∧ (g0.pc + 8 + 8 * (3 : BitVec 21).signExtend 64).extractLsb' 0 3 = 0 ∧ canonical (g0.pc + 8 + 8 * (3 : BitVec 21).signExtend 64) = true := by
  have free : NotAtCounter g0 := ⟨nofun, nofun⟩
  and_intros <;> first | exact free.1 | exact free.2 | decide | rfl

theorem witness_systemRegisterResults :
  (stOf g0).env = some (enOf g0) ∧ fit g0 [.srd { d := 0x404, a := 0x20D }, .srd { d := 0x404, a := 0x227 }, .swr { a := 0x214, b := 0x206 }, .swr { a := 0x214, b := 0x208 }, .swr { a := 0x216, b := 0x207 },
    .swr { a := 0x20F, b := 0x406 }, .swr { a := 0x210, b := 0x201 }, .swr { a := 0x211, b := 0x240 }, .pctr { d := 0x404, a := 0x203 }, .pctr { d := 0x404, a := 0x204 },
    .pcfg { a := 0x203, b := 0x211 }, .iflush {}] = true
  ∧ (g0.writeSpecial 20 8).isSome = true ∧ g0.writeSpecial 20 6 = none ∧ (6#32).extractLsb' 0 3 ≠ 0 ∧ (8#32).extractLsb' 0 3 = 0 ∧ (g0.writeSpecial 17 64).isSome = true
  ∧ g0.writeSpecial 17 65 = none ∧ (g0.s32 0x203).toNat = 3 ∧ (g0.s32 0x204).toNat = 4 ∧ (g0.s32 0x211).toNat = 17 ∧ (stOf g0).writesPending g0.uid = false := by
  and_intros <;> first | decide | rfl

/-- A group in its handler: ACTIVE is set, with RESUME and a mask as given. -/
def gTrapped (resume : Bool) (mask : Mask) (pc : DWord := 0x80) : Group :=
  { g0 with trap := { base := 0x40, pc := pc, cause := if resume then 0x305 else 0x105, mask := mask } }

theorem witness_softwareTrapAndReturnResults :
  fit g0 [.trap { imm := 7 }, .brk {}, .tret {}] = true ∧ g0.doubleTrap = false ∧ g0.trap.cause.getLsbD 8 = false
  ∧ fit (gTrapped true 2) [.tret {}] = true
  ∧ (∀ r m, ((gTrapped r m).trap.cause.getLsbD 8 = true ∧ (gTrapped r m).trap.cause.getLsbD 9 = r) ∧ (gTrapped r m).trap.pc.extractLsb' 0 3 = 0 ∧ canonical (gTrapped r m).trap.pc = true
    ∧ (stOf (gTrapped r m)).repTarget (enOf (gTrapped r m)) (gTrapped r m).trap.pc = none)
  ∧ ({ memBase.writeMem 0x104000 (leBytes 8 0x120C440000000000) with cur := .group 0 0, groups := [(0, { gTrapped false 0 8 with repcnt := 3 })] } : State).env.map
      (fun e => ((({ memBase.writeMem 0x104000 (leBytes 8 0x120C440000000000) with cur := .group 0 0 } : State).repTarget e e.g.trap.pc).isSome : Bool)) = some true := by
  refine ⟨by decide, by decide, by decide, by decide, fun r m => ⟨?_, (by decide : (0x80#64).extractLsb' 0 3 = 0), (by decide : canonical 0x80#64 = true), rfl⟩, by decide⟩
  cases r
  · exact ⟨(by decide : (0x105#32).getLsbD 8 = true), (by decide : (0x105#32).getLsbD 9 = false)⟩
  · exact ⟨(by decide : (0x305#32).getLsbD 8 = true), (by decide : (0x305#32).getLsbD 9 = true)⟩

/-! ### The memory families -/

/-- The accesses of the threads of a word reach the page. -/
theorem reaches_memOf (g : Group) (b : Block) (l : Launch) (x : KMap Line) (w : Nat) (k : Access) (ts : List (Nat × DWord)) (pa : Nat → Nat) (hl : l.ctx = ctxKey 31 0)
    (h : ∀ y ∈ ts, y.2.toNat % w = 0 ∧ y.2.toNat < 4096 ∧ canonical y.2 = true ∧ pa y.1 = 0x104000 + y.2.toNat) :
    Reaches (memOf g b l x) (enMem g b l) k w ts pa (fun _ => false) := by
  refine fun y hy => ⟨(h y hy).1, fun n => ?_⟩
  rw [(h y hy).2.2.2, show (enMem g b l).ck = ctxKey 31 0 from hl]
  exact access_memOf g b l x y.2 (h y hy).2.1 (h y hy).2.2.1 k n

/-- Every line of the page's first 128 bytes is present. -/
theorem lands_memOf (g : Group) (b : Block) (l : Launch) (ts : List (Nat × DWord)) (pa : Nat → Nat) (h : ∀ y ∈ ts, lineOf (pa y.1) = lineOf 0x104000) :
    Lands (memOf g b l) ts pa := by
  refine ⟨fun y hy => ?_, rfl, fun y hy => ?_⟩
  · rw [State.line?, h y hy]
    exact ⟨rfl, rfl⟩
  · simp only [State.mustWait, State.line?, h y hy]
    rfl

/-- Addresses in the pairs v4 and v6 of three threads, offsets in v8, data in v9 and v10; s0 is 64. -/
def gMem : Group :=
  { g0 with regs := { g0.regs with v := [(512, 0), (513, 24), (514, 16), (768, 0x1F), (1024, 0), (1025, 8), (1026, 1016), (1152, 0x11), (1153, 0x22)], s := [(0, 64)] } }
def paMem (t : Nat) : Nat := 0x104000 + match t with | 0 => 0 | 1 => 24 | _ => 16
def ldg64 : F3 := { ty := 5, d := 12, a := 4, b := 0 }
def stg64 : F3 := { ty := 5, d := 10, a := 4, b := 0 }
/-- A response of one word, with a FILL handler that holds it or none. -/
def gResp (fills : List Nat) : Group := { g0 with resps := [{ items := [.dev false 1152 0x104008 4 false .bypass], fills := fills }] }
/-- A response of an acquire whose values have come, and one of an atomic on the other die, for which the link is retraining. -/
def gAcq : Group := { g0 with resps := [{ items := [], acq := true }] }
def gFar : Group := { g0 with resps := [{ items := [.atom 1152 (2 ^ 36 + 8) .add false 1 0] }] }

theorem witness_globalLoadResults :
  (memOf gMem).env = some (enMem gMem) ∧ fit gMem [.ldg ldg64, .ldgs { ldg64 with d := 0x404, a := 0x400 }] = true
  ∧ Reaches (memOf gMem) (enMem gMem) .read 8 (gMem.gthreads ldg64 true) paMem (fun _ => false) ∧ Lands (memOf gMem) (gMem.gthreads ldg64 true) paMem
  ∧ Reaches (memOf gMem) (enMem gMem) .read 8 [(0, gMem.gaddr { ldg64 with a := 0x400 } true 0)] (fun _ => 0x104040) (fun _ => false)
  ∧ kget (stOf (gResp [])).groups 0 = some (gResp []) ∧ kget (stOf (gResp [1])).groups 0 = some (gResp [1]) ∧ (0x104008 % 4 = 0 ∧ 4 ∈ [1, 2, 4, 8, 16])
  ∧ (stOf (gResp [])).link.retraining = false ∧ (stOf (gResp [])).pendingWrites = [] ∧ kget (stOf (gResp [])).heldLines (lineOf 0x104008) = none
  ∧ (gAcq.resps.map fun x => (x.items, x.fills, x.acq)) = [([], [], true)]
  ∧ (gFar.resps.map fun r => (r.fills, r.items.length, r.items.all (({ stOf gFar with link := { retraining := true } } : State).blocked (coreOfGid 0) r.acq))) = [([], 1, true)] :=
  ⟨rfl, by decide, reaches_memOf _ _ _ _ _ _ _ _ rfl (by decide), lands_memOf _ _ _ _ _ (by decide), reaches_memOf _ _ _ _ _ _ _ _ rfl (by decide),
    by and_intros <;> first | rfl | decide⟩

theorem witness_globalStoreResults :
  fit gMem [.stg stg64, .stgs { stg64 with d := 0x404, a := 0x400 }, .stg { stg64 with x := 0x50 }] = true
  ∧ Reaches (memOf gMem) (enMem gMem) .write 8 (gMem.gthreads stg64 true) paMem (fun _ => false) ∧ Lands (memOf gMem) (gMem.gthreads stg64 true) paMem
  ∧ Reaches (memOf gMem) (enMem gMem) .write 8 [(0, gMem.gaddr { stg64 with a := 0x400 } true 0)] (fun _ => 0x104040) (fun _ => false)
  ∧ (memOf gMem).writesPending gMem.uid = false ∧ (∀ j ∈ [0, 1, 2], Alone [0, 1, 2] paMem 8 j) ∧ Outside [0, 1, 2] paMem 8 0x10400F :=
  ⟨by decide, reaches_memOf _ _ _ _ _ _ _ _ rfl (by decide), lands_memOf _ _ _ _ _ (by decide), reaches_memOf _ _ _ _ _ _ _ _ rfl (by decide), rfl,
    by unfold Alone; decide, by unfold Outside; decide⟩

/-- Thread 1 alone, at addresses that are misaligned, in a pending page, poisoned, and beyond the addresses. -/
def gOne (lo hi : Word) : Group := { g0 with regs := { g0.regs with v := [(513, lo), (641, hi)] } }
def memPend : State := memBase.writeMem 0x100008 (leBytes 8 (2 ^ 58))
def one4 : F3 := { pm := 1, ty := 4, d := 12, a := 4, b := 0 }

theorem park_memPend (g : Group) (k : Access) (n : Nat) :
    (({ memPend with groups := [(0, g)] } : State).access n (ctxKey 31 0) 0x8000000008 k).1 = .park 0x100008 false := by
  have hs : SameMap ({ memPend with groups := [(0, g)] } : State) memPend := ⟨rfl, rfl, rfl, rfl, rfl, rfl, rfl, rfl⟩
  rw [hs.access]
  have h0 : memPend.tlb = [] := rfl
  have h1 : (memPend.ctx (ctxKey 31 0)).s1root.toNat = placeBase := by decide
  have h2 : partOfCtx (ctxKey 31 0) = 31 := by decide
  simp only [State.access, State.translate, h1, h2, levels4, State.walk1, State.stage2, if_true, State.entryAt, h0, List.filterMap_nil, if_false,
    (by decide : (3 : Nat) ≠ 0)]
  rfl

theorem witness_globalAccessStops :
  NoLatch one4 ∧ bitsOf ((gOne 26 0).pred one4.pm.toNat) = [1] ∧ (gOne 26 0).doubleTrap = false ∧ fit (gOne 26 0) [.ldg one4, .stg one4] = true
  ∧ ordOf one4 ≠ 2 ∧ ((gOne 26 0).gaddr one4 true 1).toNat % widthBytes one4.ty ≠ 0
  ∧ ((gOne 8 0x80).gaddr one4 true 1).toNat % widthBytes one4.ty = 0 ∧ (gOne 8 0x80).gaddr one4 true 1 = 0x8000000008
  ∧ (∀ k n, (({ memPend with groups := [(0, gOne 8 0x80)] } : State).access n (ctxKey 31 0) 0x8000000008 k).1 = .park 0x100008 false)
  ∧ ((gOne 8 0x8000).gaddr one4 true 1).toNat % widthBytes one4.ty = 0
  ∧ ∀ k n, ((memOf (gOne 8 0x8000)).access n (ctxKey 31 0) ((gOne 8 0x8000).gaddr one4 true 1) k).1 = .stop 0x05 none :=
  ⟨by unfold NoLatch; decide, by decide, by decide, by decide, by decide, by decide, by decide, by decide, park_memPend _, by decide, fun _ _ => rfl⟩

/-- Offsets in v8: 0, 8 and, when `ok`, the last place of a scratchpad of 1024 bytes. -/
def ld64 : F3 := { ty := 5, d := 12, a := 8, b := 0 }
def gTrav : LaunchKind := .travel { repl := false, pooln := 0, poolbase := 0, cores := 0, segs := [], entries := [], trsz := 64, hrec := 1, free := 0 }

theorem witness_localLoadResults :
  (stOf gMem).env = some (enOf gMem) ∧ (enOf gMem).travel = false ∧ fit gMem [.lds ld64, .ldt ld64, .ldb ld64] = true ∧ placedBlock.matrix = true
  ∧ (∀ t ∈ bitsOf (gMem.pred 0), (gMem.laddr ld64 true t).toNat % 8 = 0 ∧ (gMem.laddr ld64 true t).toNat + 8 ≤ placedBlock.spmSize)
  ∧ (gMem.laddr ld64 true 2).toNat + 8 = placedBlock.spmSize
  ∧ (∀ t ∈ bitsOf (gMem.pred 0), ∃ p n o, (stOf gMem).teamSpm (enOf gMem) (BitVec.ofNat 32 (gMem.laddr ld64 true t).toNat) = some (p, n, o) ∧ o + 8 ≤ n) := by
  refine ⟨rfl, rfl, by decide, rfl, by decide, by decide, fun t ht => ?_⟩
  have h : bitsOf (gMem.pred 0) = [0, 1, 2] := by decide
  rw [h] at ht
  simp only [List.mem_cons, List.not_mem_nil, or_false] at ht
  rcases ht with rfl | rfl | rfl
  · exact ⟨.block 2, 1024, 0, by decide⟩
  · exact ⟨.block 2, 1024, 8, by decide⟩
  · exact ⟨.block 2, 1024, 1016, by decide⟩

theorem witness_localStoreResults :
  fit gMem [.sts { ld64 with d := 10 }, .stt { ld64 with d := 10 }, .stb { ld64 with d := 10 }, .ldb { ld64 with d := 10 }] = true ∧ (stOf gMem).writesPending gMem.uid = false
  ∧ (∀ t ∈ bitsOf (gMem.pred 0), (gMem.laddr ld64 true t).toNat % 8 = 0 ∧ (gMem.laddr ld64 true t).toNat + 8 ≤ 2 ^ 18)
  ∧ (∀ i ∈ bitsOf (gMem.pred 0), ∀ j ∈ bitsOf (gMem.pred 0), j ≠ i →
    (gMem.laddr ld64 true j).toNat + 8 ≤ (gMem.laddr ld64 true i).toNat ∨ (gMem.laddr ld64 true i).toNat + 8 ≤ (gMem.laddr ld64 true j).toNat)
  ∧ ((stOf gMem { placedBlock with matrix := false }).env = some (enOf gMem { placedBlock with matrix := false }))
  ∧ (kget (stOf gMem).cores gMem.core).isSome = true ∧ ({ placedBlock with matrix := false } : Block).matrix = false := by
  and_intros <;> first | decide | rfl

def atG : F3 := { ty := 4, d := 12, a := 4, b := 0x201 }
def atS : F3 := { ty := 4, d := 12, a := 8, b := 0x201 }

theorem witness_atomicResults :
  (∀ c ∈ [Instr.aaddG, Instr.aminG, Instr.amaxG, Instr.aminuG, Instr.amaxuG, Instr.aandG, Instr.aorG, Instr.axorG, Instr.axchgG, Instr.acasG],
    fit gMem [c atG, c { atG with ty := 5, b := 10 }] = true) ∧ fit gMem [.afaddG atG, .afminG atG, .afmaxG atG, .afaddS atS, .afminS atS, .afmaxS atS] = true
  ∧ fit gMem ([Instr.aaddS, Instr.aminS, Instr.amaxS, Instr.aminuS, Instr.amaxuS, Instr.aandS, Instr.aorS, Instr.axorS, Instr.axchgS, Instr.acasS].map (· atS)) = true
  ∧ Reaches (memOf gMem) (enMem gMem) .atomic 4 (gMem.gthreads atG false) paMem (fun _ => false) ∧ Lands (memOf gMem) (gMem.gthreads atG false) paMem
  ∧ (∀ j ∈ [0, 1, 2], Alone [0, 1, 2] paMem 4 j) ∧ Outside [0, 1, 2] paMem 4 0x104004
  ∧ (∀ t ∈ [0, 1, 2], (gMem.laddr atS false t).toNat % 4 = 0) ∧ (stOf gMem).teamSpm (enOf gMem) (gMem.laddr atS false 2) = some (.block 2, 1024, 1016) :=
  ⟨by decide, by decide, by decide, reaches_memOf _ _ _ _ _ _ _ _ rfl (by decide), lands_memOf _ _ _ _ _ (by decide), by unfold Alone; decide, by unfold Outside; decide,
    by decide, by decide⟩

/-- A release at device scope, with a write of the group not acknowledged and with none. -/
def relDev : F3 := { x := 0x50 }
def pendOf (g : Group) : State := { stOf g with pendingWrites := [{ uid := g.uid, core := some 0, own := true, lid := 1, ck := ctxKey 31 0, line := 1, sharers := [1], pa := 128, data := [7] }] }

theorem witness_fenceAndMessageResults :
  fit gMem [.fence relDev, .afence {}, .amsg { ty := 4, a := 4, b := 9 }, .amsgw { ty := 5, d := 12, a := 4, b := 9 }, .amsgw { ty := 5, pm := 2, d := 12, a := 4, b := 9 }] = true
  ∧ ordOf relDev = 2 ∧ 2 ≤ scopeOf relDev ∧ (pendOf gMem).writesPending gMem.uid = true ∧ (pendOf gMem).env = some (enOf gMem) ∧ (stOf gMem).writesPending gMem.uid = false
  ∧ (∀ x ∈ gMem.gthreads { ty := 4, a := 4, b := 9 } false, canonical x.2 = true) ∧ gMem.pred 2 = 0 ∧ gMem.pred 0 ≠ 0 := by
  and_intros <;> first | decide | rfl

/-! ### Structures in the page -/

/-- Bytes at an address of the page. -/
def put (s : State) (va : Nat) (l : List Byte) : State := s.writeMem (0x104000 + va) l
/-- A group that issues in a machine whose page has been filled. -/
def inPage (s : State) (g : Group) (b : Block := placedBlock) (l : Launch := placedLaunch) : State :=
  { s with cur := .group 0 0, groups := [(0, g)], blocks := [(2, b)], launches := [(1, l)] }

/-- R224: a precision resource of one page a level with its map at 0x300, its codebook at 0x340 and both levels at address 0. -/
def precisionBytes : List Byte := leBytes 8 (2 ^ 32 * 0x102) ++ leBytes 8 0x300 ++ leBytes 8 0 ++ leBytes 8 0x340 ++ List.replicate 32 0 ++ leBytes 8 0 ++ leBytes 8 1 ++ leBytes 8 0 ++ leBytes 8 1
def memPrec : State := put (put (put memBase 0x100 precisionBytes) 0x300 [1]) 8 [0x38]
def gPrec : Group := { g0 with regs := { v := [(1153, 8)], m := [(0, 2)], s := [(0, 0x100)] } }
def lodF : F3 := { ty := 4, d := 12, a := 0x400, b := 9 }

theorem witness_pinAndLevelResults :
  NoLatch one4 ∧ bitsOf ((gOne 8 0).pred one4.pm.toNat) = [1] ∧ (gOne 8 0).gaddr one4 true 1 = 8 ∧ fit (gOne 8 0) [.pin one4, .unpin one4, .cflush { one4 with d := 0 }] = true
  ∧ (∀ n, ((memOf (gOne 8 0)).access n (ctxKey 31 0) 8 .read).1 = .dev 0x104008 false)
  ∧ (memOf (gOne 8 0) (lines := [(lineOf 0x104000, { pins := [ctxKey 31 0] })])).line? 0x104008 = some { pins := [ctxKey 31 0] }
  ∧ (memOf (gOne 8 0)).line? 0x104008 = some {} ∧ ({ memOf (gOne 8 0) with heldLines := [(lineOf 0x104000, 3)], awls := [(3, { run := some { ev := { id := 9, code := 4, ctx := 0, window := 0, va := 8 }, image := [], owed := false } })] } : State).holders 0x104008 = [9] ∧ ((memOf (gOne 8 0)).ctx (ctxKey 31 0)).pinquota.toNat < (memOf (gOne 8 0)).pinnedBy (ctxKey 31 0) + 1 :=
  ⟨by unfold NoLatch; decide, by decide, by decide, by decide, fun n => access_memOf _ _ _ _ 8 (by decide) (by decide) _ n, by decide, by decide, by decide⟩

theorem witness_levelReads :
  NoLatch lodF ∧ bitsOf (gPrec.pred 0) = [1] ∧ (inPage memPrec gPrec).env.isSome = true ∧ fit gPrec [.lodq lodF, .ldlod { lodF with ty := 5 }] = true
  ∧ (match (Env.plainRd (enMem gPrec) (inPage memPrec gPrec)).desc (gPrec.regs.sget64 0) with
    | (x, .ok (some d)) => d.precision && decide ((gPrec.src 0 9 1).toNat < 65536 * d.pages 0) && d.ring = 0
      && (match x.choose d 0 (precisionFoot 8) with | (y, .ok _) => ((inPage memPrec gPrec).touchBoth ((enMem gPrec).requester 0 0) y.seen []).2 = [] && kget y.s.groups 0 = some gPrec | _ => false)
      && (match x.precision d 8 fmtF32 with | (y, .ok _) => ((inPage memPrec gPrec).touchBoth ((enMem gPrec).requester 0 0) y.seen []).2 = [] && kget y.s.groups 0 = some gPrec | _ => false)
    | _ => false) = true := ⟨by unfold NoLatch; decide, by decide, by decide, by decide, by decide +kernel⟩

/-! ### Launches, work graphs and the scheduler -/

/-- R113: a launch record of `nx` blocks of one thread. -/
def recBytes (nx team : Nat) : List Byte :=
  leBytes 8 0 ++ leBytes 4 nx ++ leBytes 4 1 ++ leBytes 4 1 ++ leBytes 2 1 ++ leBytes 1 team ++ [0] ++ leBytes 4 256 ++ leBytes 2 8 ++ leBytes 2 64 ++ [0, 4, 0, 0] ++ List.replicate 92 0
/-- PF0's partition with its first core, and records in the page: of one block, of none, and a bad one. -/
def memRec (coreset : BitVec 96) : State :=
  let s := put (put (put memBase 0x200 (recBytes 1 1)) 0x280 (recBytes 0 1)) 0x300 (recBytes 1 0)
  { s with parts := kset s.parts 31 { s.part 31 with coreset := coreset } }
def gLaunch (a : Word) : Group := { g0 with regs := { g0.regs with s := [(0, a), (2, 31), (3, 32)] } }
def gHeld (k : LaunchKind) : Group := { gLaunch 0x200 with held := some (LaunchRec.parse (recBytes 1 1), k) }
def lauF : F3 := { x := 1, d := 0x40A, a := 0x400 }
def karF (b : BitVec 11) : F3 := { x := 1, d := 0x40A, a := 0x400, b := b }
def verdict (v : State × Verdict) : Nat := match v.2 with | .accept .. => 0 | .refuse c => c | .stop (.bad c _) => 256 + c | .stop _ => 512
/-- A block whose counters have the values listed. -/
def bK (l : List (Nat × BitVec 16)) : Block := { placedBlock with k := l.foldl (fun k e => k.set e.1 e.2) (List.replicate 32 0) }
def armedOf (r : LaunchRec) (due : Bool := false) : Armed := { k := 2, due := due, done := 3, recAddr := 0x200, recd := r, kind := .plain, stamp := 0, depth := 1 }
def gNodes : GraphSt := { recsz := 16, pooln := 4, poolbase := 0x400, nodes := [{ recd := LaunchRec.parse (recBytes 1 1), batch := 2, timeout := 5 }, { recd := LaunchRec.parse (recBytes 1 1), batch := 1, timeout := 5 }],
                          free := [2, 3], taken := [(0, 2), (1, 2)] }
def full (s : State) : State := { s with launches := s.launches ++ (List.range (1 + Config.launchQueueMore)).map fun i => (i + 5, { placedLaunch with next := 0 }) }

theorem full_full (s : State) (h : s.queued 0 31 = []) : (full s).queueFull 0 31 = true := by
  simp only [State.queueFull, State.queued, full, List.filter_append] at h ⊢
  rw [h]
  have : ((List.range (1 + Config.launchQueueMore)).map fun i => (i + 5, { placedLaunch with next := 0 })).filter
      (fun e => e.2.home = 0 && partOfCtx e.2.ctx = 31 && e.2.blocksLeft) = (List.range (1 + Config.launchQueueMore)).map fun i => (i + 5, { placedLaunch with next := 0 }) := by
    refine List.filter_eq_self.mpr fun e he => ?_
    obtain ⟨i, -, rfl⟩ := List.mem_map.mp he
    exact (by decide : (decide (placedLaunch.home = 0) && decide (partOfCtx placedLaunch.ctx = 31) && ({ placedLaunch with next := 0 } : Launch).blocksLeft) = true)
  rw [this]
  simp

theorem empty_room (s : State) (h : s.queued 0 31 = []) : s.queueFull 0 31 = false := by
  simp [State.queueFull, h]

/-- What holding a block with nothing resident looks at. -/
def roomOf (s : State) : KMap Part × KMap Core × Plat × List (Nat × Nat) := (s.parts, s.cores, s.plat, s.retiredRows)
theorem couldHold_congr {s t : State} (h : roomOf s = roomOf t) (p : Nat) (sh : Shape) : s.couldHold p sh = t.couldHold p sh := by
  simp only [roomOf, Prod.mk.injEq] at h
  unfold State.couldHold State.candidates State.emptyFree State.usable State.ncores State.part State.core
  rw [h.1, h.2.1, h.2.2.1, h.2.2.2]

theorem witness_launchRecordChecks :
  (∃ l, ((memRec 1).readVirt (ctxKey 31 0) (some 0) 0x200 128).2 = .bytes l ∧ recordOk false false l = true ∧ (LaunchRec.parse l).graphics = false ∧ (LaunchRec.parse l).travel = false
    ∧ (LaunchRec.parse l).graph = false ∧ (LaunchRec.parse l).total = 1)
  ∧ (∃ l, ((memRec 1).readVirt (ctxKey 31 0) (some 0) 0x280 128).2 = .bytes l ∧ recordOk false false l = true ∧ (LaunchRec.parse l).total = 0)
  ∧ (∃ l, ((memRec 1).readVirt (ctxKey 31 0) (some 0) 0x300 128).2 = .bytes l ∧ recordOk false false l = false)
  ∧ ((memRec 1).readVirt (ctxKey 31 0) (some 0) 0x200 128).1.couldHold 31 (LaunchRec.parse (recBytes 1 1)).shape = true
  ∧ ((memRec 0).readVirt (ctxKey 31 0) (some 0) 0x200 128).1.couldHold 31 (LaunchRec.parse (recBytes 1 1)).shape = false ∧ (10 < 11 ∧ 10 ≤ 10) ∧ (0x204#64).toNat % 64 ≠ 0 :=
  ⟨⟨recBytes 1 1, by decide +kernel, by decide, by decide, by decide, by decide, by decide⟩, ⟨recBytes 0 1, by decide +kernel, by decide, by decide⟩,
    ⟨recBytes 1 0, by decide +kernel, by decide⟩,
    (couldHold_congr (by decide +kernel) 31 _).trans (by decide +kernel : (memRec 1).couldHold 31 _ = true),
    (couldHold_congr (by decide +kernel) 31 _).trans (by decide +kernel : (memRec 0).couldHold 31 _ = false),
    by decide, by decide⟩

theorem witness_launchResults :
  fit (gLaunch 0x200) [.launch lauF, .karm (karF 0x402), .karm (karF 0x403), .karm (karF 0x202), .karm (karF 0x201)] = true ∧ (inPage (memRec 1) (gLaunch 0x200)).env.isSome = true
  ∧ (inPage (memRec 1) (gLaunch 0x200)).writesPending 3 = false ∧ (gLaunch 0x200).regs.sget64 (regOf 0x400) = 0x200 ∧ (gLaunch 0x200).doubleTrap = false
  ∧ verdict ((inPage (memRec 1) (gHeld .plain)).groupLaunch (enMem (gHeld .plain)) 0x200) = 0 ∧ verdict ((inPage (memRec 1) (gLaunch 0x280)).groupLaunch (enMem (gLaunch 0x280)) 0x280) = 0
  ∧ verdict ((inPage (memRec 1) (gLaunch 0x300)).groupLaunch (enMem (gLaunch 0x300)) 0x300) = 2
  ∧ verdict ((inPage (memRec 1) (gLaunch 0)).groupLaunch (enMem (gLaunch 0)) 0x8000000000000000) = 261
  ∧ (bK [(1, 0xFFFF)]).kval 1 = 0xFFFF ∧ (bK [(1, 0xFFFE)]).kval 1 ≠ 0xFFFF ∧ (inPage (memRec 1) (gLaunch 0x200)).queueFull 0 31 = false
  ∧ (full (inPage (memRec 1) (gLaunch 0x200))).queueFull 0 31 = true ∧ (full (inPage (memRec 1) (gLaunch 0x200))).env.isSome = true
  ∧ (inPage (memRec 0) (gLaunch 0x200)).reserveKind 31 0 (.graph gNodes) = none ∧ ((gLaunch 0x200).s32 0x402).toNat = 31 ∧ ((gLaunch 0x200).s32 0x403).toNat = 32
  ∧ (List.replicate 8 (armedOf {})).length = 8 ∧ (bK []).k.length = 32 ∧ (bK [(1, 1)]).kval 1 ≠ 0 ∧ (bK []).kval 1 = 0
  ∧ (∀ x ∈ (inPage (memRec 1) (gLaunch 0x280)).blocks, x.2.launch ≠ (inPage (memRec 1) (gLaunch 0x280)).nextId)
  ∧ (∀ x ∈ (inPage (memRec 1) (gLaunch 0x280)).launches, x.2.parentLaunch ≠ some (inPage (memRec 1) (gLaunch 0x280)).nextId) ∧ (inPage (memRec 1) (gLaunch 0x280)).pendingWrites = [] := by
  have room : (inPage (memRec 1) (gLaunch 0x200)).queueFull 0 31 = false := empty_room _ (by decide)
  have none : (full (inPage (memRec 1) (gLaunch 0x200))).queueFull 0 31 = true := full_full _ (by decide)
  and_intros <;> first | with_reducible exact room | with_reducible exact none | decide +kernel

def lGraph (g : GraphSt) : Launch := { placedLaunch with kind := .graph g }
def bNode : Block := { placedBlock with node := some { node := 0, recs := [0, 1], returned := [1] } }
/-- Thread 1 alone with the address of record 1 in the pair v4, and an index in v8. -/
def gRec (a i : Word) : Group := { g0 with regs := { v := [(513, a), (1025, i)], m := [(0, 2)] } }
def stG (g : Group) (b : Block) (gr : GraphSt) : State := { stOf g b (lGraph gr) with parts := kset tiny.parts 31 { en := true, coreset := 3 } }

theorem witness_workGraphResults :
  (stG (gRec 0x410 1) bNode gNodes).env = some (enOf (gRec 0x410 1) bNode (lGraph gNodes)) ∧ (lGraph gNodes).kind = .graph gNodes
  ∧ fit (gRec 0x410 1) [.emit { d := 12 }, .emitc { x := 1, a := 4 }, .emitc { x := 2, a := 4 }, .recget { d := 12, a := 8 }, .recdone { a := 8 }] = true
  ∧ bitsOf ((gRec 0x410 1).pred 0) = [1] ∧ gNodes.pooln = 4 ∧ gNodes.free.length = 2 ∧ (bitsOf (g0.pred 0)).length = 3 ∧ ({ gNodes with pooln := 2 } : GraphSt).pooln < 3
  ∧ bitsOf (g0.pred 2) = [] ∧ gNodes.waiting = [] ∧ ({ gNodes with free := [1, 2, 3] } : GraphSt).free.length = 3
  ∧ (stG (gRec 0x410 1) bNode gNodes).writesPending 3 = false ∧ gNodes.nodes[1]? = some { recd := LaunchRec.parse (recBytes 1 1), batch := 1, timeout := 5 }
  ∧ bNode.mayCommit 1 = true ∧ bNode.mayCommit 0 = false ∧ placedBlock.mayCommit 0 = true ∧ gNodes.nodes.length ≤ 2 ∧ gNodes.takenAt 0x410 = some 1
  ∧ NoLatch { a := 8 } ∧ [0, 1][1]? = some 1 ∧ 0 ∉ [1] ∧ 1 ∈ [1] ∧ [0, 1][2]? = none := by
  have latch : NoLatch { a := 8 } := by unfold NoLatch; decide
  and_intros <;> first | exact latch.1 | exact latch.2.1 | exact latch.2.2 | decide | rfl

def gOpen (age : Nat) : GraphSt := { gNodes with opened := [(0, { recs := [1], age := age })], ready0 := [{ stamp := 0, node := 1, recs := [0] }] }

/-- A launch that has a block to place. -/
def lPlace : Launch := { placedLaunch with next := 0, recd := { placedLaunch.recd with threads := 128 } }
def stPlace (cs : BitVec 96) (l : Launch := lPlace) : State :=
  { tiny with launches := [(1, l)], parts := kset tiny.parts 31 { en := true, coreset := cs }, nextId := 4 }
theorem witness_batchEventResults :
  kget (stG g0 bNode (gOpen 5)).launches 1 = some (lGraph (gOpen 5)) ∧ kget (gOpen 5).opened (16 * 0 + 0) = some { recs := [1], age := 5 }
  ∧ (4 < 5 ∧ 5 ≤ 5) ∧ (stG g0 bNode (gOpen 5)).readyQueue 0 = [(1, { stamp := 0, node := 1, recs := [0] })] ∧ (stG g0 bNode gNodes).readyQueue 0 = []
  ∧ (∀ x ∈ (stG g0 bNode (gOpen 5)).readyQueue 0, ((stG g0 bNode (gOpen 5)).part (partOfCtx ((kget (stG g0 bNode (gOpen 5)).launches x.1).map (·.ctx) |>.getD 0))).temporal = false)
  ∧ ((stG g0 bNode (gOpen 5)).requesting 0 0 (lGraph (gOpen 5)) { recd := LaunchRec.parse (recBytes 1 1), batch := 1, timeout := 5 }).length = 2
  ∧ ((stPlace 0).requesting 0 0 lPlace { recd := LaunchRec.parse (recBytes 1 1), batch := 1, timeout := 5 }) = [] := by
  and_intros <;> first | decide +kernel | rfl

def bDue : Block := { placedBlock with armed := [armedOf { nx := 1, ny := 1, nz := 1 } true] }

theorem witness_placementResults :
  kget (stPlace 3).launches 1 = some lPlace ∧ lPlace.kind = .plain ∧ ((stPlace 3).part (partOfCtx lPlace.ctx)).temporal = false
  ∧ (stPlace 3).headLaunch 0 31 = some (1, lPlace) ∧ lPlace.recd.team = 1 ∧ lPlace.recd.nroles = 0 ∧ (1 ≤ lPlace.recd.threads ∧ lPlace.recd.threads ≤ 128)
  ∧ ((stPlace 3).placeTeam lPlace.ctx 1 lPlace.recd.shape ((stPlace 3).candidates 31) (((stPlace 3).part 31).pointer 0)).isSome = true
  ∧ (stPlace 0).placeTeam lPlace.ctx lPlace.recd.team lPlace.recd.shape ((stPlace 0).candidates 31) (((stPlace 0).part 31).pointer 0) = none
  ∧ (stOf g0).headLaunch 0 31 = none ∧ kget (stOf g0 bDue).blocks 2 = some bDue ∧ bDue.launch = 1
  ∧ (bDue.armed.find? fun a => a.due && a.k = 2) = some (armedOf { nx := 1, ny := 1, nz := 1 } true) := by
  and_intros <;> first | decide +kernel | rfl

/-- A block with no group left, and one whose last group waits for it. -/
def gLast : Group := { g0 with wait := 10, waitFor := .children }
def stEnd (groups : KMap Group) (b : Block) (l : Launch) (c : Core := {}) : State := { stOf g0 b l with groups := groups, cores := kset tiny.cores 0 c }

theorem witness_retirementResults :
  kget (stEnd [] placedBlock placedLaunch).blocks 2 = some placedBlock ∧ kget (stEnd [] placedBlock placedLaunch).launches placedBlock.launch = some placedLaunch
  ∧ placedLaunch.kind = .plain ∧ placedBlock.prog = .compute
  ∧ (stEnd [] placedBlock placedLaunch).mayRetire 2 placedBlock = true ∧ (stEnd [(0, gLast)] placedBlock placedLaunch).mayRetire 2 placedBlock = true
  ∧ (stEnd [(0, g0)] placedBlock placedLaunch).mayRetire 2 placedBlock = false ∧ placedLaunch.recd.total ≤ placedLaunch.next ∧ lPlace.next < lPlace.recd.total
  ∧ (∀ x ∈ (stEnd [] placedBlock placedLaunch).blocks, x.1 ≠ 2 → x.2.launch ≠ placedBlock.launch)
  ∧ (∀ x ∈ (stEnd [] placedBlock placedLaunch).launches, x.2.parentLaunch ≠ some placedBlock.launch)
  ∧ (stEnd [] placedBlock placedLaunch).pendingWrites = [] ∧ ((stEnd [] placedBlock placedLaunch { holder := some 31, deficit := [(31, 1)] }).core 0).holder = some 31 ∧ placedBlock.resident = true
  ∧ 0 < ((stEnd [] placedBlock placedLaunch { holder := some 31, deficit := [(31, 1)] }).core 0).getDeficit 31
  ∧ ((stEnd [] placedBlock placedLaunch { holder := some 31, deficit := [(31, 0)] }).core 0).getDeficit 31 ≤ 0 := by
  and_intros <;> first | decide | rfl

/-! ### Copies -/

/-- R443: a record at s16 of 64 bytes at 0x400, marked as checked. -/
def recRegs (flags ty : Word) (ext0 ext1 stride1 : Word) (status : Word := 0x80000000) : Sparse 32 :=
  ssets [] [(16, 0x400), (18, ty), (19, if ext1 = 0 then 1 else 2), (20, ext0), (21, ext1), (25, 1), (27, stride1), (35, flags), (36, status), (40, 0), (41, 8), (42, 992), (43, 960)]
def gCopy (s : Sparse 32) : Group := { g0 with regs := { m := [(0, 1)], s := s } }
def sPlain := recRegs 0 4 64 0 0
def sColumn := recRegs 2 4 2 32 16
def sBook := recRegs 4 5 64 0 0
def cpF (b : BitVec 11) : F3 := { x := 1, a := 0x410, b := b }
def layR (s : Sparse 32) : Layout := (gCopy s).regs.layout 16

theorem witness_layoutRecordResults :
  fit (gCopy sPlain) [.laymake { x := 1, a := 0x410 }, .laychk { d := 0x402, a := 0x410 }] = true ∧ (layR sPlain).cause = 0 ∧ (layR sPlain).column = false
  ∧ (layR (recRegs 0 15 64 0 0)).cause = 2 ∧ canonical (layR sPlain).base = true ∧ (layR sPlain).base.toNat % 64 = 0 ∧ (layR (recRegs 0 15 64 0 0)).format = 15
  ∧ 16 ≤ (layR (recRegs 0 16 64 0 0)).format.toNat ∧ canonical ({ base := 0x800000000000 } : Layout).base = false ∧ (layR (sset sPlain 19 6)).ndim.toNat = 6 ∧ (layR (sset sPlain 19 0)).ndim = 0
  ∧ (layR (recRegs 0 4 0 0 0)).extent 0 = 0 ∧ (layR (recRegs 0 4 0 0 0)).ndim.toNat = 1 ∧ (layR sPlain).count = 64 ∧ (layR sColumn).count = 64 ∧ (layR sColumn).cause = 0 := by
  and_intros <;> decide

/-- A core whose queue is full, for a block with its own entry used. -/
def coreFull : Core := { copyq := List.replicate 63 { cStop with reserved := false } ++ [cStop] }
def coreBook : Core := { codebook := some { kset := 0, ty := 9, nent := 1, vlen := 1, bytes := List.replicate 16 0 } }
def stCopy (s : Sparse 32) (c : Core := {}) : State := { stOf (gCopy s) with cores := [(0, c), (1, {})] }
def okAt (fn : Nat) (f : F3) (s : Sparse 32) : Bool :=
  let c := (enOf (gCopy s)).copyOf fn f (layR s)
  c.off % (if f.x.getLsbD 5 then 16 else 32) = 0 && copyEnd c 1 (copyNibbles c 1) ≤ (if f.x.getLsbD 5 then 131072 else (enOf (gCopy s)).ownSpm.2)

theorem witness_copyIssueResults :
  (stCopy sPlain).env = some (enOf (gCopy sPlain)) ∧ (layR sPlain).lod = false ∧ placedBlock.matrix = true
  ∧ fit (gCopy sPlain) [.cpyin (cpF 0x428), .cpyin { cpF 0x428 with x := 0x21 }, .cpyout (cpF 0x428), .cpymc { cpF 0x428 with d := 0x428 }, .cpycb { cpF 0x428 with ty := 9 }] = true
  ∧ recordFits 0 0 false (layR sPlain) = true ∧ recordFits 1 0 false (layR sPlain) = true ∧ recordFits 2 0 false (layR sPlain) = true ∧ recordFits 3 9 false (layR sBook) = true
  ∧ recordFits 0 0 true (layR sColumn) = true ∧ recordFits 0 0 false (layR sColumn) = false ∧ recordFits 0 0 false (layR (recRegs 0 4 64 0 0 0)) = false
  ∧ multicastPart (layR sPlain) 1 0 ≠ none ∧ ((stCopy sBook coreBook).core 0).codebook.map (fun b => (b.kset, b.ty)) = some (placedBlock.kset, 9)
  ∧ okAt 0 (cpF 0x428) sPlain = true ∧ okAt 0 (cpF 0x42B) sPlain = true ∧ okAt 0 (cpF 0x429) sPlain = false ∧ okAt 0 (cpF 0x42A) sPlain = false ∧ okAt 0 { cpF 0x428 with x := 0x21 } sColumn = true
  ∧ okAt 1 (cpF 0x428) sPlain = true ∧ okAt 2 { cpF 0x428 with d := 0x428 } sPlain = true ∧ okAt 3 { cpF 0x428 with ty := 9 } sBook = true
  ∧ (stCopy sPlain coreFull).copyEntry 0 2 = none ∧ (stCopy sPlain).copyEntry 0 2 = some false ∧ placedBlock.kval 1 ≠ 0xFFFF := by
  and_intros <;> first | decide | rfl

theorem witness_codebookLoad :
  fit (gCopy (sset sPlain 18 1)) [.cbload { ty := 9, x := 1, a := 0x410, b := 0x412 }] = true ∧ ((gCopy sPlain).regs.sget64 16).toNat % 16 = 0 ∧ cbloadOk 9 1 = true ∧ cbloadOk 9 256 = true ∧ cbloadOk 9 257 = false
  ∧ cbloadOk 9 0x30100 = true ∧ cbloadOk 9 0x40100 = false ∧ (stCopy sPlain).copyEntry 0 2 = some false ∧ placedBlock.kval 1 ≠ 0xFFFF := by decide

/-- Copies at the head of a queue: of a codebook, of a record to the scratchpad, and of a record beyond the addresses. -/
def cLoad : Copy := { cStop with fn := 4, ty := 9, k := 1, nent := 1, recd := { base := 0x400 } }
def cIn : Copy := { cStop with k := 1, recd := layR (sset (recRegs 0 14 4 0 0) 25 8), start := [0, 0, 0, 0, 0], reserved := false }
def cBad : Copy := { cIn with recd := { layR sPlain with base := 0x800000000000 } }
def memCopy (c : Copy) : State := { memOf g0 with cores := [(0, { copyq := [c] }), (1, {})] }
def rqCopy : Requester := copyRequester 0 (ctxKey 31 0)

theorem witness_copyEndResults :
  ((memCopy cLoad).core 0).copyq[0]? = some cLoad ∧ kget (memCopy cLoad).blocks cLoad.bid = some placedBlock ∧ kget (memCopy cLoad).launches placedBlock.launch = some placedLaunch
  ∧ (memCopy cLoad).copyMayRun 0 0 cLoad = true ∧ (memCopy cIn).copyMayRun 0 0 cIn = true ∧ (memCopy cBad).copyMayRun 0 0 cBad = true
  ∧ (memCopy { cIn with parked := true }).copyMayRun 0 0 { cIn with parked := true } = false
  ∧ (match (Rd.new (memCopy cLoad) 0 (ctxKey 31 0) cLoad.unfenced).read 0x400 16 with | (x, .ok _) => ((memCopy cLoad).touchBoth rqCopy x.seen []).2 = [] | _ => false) = true
  ∧ (memCopy cLoad).writesPending 0 = false ∧ 1 < placedBlock.k.length
  ∧ (match (memCopy cIn).runCopy 0 (ctxKey 31 0) 1 0 false cIn with
    | .done a none => ((memCopy cIn).touchBoth rqCopy a.x.seen a.wrote).2 = []
    | _ => false) = true
  ∧ (match (memCopy cBad).runCopy 0 (ctxKey 31 0) 1 0 false cBad with
    | .broken a none _ (.stop _ none) _ => a.x.seen = [] && a.wrote = [] && a.x.s.groups.any (fun x => x.2.block = 2 && x.2.waitFor ≠ .children) && kget a.x.s.blocks 2 = some placedBlock
    | _ => false) = true := by
  and_intros <;> first | decide +kernel | rfl

/-! ### Matrix operations -/

/-- A group with the operands of the matrix instructions, of a block with a tile configuration of two rows and two columns. -/
def gMat (s : Sparse 32 := [(0, 2), (1, 2), (2, 16), (16, 0), (17, 0x1000000), (18, 0), (19, 255)]) (fmt : Word := 0x888) : Group :=
  { g0 with regs := { m := [(0, 1)], v := [(512, 5)], s := s }, fmt := fmt }
def bMat (n : Nat := 0) (tc : Word := 2048 + 65) : Block := { placedBlock with matrix := true, tcfg := tc, astride := 16, batch := n }
def stMat (g : Group := gMat) (b : Block := bMat) (p : List MatOp := []) : State := { stOf g b with cores := [(0, { pipe := p }), (1, {})] }
def eMat (g : Group := gMat) (b : Block := bMat) : Env := enOf g b
def fMat (a b d : BitVec 11) : F3 := { x := 1, a := a, b := b, d := d }
def mmaO (g : Group := gMat) (b : Block := bMat) : MatOp :=
  { (eMat g b).matOp 1 (fMat 0x410 0x411 0x412) with a := g.s32 0x410, b := g.s32 0x411, d := g.s32 0x412 }
/-- An operation of the pipeline. -/
def mOp (fn : Nat) (batch : Nat := 0) : MatOp := { mmaO with fn := fn, d := 3, ty := 8, batch := batch }

theorem witness_matrixIssueResults :
  (stMat).env = some eMat ∧ fit gMat [.tcfg { a := 0x400 }, .mma (fMat 0x410 0x411 0x412), .mmaz (fMat 0x410 0x411 0x412), .mclr (fMat 0 0 0), .mld (fMat 0x410 0 0),
    .mst { fMat 0x410 0 0 with ty := 8 }, .mstv (fMat 0 0x410 8), .mfence {}, .mbatch { d := 0x402 }, .mwait { a := 0x413 }] = true
  ∧ { bMat with matrix := false }.matrix = false ∧ (bMat).matrix = true ∧ (bMat).tcfg.getLsbD 11 = true ∧ (bMat 0 65).tcfg.getLsbD 11 = false
  ∧ (stMat gMat bMat (List.replicate 32 (mOp 1))).env = some eMat ∧ 32 ≤ (List.replicate 32 (mOp 1)).length ∧ (List.replicate 31 (mOp 1)).length < 32
  ∧ mmaBad eMat mmaO = none ∧ (mmaBad eMat { mmaO with a := 4 }).isSome = true ∧ (mmaBad eMat { mmaO with a := 0x40000 }).isSome = true
  ∧ mmaBad eMat { mmaO with b := 131008 } = none ∧ (mmaBad eMat { mmaO with b := 131056 + 2 ^ 24 }).isSome = true ∧ FmtScale mmaO.fmt = 0
  ∧ (mstConvert 8 8 0).isNone = false ∧ (mstConvert 8 14 0).isNone = true ∧ ((60#32).toNat % 4 = 0 ∧ (60#32).toNat ≤ 60) ∧ (64#32).toNat % 4 = 0 ∧ 60 < (64#32).toNat := by
  and_intros <;> first | decide | rfl

theorem witness_matrixSetupResults :
  (stMat).batchDone 0 2 0 = true ∧ (let v := fun i => (gMat).regs.sget (regOf 0x400 + i); 1 ≤ (v 0).toNat ∧ (v 0).toNat ≤ 64 ∧ 1 ≤ (v 1).toNat ∧ (v 1).toNat ≤ 32
    ∧ (v 2).toNat % 16 = 0 ∧ 16 ≤ (v 2).toNat ∧ (v 2).toNat ≤ 262144 ∧ (v 3).toNat ≤ 131071)
  ∧ (gMat [(0, 64), (1, 32), (2, 262144), (3, 131071)]).regs.sget (regOf 0x400 + 3) = 131071 ∧ (gMat [(0, 65)]).regs.sget (regOf 0x400) = 65 ∧ (bMat 127).batch < 128
  ∧ (stMat gMat (bMat 128)).batchDone 0 2 (128 - 128) = true ∧ (stMat gMat (bMat 1) [mOp 1 0]).batchDone 0 2 0 = false ∧ (stMat gMat (bMat 1) [mOp 1 1]).batchDone 0 2 0 = true
  ∧ ((gMat).s32 0x413).toNat = 255 ∧ ((gMat [(19, 256)]).s32 0x413).toNat = 256 ∧ batchNamed 0 255 = none ∧ batchNamed 256 255 = some 255 ∧ batchNamed 1 0 = some 0 ∧ batchNamed 129 0 = none := by
  decide

theorem witness_matrixFinishResults :
  ((stMat gMat bMat [mOp 1]).core 0).pipe = mOp 1 :: [] ∧ (mOp 1).unfenced = [] ∧ (mOp 1).m ≤ 64 ∧ (mOp 1).n ≤ 32 ∧ FmtAcc (mOp 1).fmt = 8 ∧ FmtScale (mOp 1).fmt = 0
  ∧ FmtAcc { mOp 1 with fmt := 0 }.fmt = 0 ∧ (mOp 5).ty = FmtAcc (mOp 5).fmt ∧ (mOp 5).md = 0 ∧ 4 * (mOp 5).n ≤ (mOp 5).astride ∧ (kget (stMat).blocks (mOp 5).bid).isSome = true
  ∧ kget (stMat).groups (mOp 6).gid = some gMat ∧ (gMat).uid = (mOp 6).groupUid := by
  decide

/-! ### Textures -/

/-- A surface of two rows of two pixels at address 0 with a brand, its descriptor at 0x200. -/
def surfBytes (brand : Nat) : List Byte :=
  leBytes 8 0 ++ leBytes 2 2 ++ leBytes 2 2 ++ leBytes 4 256 ++ [0, 0, 1, 0] ++ leBytes 2 brand ++ List.replicate 42 0
def memTex (brand : Nat) (strict : Bool := false) : State :=
  put (put { memBase with lines := [(lineOf 0x104000, {})], ctxs := kset memBase.ctxs (ctxKey 31 0) { memBase.ctx (ctxKey 31 0) with strict := strict } } 0x200 (surfBytes brand)) 0 [255, 0, 0, 255, 0, 255, 0, 255]
/-- Thread 1 alone with coordinates in v4 and v5, a pixel in v12 to v15, and the descriptor's address in s0. -/
def gTex (u v : Word) : Group := { g0 with regs := { v := [(513, u), (641, v), (1537, 0x3F800000)], m := [(0, 2)], s := [(0, 0x200)] } }
def fTex : F3 := { d := 12, a := 4, b := 0x400 }

theorem witness_textureReads :
  fit (gTex 1 0) [.sample fTex, .samplel fTex, .sampleg fTex, .tfetch fTex, .imgld fTex, .gather4 fTex, .qlod fTex, .imgst fTex] = true
  ∧ bitsOf ((gTex 1 0).pred 0) = [1] ∧ (inPage (memTex 0) (gTex 1 0)).env.isSome = true := by decide

/-- Whether a state's group and lines are as the reads of a witness need them. -/
def quiet (s : State) (x : Rd) : Bool := (s.touchBoth ((enMem (gTex 0 0)).requester 0 0) x.seen []).2 = [] && x.s.groups = s.groups
def texOf (s : State) (g : Group) : Option (Rd × Tex) :=
  match ((enMem g).texRd s).tex (enMem g) (g.regs.sget64 (regOf 0x400)) with | (x, .ok (.ok t)) => some (x, t) | _ => none

theorem witness_textureSurface :
  (texOf (inPage (memTex 0) (gTex 1 0)) (gTex 1 0)).map (fun r => (r.2.lod.isNone, r.2.surf, quiet (inPage (memTex 0) (gTex 1 0)) r.1)) = some (true, Surf.parse (surfBytes 0), true) := by
  decide +kernel

theorem witness_textureTexels :
  (match texOf (inPage (memTex 0) (gTex 1 0)) (gTex 1 0) with
    | some (x, t) => match ({ x with s := x.s.skip 16 } : Rd).texelBytes t { lv := 0, x := 1, y := 0 } with
      | (y, .ok l) => l = [0, 255, 0, 255] && quiet (inPage (memTex 0) (gTex 1 0)) y && decide ((1#32).toInt < t.surf.levelW 0)
      | _ => false
    | none => false) = true := by decide +kernel

theorem witness_textureFootprint :
  (match texOf (inPage (memTex 0) (gTex 0 0)) (gTex 0 0) with
    | some (x, t) => match ({ x with s := x.s.skip 16 } : Rd).texels t (t.around x.s.freeCtr 0 true 0 0).1 with
      | (y, .ok l) => l.length = 4 && quiet (inPage (memTex 0) (gTex 0 0)) y
      | _ => false
    | none => false) = true := by decide +kernel

/-- The group that stores with its context, and the state after its descriptor was read. -/
def eTex (brand : Nat) (strict : Bool := false) : Env := { enMem (gTex 1 0) with ctx := (memTex brand strict).ctx (ctxKey 31 0) }
def rTex (brand : Nat) (strict : Bool := false) : Option (Rd × Tex) :=
  match ((eTex brand strict).texRd (inPage (memTex brand strict) (gTex 1 0))).surf ((gTex 1 0).regs.sget64 (regOf 0x400)) with
  | (x, .ok (some sf)) => some (x, { surf := sf, lod := none, brand := (eTex brand strict).ctx.brand, grants := [] }) | _ => none
def uTex (brand : Nat) (strict : Bool := false) : State :=
  match rTex brand strict with | some (x, _) => (x.s.touchBoth ((eTex brand strict).requester 0 0) x.seen []).1 | none => State.reset

/-- A machine with the translations that the descriptor's read left. -/
def heldTex (brand : Nat) (strict : Bool := false) : State := { memTex brand strict with tlb := (uTex brand strict).tlb }

/-- An entry of that machine's tables: what every cache of it agrees with. -/
theorem entry_heldTex {s : State} {id : EntryId} {pa : Nat} {e : DWord} (hm : word64 (s.readMem pa 8) = e)
    (ht : (s.tlb.all fun t => (t.at_ id).all fun x => x.1 = e) = true) (n : Nat) : s.entryAt n id pa = e := by
  rw [entryAt_held, hm]
  intro t h x hx
  have := List.all_eq_true.mp ht t h
  rw [hm]
  simpa [hx] using this

theorem walk_heldTex : ∀ s ∈ [heldTex 1, heldTex 9, heldTex 9 true], ∀ n,
    (s.walk1 n 31 (ctxKey 31 0) 4 levels4 placeBase).1 = .ok { pa := 0x104004, rd := true, wr := true, ex := true } := by
  intro s hs n
  have he : ∀ l oa, (l, oa) ∈ [(3, 0x101000), (2, 0x102000), (1, 0x103000)] → ∀ m,
      s.entryAt m { stage2 := false, owner := ctxKey 31 0, level := l, index := 0 } (oa - 0x1000) = BitVec.ofNat 64 (oa + 1) := by
    intro l oa hl
    simp only [List.mem_cons, List.not_mem_nil, or_false] at hs hl
    refine entry_heldTex ?_ ?_ <;> rcases hs with rfl | rfl | rfl <;> rcases hl with hl | hl | hl <;> cases hl <;> decide +kernel
  have h0 : ∀ j < 16, ∀ m, s.entryAt m { stage2 := false, owner := ctxKey 31 0, level := 0, index := j } (0x103000 + 8 * j) = if j = 0 then 0x38000000104003 else 0 := by
    have key : ∀ s ∈ [heldTex 1, heldTex 9, heldTex 9 true], ∀ j < 16, word64 (s.readMem (0x103000 + 8 * j) 8) = (if j = 0 then 0x38000000104003 else 0)
        ∧ (s.tlb.all fun t => (t.at_ { stage2 := false, owner := ctxKey 31 0, level := 0, index := j }).all fun x => x.1 = if j = 0 then 0x38000000104003 else 0) = true := by
      decide +kernel
    exact fun j hj => entry_heldTex (key s hs j hj).1 (key s hs j hj).2
  have hb : ∀ s ∈ [heldTex 1, heldTex 9, heldTex 9 true], ∀ p ∈ [0x100000, 0x101000, 0x102000, 0x103000, 0x104004], s.backed p = true ∧ s.mayRead 31 p = true := by decide +kernel
  have hb := hb s hs
  unfold levels4
  rw [walk1_table (oa := 0x101000) (by decide) (hb _ (by decide)).1 (hb _ (by decide)).2 (he 3 0x101000 (by decide)) (by decide),
    walk1_table (oa := 0x102000) (by decide) (hb _ (by decide)).1 (hb _ (by decide)).2 (he 2 0x102000 (by decide)) (by decide),
    walk1_table (oa := 0x103000) (by decide) (hb _ (by decide)).1 (hb _ (by decide)).2 (he 1 0x103000 (by decide)) (by decide)]
  refine walk1_leaf (e := 0x38000000104003) (hb _ (by decide)).1 (hb _ (by decide)).2 (h0 0 (by decide)) (fun m j hj => ?_) (by decide) (by decide) rfl (hb _ (by decide)).1
  have hm : (4 / 2 ^ 12 / 16 * 16 + j) = j := by simp
  have hj' : j % 512 = j := Nat.mod_eq_of_lt (by omega)
  have hz : (0x103000 + 8 * (4 / 2 ^ 12 % 512)) / 4096 * 4096 = 0x103000 := by decide
  simp only [hm, hj', hz]
  rw [h0 j hj m]
  split <;> decide

/-- The store's access in the state after the descriptor was read. -/
theorem access_uTex (b : Nat) (st : Bool) (h : (b, st) ∈ [(1, false), (9, false), (9, true)]) (n : Nat) :
    ((uTex b st).access n (ctxKey 31 0) 4 .write).1 = .dev 0x104004 false := by
  have hs : SameMap (uTex b st) (heldTex b st) := by
    simp only [List.mem_cons, Prod.mk.injEq, List.not_mem_nil, or_false] at h
    rcases h with ⟨rfl, rfl⟩ | ⟨rfl, rfl⟩ | ⟨rfl, rfl⟩ <;> constructor <;> decide +kernel
  rw [hs.access]
  have hk : ∀ p ∈ [(1, false), (9, false), (9, true)], ((heldTex p.1 p.2).tlb.all fun t => (t.covers (ctxKey 31 0) 4).all fun x =>
      x = { pa := 0x104004, rd := true, wr := true, ex := true }) = true := by decide +kernel
  have hw := walk_heldTex (heldTex b st) (by simp only [List.mem_cons, Prod.mk.injEq, List.not_mem_nil, or_false] at h ⊢; rcases h with ⟨rfl, rfl⟩ | ⟨rfl, rfl⟩ | ⟨rfl, rfl⟩ <;> simp) n
  have hr : ((heldTex b st).ctx (ctxKey 31 0)).s1root.toNat = placeBase ∧ (heldTex b st).mayWrite 31 0x104004 = true ∧ (heldTex b st).isPoisoned 0x104004 = false := by
    simp only [List.mem_cons, Prod.mk.injEq, List.not_mem_nil, or_false] at h
    rcases h with ⟨rfl, rfl⟩ | ⟨rfl, rfl⟩ | ⟨rfl, rfl⟩ <;> decide +kernel
  have h5 : partOfCtx (ctxKey 31 0) = 31 := by decide
  have hv : (4 : DWord).toNat % 2 ^ 48 = 4 := by decide
  have hc : canonical 4 = true := by decide
  rw [← hr.1] at hw
  have hw := translate_walk (s := heldTex b st) (fun t ht x hx => by simpa [hx] using List.all_eq_true.mp (hk (b, st) h) t ht) hw
  simp only [State.access, hc, Bool.not_true, Bool.false_eq_true, if_false, h5, hv]
  split
  · rename_i heq; rw [heq] at hw; cases hw
  · rename_i heq; rw [heq] at hw; cases hw
  · rename_i heq; rw [heq] at hw; cases hw
    simp [Leaf.allows, hr.2.1, hr.2.2]

theorem witness_imageStore : ∀ p ∈ [(1, false), (9, false), (9, true)], (inPage (memTex p.1 p.2) (gTex 1 0)).env = some (eTex p.1 p.2)
    ∧ (rTex p.1 p.2).any (fun r => (inPage (memTex p.1 p.2) (gTex 1 0)).touchBoth ((eTex p.1 p.2).requester 0 0) r.1.seen [] |>.2 |>.isEmpty) = true
    ∧ (rTex p.1 p.2).map (fun r => (r.2.surf, r.2.addr 0 1 0)) = some (Surf.parse (surfBytes p.1), 4) ∧ kget (uTex p.1 p.2).groups 0 = some (gTex 1 0)
    ∧ ((Surf.parse (surfBytes p.1)).brand = (eTex p.1 p.2).ctx.brand ↔ p.1 = 1) ∧ (eTex p.1 p.2).ctx.strict = p.2 ∧ (kget (uTex p.1 p.2).ctxs (ctxKey 31 0)).isSome = true
    ∧ ((uTex p.1 p.2).line? 0x104004).isSome = true ∧ kget (uTex p.1 p.2).heldLines (lineOf 0x104004) = none
    ∧ (uTex p.1 p.2).link.retraining = false ∧ (uTex p.1 p.2).mustWait 0x104004 = false := by
  intro p hp
  simp only [List.mem_cons, List.not_mem_nil, or_false] at hp
  rcases hp with rfl | rfl | rfl <;> (refine ⟨by simp [inPage, State.env, State.envOf, kget, eTex, enMem, placedBlock, placedLaunch, gTex, g0, placedGroup]; decide +kernel, by decide +kernel⟩)

/-! ### Graphics -/

def surf4 : Surf := Surf.parse (leBytes 8 0 ++ leBytes 2 64 ++ leBytes 2 32 ++ leBytes 4 256 ++ [4, 0, 0, 0] ++ List.replicate 44 0)
def drawOf (st : Word) (mesh : Bool := false) (count : Nat := 300) : Draw := { pstate := st, count := count, mesh := mesh, prog0 := 0x40, prog1 := 0x80, pixpc := 0xC0, arg := 0 }
/-- A graphics launch of one draw, of 64 by 32 pixels, with one target of 32 bits and depth. -/
def gGfx (st : Word := 0) : GfxSt :=
  { drawsAddr := 0, ndraws := 1, draws := [(0, drawOf st)], width := 64, height := 32, targets := [some surf4, none, none, none], depth := some surf4, hiz := 0, binarea := 0, binsz := 4096 }
def lGfx (g : GfxSt) : Launch := { placedLaunch with kind := .gfx g }
/-- A group of a pixel program: threads 0 and 1 have m1 set and pixels. -/
def gPix : Group := { g0 with regs := { g0.regs with m := [(0, 7), (1, 3)] }, gfx := { quads := [0], px := [(0, { x := 63, y := 31, depth := 5 }), (1, { x := 64, y := 31, depth := 5 })] } }
def bTile : Block := { placedBlock with prog := .tile, gfx := { tile := 1 } }

theorem witness_pixelInstructions :
  (stOf gPix bTile (lGfx (gGfx 0x300))).env = some (enOf gPix bTile (lGfx (gGfx 0x300))) ∧ fit gPix [.pixout { a := 4 }, .zout { a := 4 }, .discard {}, .pixld { d := 8 }, .pixld { x := 4, d := 8 }] = true
  ∧ (gPix.pred 0 &&& gPix.regs.mget 1) = 3 ∧ bTile.prog = .tile ∧ placedBlock.prog ≠ .tile ∧ ((gGfx).surf 0).isSome = true ∧ (gGfx).surf 3 = none ∧ ((gGfx).surf 4).isSome = true
  ∧ ((kget (gGfx 0x300).draws gPix.gfx.draw).map (·.pstate)).getD 0 = 0x300 ∧ (0x300#32).getLsbD 9 = true ∧ (0x300#32).getLsbD 8 = true ∧ (0xFF#32).getLsbD 9 = false
  ∧ (0xFF#32).getLsbD 8 = false ∧ ({ gPix with regs := { gPix.regs with m := [(0, 7)] } }.pred 0 &&& { gPix with regs := { gPix.regs with m := [(0, 7)] } }.regs.mget 1) = 0 ∧ gPix.doubleTrap = false
  ∧ (∀ i < 2, (gPix.pred 0).getLsbD i = true) ∧ (kget gPix.gfx.px 0).map (fun p => (decide (p.x < (gGfx).width), decide (p.y < (gGfx).height))) = some (true, true)
  ∧ (kget gPix.gfx.px 1).map (fun p => decide ((gGfx).width ≤ p.x)) = some true := by
  and_intros <;> first | decide | rfl

/-- Thread 1 alone with a vertex in v4 and a word in v5. -/
def gGeo (v w : Word) (a : Word := 16) (b : Word := 16) : Group :=
  { g0 with regs := { v := [(513, v), (641, w)], m := [(0, 2)], s := [(2, a), (3, b)] }, vregs := 16 }
def bProg (p : Prog) : Block := { placedBlock with prog := p }
def coreRing (slots : KMap Nat) : Core := { rings := [(1, { claim := { core := 0, groups := [(1, 0, 0)] }, slots := slots })] }

theorem witness_geometryOutputs :
  fit (gGeo 127 5) [.vtxout { a := 5, b := 4 }, .posout { a := 8, b := 4 }, .primout { a := 5, b := 4 }, .vtxout { a := 5, b := 0x200 }, .posout { a := 8, b := 0x200 }] = true
  ∧ (stOf (gGeo 127 5) (bProg .mesh)).env = some (enOf (gGeo 127 5) (bProg .mesh)) ∧ (stOf (gGeo 127 5) (bProg .attr)).env = some (enOf (gGeo 127 5) (bProg .attr))
  ∧ bitsOf ((gGeo 127 5).pred 0) = [1] ∧ (bProg .task).prog ∉ [Prog.attr, .mesh] ∧ (bProg .attr).prog ∉ [Prog.position, .mesh] ∧ (bProg .position).prog ∉ [Prog.mesh]
  ∧ ((gGeo 127 5).src 0 4 1).toNat = 127 ∧ ((gGeo 128 5).src 0 4 1).toNat = 128 ∧ ((gGeo 255 0xFFFFFF).src 0 4 1).toNat = 255 ∧ ((gGeo 255 0xFFFFFF).src 0 5 1).toNat < 2 ^ 24
  ∧ ((gGeo 256 5).src 0 4 1).toNat = 256 ∧ 2 ^ 24 ≤ ((gGeo 0 0x1000000).src 0 5 1).toNat ∧ (gGeo 128 5).doubleTrap = false := by
  and_intros <;> first | decide | rfl

def bTask : Block := { placedBlock with prog := .task, spmSize := 1024, spm := (List.range 1024).map fun i => (i, 7) }
def stTask (slots : KMap Nat) (b : Word := 16) : State := { stOf (gGeo 0 0 16 b) bTask (lGfx (gGfx)) with cores := [(0, coreRing slots), (1, {})] }
def bMesh : Block := { placedBlock with prog := .mesh, gfx := { chunk := 5, task := 1, call := 2 } }
def gMeshes : GfxSt := { gGfx with chunks := [{ num := 5, draw := 0, first := 0, count := 2, die := 0, groups := 2, placed := 2 }] }
def stMesh : State := { stOf (gGeo 0 0 128 256) bMesh (lGfx gMeshes) with groups := [(0, gGeo 0 0 128 256), (1, { g0 with uid := 4 })] }

theorem witness_taskAndMesh :
  (stTask []).env = some (enOf (gGeo 0 0) bTask (lGfx gGfx)) ∧ fit (gGeo 0 0) [.taskout { a := 0x402, b := 0x403 }, .meshend { a := 0x402, b := 0x403 }] = true
  ∧ bTask.prog = .task ∧ bMesh.prog ≠ .task ∧ bTask.prog ≠ .mesh ∧ taskoutOk 16 16 1024 = true ∧ taskoutOk 1008 0x1F0010 1024 = true ∧ taskoutOk 1008 32 1024 = false ∧ taskoutOk 0 16384 16384 = true
  ∧ taskoutOk 0 16400 20000 = false ∧ taskoutOk 0 0 1024 = false ∧ taskoutOk 0 0x8010 1024 = false ∧ (stTask []).freeRingSlot 0 1 = some 0 ∧ (stTask [(0, 9), (1, 9), (2, 9)]).freeRingSlot 0 1 = some 3
  ∧ (stTask [(0, 9), (1, 9), (2, 9), (3, 9)]).freeRingSlot 0 1 = none ∧ (gGeo 0 0).unfenced = [] ∧ stMesh.env = some (enOf (gGeo 0 0 128 256) bMesh (lGfx gMeshes))
  ∧ ((gGeo 0 0 128 256).s32 0x402).toNat = 128 ∧ ((gGeo 0 0 128 256).s32 0x403).toNat = 256 ∧ 128 < ((gGeo 0 0 129 256).s32 0x402).toNat
  ∧ (∃ x ∈ stMesh.groups, x.1 ≠ 0 ∧ x.2.block = 2) ∧ gMeshes.chunks.map (·.num) = [bMesh.gfx.chunk] ∧ bMesh.gfx.ended = [] := by
  and_intros <;> first | decide | rfl

def stGfx (g : GfxSt) (blocks : KMap Block := []) (c : Core := {}) : State :=
  { tiny with launches := [(1, lGfx g)], blocks := blocks, cores := [(0, c), (1, {})], parts := kset tiny.parts 31 { en := true, coreset := 3 }, nextId := 4 }
def primOf : Prim := { seq := 0, draw := 0, tri := 0, pos := [], attrs := [] }
def bQuads : Block := { bTile with gfx := { tile := 1, cur := some primOf, quads := [[(0, 15), (3, 1)]] } }
def slot0 : Block := { placedBlock with prog := .mesh, gfx := { meshes := 2, started := 1 } }

theorem witness_graphicsEvents :
  kget (stGfx gGfx).launches 1 = some (lGfx gGfx) ∧ (lGfx gGfx).kind = .gfx gGfx ∧ ((stGfx gGfx).part (partOfCtx (lGfx gGfx).ctx)).paused = false
  ∧ ((stGfx gGfx).part (partOfCtx (lGfx gGfx).ctx)).temporal = false ∧ (stGfx gGfx).gfxTurn 1 (lGfx gGfx) = true ∧ (gGfx).entries = [] ∧ (gGfx).chunks = [] ∧ (gGfx).draw < (gGfx).ndraws
  ∧ kget (gGfx).draws (gGfx).draw = some (drawOf 0) ∧ (gGfx).within + 256 < (drawOf 0).count ∧ (drawOf 0).count ≤ { gGfx with within := 256 }.within + 44
  ∧ { gGfx with draw := 1 }.ndraws ≤ { gGfx with draw := 1 }.draw ∧ { gGfx with inTiles := true }.tiles = [] ∧ { gGfx with inTiles := true }.last = false
  ∧ (∃ x ∈ (stGfx gGfx [(2, bTile)]).blocks, x.2.launch = 1 ∧ x.2.prog = .tile) ∧ (∀ x ∈ (stGfx gGfx []).blocks, ¬(x.2.launch = 1 ∧ x.2.prog = .tile)) := by
  and_intros <;> first | decide | rfl

/-- A tile pass of a launch without targets. -/
def gBare : GfxSt := { gGfx with targets := [none, none, none, none], depth := none, inTiles := true, tiles := [1] }

theorem witness_tileAndMeshGroups :
  (stGfx gBare).gfxDies (partOfCtx (lGfx gBare).ctx) = [0] ∧ (stGfx gBare).gfxTurn 1 (lGfx gBare) = true
  ∧ ((((stGfx gBare).skip 1).dieOrder 31 0).findSome? (fun k => ((stGfx gBare).skip 1).tryCore (lGfx gBare).ctx k
      { groups := [((lGfx gBare).recd.vregs, (lGfx gBare).recd.sregs)], spm := tileBytes gBare.targets gBare.depth.isSome } [])).isSome = true
  ∧ gBare.tileWaits 1 = false ∧ (((stGfx gBare).skip 1).loadTile 1 (lGfx gBare).ctx gBare 1).2 = some []
  ∧ kget (stGfx gBare [(2, bQuads)]).blocks 2 = some bQuads ∧ bQuads.resident = true ∧ bQuads.gfx.ended = [] ∧ kget gBare.draws primOf.draw = some (drawOf 0)
  ∧ ((stGfx gBare [(2, bQuads)]).core 0).preempting = false ∧ ((stGfx gBare [(2, bQuads)]).tryGroup (lGfx gBare).ctx 0 ((lGfx gBare).recd.vregs, (lGfx gBare).recd.sregs) ((stGfx gBare [(2, bQuads)]).groups.all fun x => x.2.block ≠ 2)).isSome = true
  ∧ (stGfx gBare [(2, bQuads)]).quadsBusy 2 [(0, 15), (3, 1)] = false ∧ { stGfx gBare [(2, bQuads)] with groups := [(0, gPix)] }.quadsBusy 2 [(0, 15), (3, 1)] = true
  ∧ ((stGfx gBare [(2, slot0)] (coreRing [(0, 2)])).core 0).rings = [(1, { claim := { core := 0, groups := [(1, 0, 0)] }, slots := [(0, 2)] })]
  ∧ (stGfx gBare [(2, slot0)] (coreRing [(0, 2)])).firstSlot { claim := { core := 0, groups := [(1, 0, 0)] }, slots := [(0, 2)] } = some (2, slot0)
  ∧ kget gBare.draws slot0.gfx.draw = some (drawOf 0) ∧ slot0.resident = true ∧ (stGfx gBare [(2, slot0)] (coreRing [(0, 2)])).mayRun 0 (lGfx gBare).ctx = true := by
  and_intros <;> first | decide +kernel | rfl

/-! ### Rays -/

def f1 : List Byte := leBytes 4 0x3F800000
def zeros (n : Nat) : List Byte := List.replicate n 0
/-- R482: a triangle of the corners 0, x and y, and a box node of one box from 0 to 1. -/
def triBytes : List Byte := [1, 0, 0, 0, 0, 0, 0, 0] ++ zeros 12 ++ f1 ++ zeros 8 ++ zeros 4 ++ f1 ++ zeros 4 ++ zeros 20
def boxBytes : List Byte := [0, 1] ++ zeros 14 ++ zeros 12 ++ f1 ++ f1 ++ f1 ++ zeros 72 ++ zeros 16
def memRay : State := { put (put memBase 0x80 triBytes) 0x100 boxBytes with lines := [(lineOf 0x104080, {}), (lineOf 0x104100, {}), (lineOf 0x104140, {})] }
/-- Thread 1 alone with a ray from (1/4, 1/4, -1) along z in v8 to v15 and a node's address in the pair v4; s0 is the hierarchy. -/
def gRay (node : Word) (q : KMap Query := []) (ixu : Bool := false) : Group :=
  { g0 with regs := { v := [(513, node), (1025, 0x3E800000), (1153, 0x3E800000), (1281, 0xBF800000), (1793, 0x3F800000), (1921, 0x7F800000)], m := [(0, 2)], s := [(0, node)] }
            rays := q, ixu := ixu }
def qOf (node : DWord) (done : Bool := false) (hit cand : Option Hit := none) : Query :=
  { ray := [0x3E800000, 0x3E800000, 0xBF800000, 0, 0, 0, 0x3F800000, 0x7F800000], flags := 0, base := node, cur := some { addr := node, base := node, depth := 0, child := 0, inst := none }
    done := done, hit := hit, cand := cand }
def aHit : Hit := { t := 0x3F800000, u := 0, v := 0, front := true, prim := 3, inst := 4, shader := 5 }
def eRay (g : Group) : Env := enMem g

theorem witness_rayQueries :
  fit (gRay 0x80) [.rqinit { x := 7, a := 8, b := 0x400 }, .rqstep { d := 12 }, .rqcommit {}, .rqget { x := 0x18, d := 12 }, .rqtrail { d := 12 }, .boxtest { d := 16, a := 8, b := 4 },
    .tritest { d := 16, a := 8, b := 4 }] = true
  ∧ (stOf (gRay 0x80)).env = some (enOf (gRay 0x80)) ∧ (gRay 0x80).ixu = false ∧ 0 < (stOf (gRay 0x80)).freeIxu 0
  ∧ { stOf (gRay 0x80) with groups := (0, gRay 0x80) :: (List.range 16).map fun i => (i + 1, gRay 0 [] true) }.freeIxu 0 = 0
  ∧ bitsOf ((gRay 0x80).pred 0) = [1] ∧ kget (gRay 0x80 [(1, qOf 0x80)]).rays 1 = some (qOf 0x80) ∧ (qOf 0x80 true).done = true ∧ kget (gRay 0x80).rays 1 = none
  ∧ ((qOf 0x80 false (some aHit) none).hit.isSome ∧ (qOf 0x80 false none (some aHit)).cand.isSome) ∧ (0x18 : BitVec 6).toNat % 16 = 8 ∧ (0x10 : BitVec 6).getLsbD 4 = true := by
  and_intros <;> first | decide | rfl

theorem witness_rayStep :
  (match Query.run traversalBound ((eRay (gRay 0x80)).rd (inPage memRay (gRay 0x80))) { qOf 0x80 with cand := none } with
    | (x, q, none) => q.cand.isSome && ((inPage memRay (gRay 0x80)).touchBoth ((eRay (gRay 0x80)).requester 0 0) x.seen []).2 = [] && kget x.s.groups 0 = some (gRay 0x80)
    | _ => false) = true := by decide +kernel

/-- What a node reads as, when nothing holds it. -/
def nodeIs (node : Word) : Nat :=
  match ((eRay (gRay node)).rd (inPage memRay (gRay node))).node ((gRay node).src64 4 1) with
  | (x, .ok v) => if ((inPage memRay (gRay node)).touchBoth ((eRay (gRay node)).requester 0 0) x.seen []).2 = [] && kget x.s.groups 0 = some (gRay node) then
      match v with
      | .tri b => if ((rayOf (qOf 0).ray).triangle false (nodeVec b 8) (nodeVec b 20) (nodeVec b 32)).isSome then 1 else 2
      | .box n b => if ((rayOf (qOf 0).ray).boxOf b 0).isSome then 10 + n else 3
      | _ => 4 else 0
  | _ => 0
theorem witness_rayTests : nodeIs 0x80 = 1 ∧ nodeIs 0x100 = 11 ∧ nodeIs 0xC0 = 4 ∧ (gRay 0x80).src64 4 1 = 0x80
  ∧ (List.range 8).map (fun k => (gRay 0x80).regs.vget (8 + k) 1) = (qOf 0).ray := by
  refine ⟨by decide +kernel, by decide +kernel, by decide +kernel, by decide, by decide⟩

/-! ### Travelling launches -/

/-- One segment of 256 bytes at address 0; entry 0 takes groups with two registers of each kind, entry 1 single threads with one. -/
def tTrav : TravelSt :=
  { repl := true, pooln := 8, poolbase := 0, cores := 0, segs := [{ code := 0, size := 256, vregs := 8, sregs := 64 }]
    entries := [{ seg := 0, lane := false, vin := 2, sin := 2, min := 0, offset := 0, timeout := 0 }, { seg := 0, lane := true, vin := 1, sin := 0, min := 2, offset := 64, timeout := 9 }]
    trsz := 64, hrec := 2, free := 6 }
def lTrav (t : TravelSt := tTrav) : Launch := { placedLaunch with kind := .travel t, recd := { placedLaunch.recd with vregs := 8 } }
def hopOf (e : Nat) (lane : Bool) (core : Nat := 0) : HopRec :=
  { entry := e, core := core, lane := lane, v := [(0, 5)], m := [(0, 1)], c := 0, s := [(0, 7)], m0 := 1, depth := 0, bidx := 0, bidy := 0, bidz := 0, cap := 1 }
def bufOf (n age : Nat) (header : Bool := true) : Assembly := { entry := 1, threads := List.replicate n [5], waiting := [[6]], header := header, age := age }
def pinOf (b : Assembly) (arr : List HopRec := []) (busy idle : Nat := 0) : Pinned := { launch := 1, seg := 0, code := [], buffers := [b], arrivals := arr, busy := busy, idle := idle }
def stTrav (g : Group := g0) (b : Block := placedBlock) (p0 p1 : Option Pinned := none) (t : TravelSt := tTrav) : State :=
  { stOf g b (lTrav t) with cores := [(0, { pinned := p0 }), (1, { pinned := p1 })], parts := kset tiny.parts 31 { en := true, coreset := 3 } }
/-- Thread 1 alone with an entry's number in v4. -/
def gHop (v : Word) : Group := { g0 with regs := { g0.regs with v := [(513, v)], m := [(0, 2)], s := [(3, v)] }, vregs := 8, sregs := 64 }
def one1 : Pinned := pinOf (bufOf 0 0)

theorem witness_hopInstructions :
  (stTrav (gHop 1)).env = some (enOf (gHop 1) placedBlock (lTrav)) ∧ fit (gHop 1) [.hop { imm := 0 }, .hopl { a := 4 }, .segid { d := 0x402, a := 0x403 }] = true
  ∧ (∀ t, placedLaunch.kind ≠ .travel t) ∧ (∀ k ∈ placedBlock.k, k = 0#16) ∧ (lTrav).kind = .travel tTrav ∧ NoLatch { a := 4 } ∧ bitsOf ((gHop 1).pred 0) = [1]
  ∧ (((0x7FFFFFFF#31).signExtend 64).toInt < 0 ∧ ((2#31).signExtend 64).toInt = 2 ∧ ((1#31).signExtend 64).toInt = 1 ∧ ((0#31).signExtend 64).toInt = 0)
  ∧ tTrav.entries[2]? = none ∧ (tTrav.entries[1]?).map (fun e => (e.lane, decide (e.vin ≤ (gHop 1).vregs))) = some (true, true)
  ∧ (tTrav.entries[0]?).map (fun e => (e.lane, decide (e.vin ≤ (gHop 1).vregs), decide (e.sin ≤ (gHop 1).sregs))) = some (false, true, true)
  ∧ 1#16 ∈ (bK [(1, 1)]).k ∧ (stTrav (gHop 1)).writesPending 3 = false ∧ (cStop.bid = 2)
  ∧ (stTrav (gHop 1) placedBlock (some one1)).chooseReplica placedBlock.launch 0 0 = some 0 ∧ (stTrav (gHop 1) placedBlock none (some one1)).chooseReplica 1 0 0 = some 1
  ∧ ((gHop 1).src 0 4 1).toInt = 1 ∧ ((gHop 0xFFFFFFFF).src 0 4 1).toInt < 0 ∧ (gHop 1).doubleTrap = false ∧ ((gHop 0xFFFFFFFF).s32 0x403).toInt < 0 ∧ ((gHop 1).s32 0x403).toInt = 1 := by
  refine ⟨rfl, ?_, ?_, fun k hk => List.eq_of_mem_replicate hk, rfl, by unfold NoLatch; decide, ?_⟩
  · decide
  · intro t h; cases h
  · and_intros <;> decide +kernel

/-- A travelling launch before it is pinned, at the head of its queue, with its code in the page. -/
def stPin (fly : Nat) (p0 p1 : Option Pinned := none) (free : Nat := 6) (pinned : Bool := false) : State :=
  let t := { tTrav with pinned := pinned, free := free, flying := if fly = 0 then [] else [hopOf 0 false, { hopOf 1 true with src := 1 }] }
  { memBase with groups := [], blocks := [], launches := [(1, { lTrav t with next := 0 })], cores := [(0, { pinned := p0 }), (1, { pinned := p1 })], parts := kset tiny.parts 31 { en := true, coreset := 3 }, nextId := 4 }
def travPin (fly : Nat) (free : Nat := 6) (pinned : Bool := false) : TravelSt :=
  { tTrav with pinned := pinned, free := free, flying := if fly = 0 then [] else [hopOf 0 false, { hopOf 1 true with src := 1 }] }

theorem witness_travelPin :
  (kget (stPin 0).launches 1).map (fun l => (l.kind, l.next)) = some (.travel (travPin 0), 0) ∧ (stPin 0).settlePool 1 = stPin 0 ∧ (travPin 0).pinned = false
  ∧ ((stPin 0).part (partOfCtx (lTrav).ctx)).temporal = false ∧ ((stPin 0).headLaunch (lTrav).home 31).map (·.1) = some 1
  ∧ (((stPin 0).participating 31 tTrav.cores).filterMap fun c =>
      ((stPin 0).eligibleSpm 31 c (lTrav).recd.spm).map fun b => (c, b)) = [(0, 0), (1, 0)]
  ∧ (match (stPin 0).loadCode (lTrav).ctx { code := 0, size := 256, vregs := 8, sregs := 64 } with | (u, some code) => code.length = 32 && (kget u.cores 0).isSome | _ => false) = true
  ∧ (travPin 0 6 true).pinned = true ∧ (stPin 0 none none 6 true).settlePool 1 = stPin 0 none none 6 true := by
  and_intros <;> first | decide +kernel | rfl

theorem witness_travelArrivals :
  (stPin 1 (some one1)).settlePool 1 = stPin 1 (some one1) ∧ (stPin 0 (some (pinOf (bufOf 5 9)))).settlePool 1 = stPin 0 (some (pinOf (bufOf 5 9)))
  ∧ (stPin 0 (some (pinOf (bufOf 5 9 false))) none 1).settlePool 1 = stPin 0 (some (pinOf (bufOf 5 9 false))) none 1
  ∧ (travPin 1).flying[0]? = some (hopOf 0 false) ∧ (travPin 1).flying[1]? = some { hopOf 1 true with src := 1 }
  ∧ (∀ o ∈ (travPin 1).flying.take 1, o.src = ({ hopOf 1 true with src := 1 } : HopRec).src → o.entry = 1 → o.core ≠ 0)
  ∧ ({ stPin 1 with link := { retraining := true } } : State).link.retraining = true ∧ { hopOf 0 false with die := 1 }.die ≠ (stPin 1).dieOf (hopOf 0 false).core
  ∧ (hopOf 0 false).die = (stPin 1).dieOf (hopOf 0 false).core ∧ (stPin 1).link.retraining = false ∧ ((stPin 1 (some one1)).core 0).pinned = some one1
  ∧ { bufOf 127 9 with waiting := [] }.threads.length < 128 ∧ (pinOf (bufOf 0 0) [hopOf 0 false]).arrivals = hopOf 0 false :: []
  ∧ (stPin 0 (some (pinOf (bufOf 0 0) [hopOf 0 false]))).settlePool 1 = stPin 0 (some (pinOf (bufOf 0 0) [hopOf 0 false]))
  ∧ ((stPin 0 (some (pinOf (bufOf 0 0) [hopOf 0 false]))).tryCore (lTrav).ctx 0 { groups := [(8, 64)] } []).isSome = true
  ∧ ({ stPin 0 (some (pinOf (bufOf 0 0) [hopOf 0 false])) with parts := [(31, { en := true, coreset := 3, paused := true })] }.tryCore (lTrav).ctx 0 { groups := [(8, 64)] } []) = none
  ∧ ((pinOf (bufOf 5 9)).buffers.find? fun b => b.entry = 1) = some (bufOf 5 9) ∧ (tTrav.entries[1]?).map (·.timeout) = some 9 ∧ (bufOf 5 9).threads ≠ [] ∧ (bufOf 5 8).age < 9
  ∧ (bufOf 0 0).threads = [] ∧ (bufOf 5 9 false).header = false ∧ bufferHeld (travPin 1) one1 + (hopOf 0 false).cap * (travPin 1).trsz ≤ 65536
  ∧ (∀ p, ((stPin 1).core 0).pinned = some p → p.launch ≠ 1) ∧ (stPin 1).usable 0 = true ∧ { stPin 1 with cores := [(0, { retired := true })] }.usable 0 = false :=
  by and_intros <;> first | decide +kernel | rfl | (intro p h; cases h)

theorem witness_travelReplicas :
  (stPin 0 (some (pinOf (bufOf 0 0) [] 4096)) none 6 true).settlePool 1 = stPin 0 (some (pinOf (bufOf 0 0) [] 4096)) none 6 true
  ∧ busiest ((stPin 0 (some (pinOf (bufOf 0 0) [] 4096))).replicas 1 0) = some 0 ∧ (∀ x ∈ (stPin 0 (some (pinOf (bufOf 0 0) [] 4096))).replicas 1 0, 4096 ≤ x.2.busy)
  ∧ tTrav.repl = true ∧ tTrav.hrec * (tTrav.laneEntries 0).length ≤ tTrav.free
  ∧ ((((stPin 0 (some one1)).participating 31 tTrav.cores).filter fun c => (kget (lTrav).pins c).isNone).filterMap fun c =>
      ((stPin 0 (some one1)).eligibleSpm 31 c (lTrav).recd.spm).map fun o => (c, o)) = [(1, 0)]
  ∧ (match (stPin 0 (some one1)).loadCode (lTrav).ctx { code := 0, size := 256, vregs := 8, sregs := 64 } with | (u, some code) => code.length = 32 && (kget u.cores 1).isSome | _ => false) = true
  ∧ (∃ x ∈ (stPin 0 (some one1) (some one1)).replicas 1 0, x.1 ≠ 0) ∧ (∀ x ∈ (stPin 0 (some one1)).replicas 1 0, x.1 = 0) ∧ one1.idle < 65536
  ∧ 65536 ≤ (pinOf (bufOf 0 0) [] 0 65536).idle ∧ (stPin 0 (some { one1 with buffers := [] })).replicaEmpty 0 { one1 with buffers := [] } = true ∧ (stPin 0 (some one1)).replicaEmpty 0 one1 = false
  ∧ (∃ r ∈ (travPin 1).flying, r.core = 0) ∧ (∀ r ∈ (travPin 0).flying, r.core ≠ 0) ∧ one1.retiring = false := by
  and_intros <;> first | decide +kernel | rfl

/-! ### The awls -/

/-- The awl of the slice of address 0x104000, which runs an invocation of PF0's context 0, with its registers; x8 is 8. -/
def sl : Nat := sliceOf 0x104008
def qAwl (reply : Option ReplyTo := none) (fwd : Nat := 0) : AwlRun :=
  { ev := { id := 1, code := 3, ctx := ctxKey 31 0, window := 0, va := 8, fwd := fwd, reply := reply }, image := [], owed := reply.isSome }
def awlOf (x : Sparse 32) (q : Option AwlRun := some qAwl) (budget : Nat := 9) : Awl := { x := x, pc := 16, budget := budget, run := q }
def stAwl (a : Awl) (n : Nat := sl) : State :=
  { memBase with cur := .awl n, awls := [(n, a)], lines := [(lineOf 0x104000, {})], ctxs := kset memBase.ctxs (ctxKey 31 0) { memBase.ctx (ctxKey 31 0) with pinquota := 1 }
                 parts := kset tiny.parts 31 { en := true, pinquota := 1 } }

theorem witness_awlRuns (x : Sparse 32) : AwlRuns (stAwl (awlOf x)) sl qAwl := ⟨rfl, rfl, by intro h; cases h⟩

theorem witness_awlLoadStore : 0x10000 ≤ (0x10000 + 0#32).toNat ∧ (0x10000 + 0x3FFC#32).toNat + 4 ≤ 0x14000 ∧ (stAwl (awlOf [(8, 0x10000)])).awl sl = awlOf [(8, 0x10000)]
  ∧ (awlOf [(8, 0x10000)]).reg 8 = 0x10000 := by refine ⟨by decide, by decide, rfl, by decide⟩

/-- How a side access goes: 0 with its address, 1 for a fault, else 2 and more for an abort. -/
def sideOf (s : State) (va : DWord) (write : Bool) : Nat × Nat × Bool :=
  match (s.sideAccess (ctxKey 31 0) va write).2 with | .ok pa unc => (0, pa, unc) | .fault => (1, 0, false) | .abort c => (2 + c, 0, false)

theorem witness_sideAccess :
  sideOf (stAwl (awlOf [(8, 8)])) (((0 : BitVec 16) ++ (awlOf [(8, 8)]).reg 8 : BitVec 48).signExtend 64) false = (0, 0x104008, false) ∧ sideOf (stAwl (awlOf [])) 8 true = (0, 0x104008, false)
  ∧ (sideOf (stAwl (awlOf [])) 0x1000 false).1 = 1 ∧ 2 ≤ (sideOf { stAwl (awlOf []) with poisoned := [lineOf 0x104008] } 8 false).1
  ∧ (stAwl (awlOf [])).far (sl / 24) 0x104008 = false ∧ ({ stAwl (awlOf []) with link := { retraining := true } } : State).far 1 0x104008 = true
  ∧ (stAwl (awlOf [])).heldByOther sl 0x104008 = false ∧ { stAwl (awlOf []) with heldLines := [(lineOf 0x104008, sl + 1)] }.heldByOther sl 0x104008 = true
  ∧ ((stAwl (awlOf [])).line? 0x104008).isSome = true ∧ sliceOf 0x104008 = sl ∧ sliceOf 0x104008 ≠ sl + 1 ∧ (stAwl (awlOf [])).heldLines = [] := by
  and_intros <;> first | decide +kernel | rfl

theorem witness_lineInstructions :
  (0x10000#32).toNat % 128 = 0 ∧ (0x13F80#32).toNat + 128 ≤ 0x14000 ∧ (0x13F85#32).toNat / 128 * 128 + 128 ≤ 0x14000 ∧ (1#32).toNat % 128 ≠ 0
  ∧ ((stAwl (awlOf [])).pinLine (ctxKey 31 0) 0x104008).2 = 0 ∧ ({ stAwl (awlOf []) with ctxs := memBase.ctxs }.pinLine (ctxKey 31 0) 0x104008).2 ≠ 0
  ∧ ((stAwl (awlOf [])).unpinLine (ctxKey 31 0) 0x104008).2 ≠ 0 ∧ ({ stAwl (awlOf []) with lines := [(lineOf 0x104008, { pins := [ctxKey 31 0] })] }.unpinLine (ctxKey 31 0) 0x104008).2 = 0
  ∧ (stAwl (awlOf [])).pinWaits sl 0x104008 = false ∧ { stAwl (awlOf []) with heldLines := [(lineOf 0x104008, sl + 1)] }.pinWaits sl 0x104008 = true
  ∧ (∃ w ∈ ({ stAwl (awlOf []) with pendingWrites := [{ uid := 9, core := some 0, own := true, lid := 1, ck := ctxKey 31 0, line := lineOf 0x104008, sharers := [1], pa := 0x104008, data := [7] }] } : State).pendingWrites, w.line = lineOf 0x104008)
  ∧ (stAwl (awlOf [])).pendingWrites = [] ∧ kget { stAwl (awlOf []) with heldLines := [(lineOf 0x104008, sl)] }.heldLines (0x104008 / 128) = some sl
  ∧ 4 ≤ (([(1, sl), (2, sl), (3, sl), (4, sl)] : KMap Nat).filter fun h => h.2 = sl).length
  ∧ (qAwl).replyTo = none ∧ (qAwl (some (.thread 3 1))).replyTo = some (.thread 3 1) ∧ (awlOf [(15, 62)]).reg 15 ≠ 63 ∧ (awlOf [(15, 63)]).reg 15 = 63
  ∧ (stAwl (awlOf [])).mustWait 0x104008 = false ∧ { stAwl (awlOf []) with lines := [(lineOf 0x104000, { sharers := [3] })] }.mustWait 0x104008 = true := by
  and_intros <;> decide

def winOf : Window := { triggers := 8, budget := 64, vbase := 0, vsize := 4096 }
/-- A machine whose context has a message window over the page. -/
def stMsg (va : DWord) (a : Awl := awlOf [] none) : State :=
  { stAwl a with cur := .none, ctxs := kset memBase.ctxs (ctxKey 31 0) { memBase.ctx (ctxKey 31 0) with windows := [(0, winOf)] }
                 awlMsgs := [{ ctx := ctxKey 31 0, va := va, payload := 5, fwd := 0, reply := .thread 3 1, die := 0 }] }
/-- An invocation whose next instruction is AEND, and a write that waits for a core's copy. -/
def qRun : AwlRun := { qAwl with image := List.replicate 16 0 ++ leBytes 4 0x202B }
def wPend : PendingWrite := { uid := gMem.uid, core := some 0, own := true, lid := 1, ck := ctxKey 31 0, line := 1, sharers := [1], pa := 128, data := [7] }
def gMsg (owed : Mask) : Group := { g0 with awl := some { dst := 12, sent := 3, owed := owed } }

theorem access_stMsg (n : Nat) : ((stMsg 8).access n (ctxKey 31 0) 8 .read).1 = .dev 0x104008 false := by
  have hs : ∀ ck va, ((stMsg 8).walk1 n 31 ck va levels4 placeBase) = memBase.walk1 n 31 ck va levels4 placeBase := by
    intro ck va
    have hw : ∀ (l : List Nat) tb, (stMsg 8).walk1 n 31 ck va l tb = memBase.walk1 n 31 ck va l tb := by
      intro l
      induction l with
      | nil => intro tb; rfl
      | cons a r ih => intro tb; simp only [State.walk1, ih]; rfl
    exact hw _ _
  have h1 : ((stMsg 8).ctx (ctxKey 31 0)).s1root.toNat = placeBase := by decide
  have h5 : partOfCtx (ctxKey 31 0) = 31 := by decide
  have hv : (8 : DWord).toNat % 2 ^ 48 = 8 := by decide
  have hc : canonical 8 = true := by decide
  have hr : (stMsg 8#64).mayRead 31 1064968 = true ∧ (stMsg 8#64).isPoisoned 1064968 = false := by decide
  have hw := translate_walk (s := stMsg 8) (n := n) (p := 31) (by intro t ht; cases ht) (by rw [h1, hs]; exact walk_memOf n 8 (by decide))
  simp only [State.access, hc, Bool.not_true, Bool.false_eq_true, if_false, h5, hv]
  split
  · rename_i heq; rw [heq] at hw; cases hw
  · rename_i heq; rw [heq] at hw; cases hw
  · rename_i heq; rw [heq] at hw; cases hw
    simp [Leaf.allows, hr.1, hr.2]

theorem witness_awlEvents :
  ((stMsg 8 { awlOf [] none with queue := [(qAwl).ev] }).awl sl).run = none
  ∧ (((stMsg 8 { awlOf [] none with queue := [(qAwl).ev] }).awl sl).queue.find? fun (e : AwlEvent) => !((stMsg 8).part (partOfCtx e.ctx)).paused) = some (qAwl).ev
  ∧ kget ((stMsg 8).ctx (ctxKey 31 0)).windows 0 = some winOf ∧ ((stAwl (awlOf [] (some qAwl) 0)).awl sl).run = some qAwl ∧ ((stAwl (awlOf [] (some qAwl) 0)).awl sl).budget = 0
  ∧ (stAwl (awlOf [] (some qRun) 0)).budgetSpent sl qRun = true ∧ (stAwl (awlOf [] (some qRun))).budgetSpent sl qRun = false
  ∧ (pendOf gMem).pendingWrites[0]? = some wPend ∧ ((pendOf gMem).pendingWrites.find? fun o => o.line = wPend.line) = some wPend ∧ 3 ∉ wPend.sharers
  ∧ ({ stOf g0 with link := { retraining := true } } : State).link.retraining = true ∧ 3 ∈ ({ wPend with sharers := [3] } : PendingWrite).sharers ∧ (stOf g0).pendingWrites.length ≤ 0
  ∧ ((stMsg 4096).ctx (ctxKey 31 0)).windowAt 3 4096 = none ∧ ((stMsg 8).ctx (ctxKey 31 0)).windowAt 3 8 = some (0, winOf) ∧ (kget (stMsg 8).awls (sliceOf 0x104008)).isSome = true
  ∧ ((stMsg 8).awl (sliceOf 0x104008)).queue.length < 64 ∧ (stOf (gMsg 2)).groups.find? (fun e => e.2.uid = 3) = some (0, gMsg 2)
  ∧ (stMsg 8).far 0 0x104008 = false ∧ ({ stMsg 8 with link := { retraining := true } } : State).far 1 0x104008 = true ∧ (stOf g0).dieOf (gMsg 2).core ≠ 1
  ∧ (stOf (gMsg 2)).link.retraining = false ∧ ((2 : Mask) &&& ~~~((1#128) <<< 1)) = 0 ∧ ((6 : Mask) &&& ~~~((1#128) <<< 1)) ≠ 0 ∧ (gMsg 2).awl.map (fun d => (d.got, d.later)) = some ([], none) := by
  and_intros <;> decide

/-! ### Resets, the package, the event log and the host -/

/-- A machine that has booted. -/
def up : State := { tiny with plat := { State.reset.plat with boot := .ready }, outs := [(0, { attached := true }), (1, { attached := false })] }
def upFn (f : Func) (fn : Nat := 0) : State := { up with funcs := (if fn = 0 then [(0, f)] else [(0, {}), (fn, f)]) }
/-- A machine with a VF whose partition has a context with a launch. -/
def stVf : State :=
  { upFn {} 2 with plat := { up.plat with sriov := true }
                   parts := [(1, { en := true }), (31, { en := true })], ctxs := [(ctxKey 1 0, {}), (ctxKey 1 4, {}), (ctxKey 31 0, {})]
                   launches := [(5, { placedLaunch with ctx := ctxKey 1 4 }), (6, placedLaunch)] }
/-- Fuses that leave nothing to boot. -/
def noKeys : Sec := { State.reset.sec with slot0 := { State.reset.sec.slot0 with revoked := true } }

theorem witness_resets :
  up.plat.thermtrip = false ∧ { up.plat with thermtrip := true }.thermtrip = true ∧ up.running = true ∧ { up with plat := { up.plat with powered := false } }.running = false
  ∧ tiny.running = true ∧ tiny.plat.boot = .booting ∧ up.plat.boot ≠ .booting ∧ ({} : Straps).bootsrc = 0 ∧ ({ State.reset.sec with flashA := [], flashB := [] } : Sec).choose false = none
  ∧ State.reset.sec.choose false = none ∧ State.reset.sec.bootFuses = [] ∧ (State.reset.sec.started none 0 0).bootFuses ≠ [] ∧ (2 : BitVec 2).toNat = 2 ∧ stVf.funcHere 2 = true
  ∧ (stVf.part 1).pausing = false ∧ (∀ a ∈ stVf.awls, a.2.run = none ∧ a.2.queue = [])
  ∧ (kget stVf.funcs 2).isSome = true ∧ (stVf.func 2).present = true ∧ (kget stVf.ctxs (ctxKey 1 4)).isSome = true ∧ partOfCtx (ctxKey 1 4) = 2 - 1 ∧ partOfCtx (ctxKey 31 0) ≠ 2 - 1
  ∧ (∀ l ∈ stVf.launches, l.1 = 6 → partOfCtx l.2.ctx ≠ 2 - 1) := by
  and_intros <;> decide

/-- R57: an area whose image verifies is one that is started. -/
theorem witness_bootChoice (c : Sec) (nv : Bool) (n : Nat) (hs : c.selector ≠ 0x0B#8) (h : c.verify nv (c.area false) = some n) :
    c.choose nv = some (false, n) := by
  unfold Sec.choose
  simp only [hs, decide_false]
  split
  · rename_i m hm
    rw [h] at hm
    cases hm
    rfl
  · rename_i hm
    rw [h] at hm
    cases hm

/-- A direction of the link with two flits sent, and the cycles of the replays asked of it. -/
def dirOf (replays : List DWord) : LinkDir := { nextSeq := [5, 0, 0, 0], buffer := [(0, 3), (0, 4)], acked := [4, 0, 0, 0], replays := replays }

theorem witness_packageEvents :
  clockLegal 800 = true ∧ clockLegal 2100 = true ∧ clockLegal 825 = true ∧ clockLegal 812 = false ∧ clockLegal 2125 = false ∧ up.plat.pwrbrake = false
  ∧ { up with plat := { up.plat with pwrbrake := true } }.plat.pwrbrake = true ∧ { up with plat := { up.plat with pwrbrake := true } }.running = true ∧ up.plat.powered = true
  ∧ up.plat.powerLimitW < 421 ∧ 800 ≤ up.plat.clock0 ∧ 800 ≤ up.plat.clock1 ∧ up.link.retraining = false
  ∧ (0, 4) ∈ (dirOf []).buffer ∧ (((dirOf []).acked[0]?).getD 0 ≤ 4 ∧ 3 < ((dirOf []).acked[0]?).getD 0) ∧ (0, 5) ∉ (dirOf []).buffer
  ∧ ((((dirOf [9]).replays ++ up.link.d1.replays).filter fun x => (9 - x).toNat ≤ 1500).length < 8 ∧ 8 ≤ (((dirOf (List.replicate 4 9)).replays ++ (dirOf (List.replicate 4 9)).replays).filter fun x => (9 - x).toNat ≤ 1500).length) ∧ { up.link with retraining := true }.fatal = false
  ∧ { up.link with attempts := 1 }.attempts < 2 ∧ 2 ≤ { up.link with attempts := 2 }.attempts ∧ (kget up.outs 0).isSome = true := by
  and_intros <;> decide

/-- PF0 with its log of 64 records at 0x200000 on, `n` of them filled. -/
def logOn (n : Nat) (mask : DWord := 0) : Func := { elbase := 0x200000, elctl := 0x106, elwptr := BitVec.ofNat 32 n, gen := 1, msixMask := mask }

theorem witness_eventLog :
  kget (upFn (logOn 63)).funcs 0 = some (logOn 63) ∧ ((upFn (logOn 63)).part (partOfFn 0)).paused = false ∧ (0#32).toNat < (logOn 63).gen.toNat ∧ (logOn 63).gen.toNat ≤ (1#32).toNat
  ∧ (logOn 63).elctl.getLsbD 8 = true ∧ { logOn 63 with elctl := 6 }.elctl.getLsbD 8 = false ∧ 2 ^ ((logOn 64).elctl.toNat % 32) ≤ ((logOn 64).elwptr - (logOn 64).elrptr).toNat
  ∧ ((logOn 63).elwptr - (logOn 63).elrptr).toNat < 2 ^ ((logOn 63).elctl.toNat % 32) ∧ (List.replicate 16 (0 : Byte)).length ≤ 16
  ∧ (upFn (logOn 63)).logPa 0 ((logOn 63).elbase.toNat + 32 * ((logOn 63).elwptr.toNat % 2 ^ ((logOn 63).elctl.toNat % 32))) = some (0x200000 + 32 * 63)
  ∧ (logOn 63).msixMask.getLsbD ((logOn 63).elctl.toNat / 2 ^ 13 % 8) = false ∧ (logOn 63 1).msixMask.getLsbD ((logOn 63).elctl.toNat / 2 ^ 10 % 8) = true
  ∧ (upFn (logOn 63)).pendingWrites = [] := by
  refine ⟨rfl, ?_⟩
  and_intros <;> decide

/-- PF0 with its window on, at 0x100000. -/
def winOn : Func := { wen := true, wbase := 0x100000, wsize := 28 }
def qHost (rptr wptr : Word) (halt : Bool := false) (en : Bool := true) : Queue := { base := 0x1000, hostmem := true, logsz := 6, en := en, rptr := rptr, wptr := wptr, halt := halt }
def upQ (q : Queue) : State := { up with ctxs := [(ctxKey 31 0, { allow := 0xFFFF, queue := q })] }
def stHostWait : State :=
  { stOf { g0 with waitFor := .page, trap := { g0.trap with addr := 0x5000 } } with hostAbsent := [(0, 5)] }

def pieceOf (s : State) (a : Nat) (w : Bool) : Nat × Nat := match s.windowPa 0 a 4 w with | .ok p => (0, p) | .error p => (1, p)

theorem witness_hostWindow :
  kget (upFn winOn).funcs 0 = some winOn ∧ (upFn winOn).hostReach 0 = true ∧ (upFn winOn).plat.boot = .ready ∧ winOn.decodeOn = true ∧ winOn.wen = true ∧ 4092 + 4 ≤ 2 ^ winOn.wsize
  ∧ (winOn.wbase.toNat + 4092) % 4096 + 4 ≤ 4096 ∧ winOn.wbase.toNat + 4092 + 4 ≤ 2 ^ 64 ∧ pieceOf (upFn winOn) (0x100000 + 4092) false = (0, 0x100FFC)
  ∧ pieceOf (upFn winOn) (0x100000 + 4092) true = (0, 0x100FFC) ∧ pieceOf { upFn winOn with poisoned := [lineOf 0x100FFC] } (0x100000 + 4092) false = (1, 0x100FFC)
  ∧ tiny.hostReach 0 = false ∧ 2 ^ winOn.wsize < 2 ^ 28 - 3 + 4 ∧ { winOn with wen := false }.wen = false ∧ (0x1006 : Word).getLsbD 8 = false
  ∧ (0x106#32).getLsbD 8 = true ∧ (0x106#32).toNat % 32 ∈ List.range' 6 11 ∧ (0x110#32).toNat % 32 ∈ List.range' 6 11 ∧ (0x111#32).toNat % 32 ∉ List.range' 6 11
  ∧ (upFn winOn).cut 0x100FFC 4 = false ∧ { upFn winOn with heldLines := [(lineOf 0x100FFC, 3)] }.cut 0x100FFC 4 = true ∧ (upFn winOn).pendingWrites = []
  ∧ tiny.running = true ∧ tiny.plat.boot = .booting ∧ isConfig decodeOffset = true ∧ isConfig 0x30000 = false ∧ { tiny with plat := { tiny.plat with boot := .strapError } }.hostReach 0 = false := by
  refine ⟨rfl, ?_⟩
  and_intros <;> decide

theorem witness_hostQueues :
  kget (upQ (qHost 0 1)).ctxs (ctxKey (partOfFn 0) 0) = some { allow := 0xFFFF, queue := qHost 0 1 } ∧ (upQ (qHost 0 1)).hostReach 0 = true ∧ (0x86#32).getLsbD 7 = true
  ∧ (qHost 0 1).en = true ∧ (qHost 0 1 false false).en = false ∧ (qHost 0 1 true).halt = true ∧ (64#32 - (qHost 0 1).rptr).toNat ≤ 2 ^ (qHost 0 1).logsz
  ∧ 2 ^ (qHost 0 1).logsz < (65#32 - (qHost 0 1).rptr).toNat ∧ up.mbox.go = false ∧ up.hostInFlight 0 5 = false
  ∧ { stOf { g0 with resps := [{ items := [.host false 0 0x5008 4 false], fills := [] }] } with hostAbsent := [] }.hostInFlight 0 5 = true
  ∧ (0, 5) ∈ stHostWait.hostAbsent ∧ (0, 6) ∉ stHostWait.hostAbsent ∧ (kget stHostWait.groups 0).map (fun g => (g.waitFor, g.parkIpa, g.trap.addr.toNat / 4096)) = some (.page, none, 5)
  ∧ { upQ { qHost 0 1 with parked := some 0x5040 } with hostAbsent := [(0, 5)] }.hostAbsent = [(0, 5)] ∧ (upQ { qHost 0 1 with parked := some 0x5040 }).blocks = []
  ∧ (upQ { qHost 0 1 with parked := some 0x5040 }).hostCopies = [] ∧ ((upQ { qHost 0 1 with parked := some 0x5040 }).ctx (ctxKey 31 0)).pasid.toNat = 0 ∧ (0x5040#64).toNat / 4096 = 5 := by
  refine ⟨rfl, ?_⟩
  and_intros <;> decide

/-- QSTAT, WSIZE and a free word of the identification page, and a read of a register (R38, R41, R44). -/
theorem witness_hostReads :
  (upQ { qHost 0 1 true with err := 2 }).registerAt 0 0x100018 = some 0x201 ∧ (upFn winOn).registerAt 0 0x3000C = some 28 ∧ (upFn winOn).registerAt 0 0 = none
  ∧ (upFn winOn).hostReach 0 = true ∧ tiny.hostReach 0 = false ∧ { upFn winOn with agenda := [.registerRead 0 0x3000C] }.running = true ∧ (upFn winOn).stalled = false
  ∧ ((upFn winOn).hostRead 0 0x30008).hostCpl = (upFn winOn).hostCpl ++ [.success [1, 0, 0, 0]] := by
  and_intros <;> decide

/-! ### The mailbox and SPDM -/

/-- A machine whose host asks request `r` with an argument at 0x2000; the result goes to 0x8000. -/
def mail (r : Nat) (arg : List Byte) (session : Bool := false) (s : State := up) : State :=
  { s with mbox := { go := true, req := BitVec.ofNat 32 r, arg := 0x2000, argLen := BitVec.ofNat 32 arg.length, res := 0x8000, resLen := 64 }
           sec := { s.sec with session := session }, hostMem := setBytes [] (hostKey busPasid 0x2000) arg }
/-- A machine whose part 1 may own one frame. -/
def upPart (quota : Word := 1) : State := { up with parts := [(1, { en := true, memquota := quota }), (31, { en := true })] }
def fotArg (frame owner : Nat) : List Byte := leBytes 8 (65536 * frame) ++ leBytes 4 1 ++ [BitVec.ofNat 8 owner, 0, 0, 0]
/-- R34: 640 by 480 on output 0. -/
def outArg (n en : Nat) (lanes : Nat := 4) : List Byte :=
  [BitVec.ofNat 8 n, BitVec.ofNat 8 en, 8, 0] ++ leBytes 4 25175 ++ leBytes 2 640 ++ leBytes 2 656 ++ leBytes 2 752 ++ leBytes 2 800 ++ leBytes 2 480 ++ leBytes 2 490 ++ leBytes 2 492 ++ leBytes 2 525
    ++ leBytes 2 525 ++ [0, BitVec.ofNat 8 lanes, 0, 0, 6, 0] ++ zeros 32

/-- What every request needs, with the fields its clauses look at. -/
def asked (r : Nat) (arg : List Byte) (session : Bool := false) (s : State := up) : Bool :=
  (mail r arg session s).running && (mail r arg session s).plat.boot = .ready && (mail r arg session s).mailArg = some arg && (mail r arg session s).mbox.req = BitVec.ofNat 32 r
    && (mail r arg session s).sec.session = session

theorem witness_mailboxKeys :
  asked 0x01 [] = true ∧ (mail 0x01 []).busOk (mail 0x01 []).mbox.res (min 48 (mail 0x01 []).mbox.resLen.toNat) = true ∧ asked 0x02 [] = true ∧ asked 0x05 (leBytes 4 64) true = true
  ∧ asked 0x03 (leBytes 4 3) true = true ∧ asked 0x04 [] true = true ∧ asked 0x06 [] = true ∧ asked 0x07 [] = true ∧ ({ State.reset.sec with flashA := [] } : Sec).verify false [] = none
  ∧ field (leBytes 4 65) 0 4 = 65 ∧ 64 < 65 ∧ field (leBytes 4 64) 0 4 ≤ 64 ∧ State.reset.sec.minSvn ≤ 64 ∧ (1 < ({ State.reset.sec with minSvn := 2 } : Sec).minSvn) ∧ 3 < field (leBytes 4 4) 0 4
  ∧ (noKeys.setSlot 3 { noKeys.slot 3 with revoked := true }).bootable false = false ∧ ({ noKeys with vendorOff := true } : Sec).bootable false = false
  ∧ (State.reset.sec.slot 0).enrolled = true ∧ (State.reset.sec.slot 1).enrolled = false ∧ (State.reset.sec.slot 1).revoked = false ∧ zeroAt (leBytes 4 1 ++ zeros 12) 4 12 = true
  ∧ zeroAt (leBytes 4 1 ++ [1] ++ zeros 11) 4 12 = false ∧ enrollVerifies { State.reset.sec with nonce := none } [] = false ∧ (∀ c ∈ [0x01, 0x02, 0x03, 0x04, 0x05, 0x06, 0x07, 0x10, 0x11, 0x12, 0x13, 0x20],
      (mail 0x08 []).mbox.req.toNat ≠ c) := by
  and_intros <;> decide

/-- An argument of ENROLL for slot 1. What a signature check answers is opaque: these say what it takes. -/
theorem witness_enrollArgument : 17056 ≤ (leBytes 4 1 ++ zeros 17052).length := by
  rw [List.length_append, zeros, List.length_replicate]; decide
theorem witness_enrollVerifies (c : Sec) (n : BitVec 384) (l : List Byte) (hn : c.nonce = some n) (h1 : Config.rsaVerify ((l.drop 16).take 384) (digestBytes n) ((l.drop 448).take 384) = true)
    (h2 : Config.slhVerify ((l.drop 400).take 48) (digestBytes n) ((l.drop 832).take 16224) = true) : enrollVerifies c l = true := by simp only [enrollVerifies, hn, h1, h2, Bool.and_self]
theorem witness_bootable (c : Sec) (k : Nat) (hk : k < 4) (h : c.usable false k = true) (hv : (c.verify false c.flashA).isSome = true) : c.bootable false = true := by
  simp only [Sec.bootable, hv, Bool.true_or, Bool.and_true, List.any_eq_true]
  exact ⟨k, List.mem_range.mpr hk, h⟩

/-- R58, R59: an image of one page with one signature block of slot 0, `r` in a reserved byte of its header. -/
def imgHeader (r : Byte) : List Byte :=
  leBytes 8 0x4B524F5749445242 ++ leBytes 4 1 ++ leBytes 4 3 ++ leBytes 8 4096 ++ leBytes 8 64 ++ zeros 48 ++ leBytes 4 1 ++ [r] ++ zeros 43
def imgOf (r : Byte) : List Byte := imgHeader r ++ zeros 21152
theorem imgOf_length (r : Byte) : (imgOf r).length = 21280 := by
  rw [imgOf, List.length_append, zeros, List.length_replicate, show (imgHeader r).length = 128 from rfl]
theorem imgOf_inRange : ∀ r ∈ [(0 : Byte), 1], imageInRange (imgOf r) = true := by
  intro r hr
  unfold imageInRange
  rw [imgOf_length]
  simp only [List.mem_cons, List.not_mem_nil, or_false] at hr
  rcases hr with rfl | rfl <;> decide +kernel
theorem witness_stagedImage :
  imageInRange [] = false ∧ imageInRange (imgOf 1) = true ∧ (∀ g ∈ imageSigList (imgOf 1), field g 0 4 ≤ 3) ∧ zeroAt (imgOf 1) 84 44 = false ∧ imageInRange (imgOf 0) = true
  ∧ (∀ g ∈ imageSigList (imgOf 0), field g 0 4 ≤ 3) ∧ zeroAt (imgOf 0) 84 44 = true ∧ (∀ g ∈ imageSigList (imgOf 0), zeroAt g 4 12 = true)
  ∧ (State.reset.sec.started (some false) 0 0).runningB = some false ∧ (State.reset.sec.started (some true) 0 0).runningB = some true := by
  refine ⟨by decide, imgOf_inRange 1 (by decide), by decide +kernel, by decide +kernel, imgOf_inRange 0 (by decide), by decide +kernel, by decide +kernel, by decide +kernel, by decide, by decide⟩
/-- Such an image verifies when its signatures do, and does not when its slot is not usable. -/
theorem witness_imageVerifies (c : Sec) (nv : Bool) (h : (imageSigList (imgOf 0)).any (c.accepts nv (imgOf 0)) = true) : c.verify nv (imgOf 0) ≠ none := by
  have hw : imageWellFormed (imgOf 0) = true := by rw [imageWellFormed, imgOf_inRange 0 (by decide)]; decide +kernel
  unfold Sec.verify
  rw [hw]
  obtain ⟨g, hg, ha⟩ := List.any_eq_true.mp h
  simp only [Bool.not_true, Bool.false_eq_true, if_false, ne_eq, Option.map_eq_none_iff, List.find?_eq_none]
  exact fun k => k g hg ha
theorem witness_imageFails : (noKeys).verify false (imgOf 0) = none := by
  have hw : imageWellFormed (imgOf 0) = true := by rw [imageWellFormed, imgOf_inRange 0 (by decide)]; decide +kernel
  unfold Sec.verify
  rw [hw]
  simp only [Bool.not_true, Bool.false_eq_true, if_false, Option.map_eq_none_iff, List.find?_eq_none]
  have hs : ∀ g ∈ imageSigList (imgOf 0), field g 0 4 = 0 := by decide +kernel
  have hu : (noKeys).usable false 0 = false := by decide
  intro g hg
  simp [Sec.accepts, hs g hg, hu]

theorem witness_mailboxMemory :
  asked 0x10 (leBytes 4 1 ++ zeros 4 ++ leBytes 8 0x5000) false (upPart) = true ∧ (mail 0x10 (leBytes 4 1 ++ zeros 4 ++ leBytes 8 0x5000) false (upPart)).inFlight (fun ck => partOfCtx ck = 1) = false
  ∧ (kget (upPart).parts 1).isSome = true ∧ asked 0x11 (leBytes 4 1 ++ zeros 4 ++ leBytes 8 0) false (upPart) = true ∧ field (leBytes 4 1 ++ zeros 4 ++ leBytes 8 0) 0 4 < 24
  ∧ asked 0x12 (fotArg 16 1) false (upPart) = true ∧ (upPart).inFlight (fun _ => true) = false ∧ (upPart).backed (65536 * 16) = true ∧ (upPart).inFot (65536 * 16) = false ∧ 16 ∉ (upPart).retiredFrames
  ∧ (upPart).framesOf 1 + 1 ≤ ((upPart).part 1).memquota.toNat ∧ ((upPart 0).part 1).memquota.toNat < (upPart 0).framesOf 1 + 1
  ∧ fotOwner ((upPart).fotEntry 16) ≠ 1 ∧ fotOwner (({ upPart with fot := [(16, 0x1E)] } : State).fotEntry 16) = 1
  ∧ asked 0x13 (leBytes 4 0 ++ leBytes 4 8) = true ∧ (mail 0x13 (leBytes 4 0 ++ leBytes 4 8)).busOk 0x8000 (min 8 64) = true := by
  and_intros <;> decide

theorem witness_mailboxOutput :
  (outArg 0 1).length = 64 ∧ asked 0x20 (outArg 0 1) = true ∧ outCfgOk 0 (outCfgOf (outArg 0 1)) = true ∧ outCfgOk 0 (outCfgOf (outArg 0 1 3)) = false ∧ (outCfgOf (outArg 0 1)).en = true
  ∧ (outCfgOf (outArg 0 0)).en = false ∧ field (outArg 0 1) 1 1 < 32 ∧ zeroAt (outArg 0 1) 31 1 = true ∧ zeroAt (outArg 0 1) 48 16 = true ∧ (kget up.outs 0).isSome = true ∧ 3 < field (outArg 4 1) 0 1 := by
  and_intros <;> decide

def spdmReq (code p1 p2 n : Nat) : List Byte := [0x12, BitVec.ofNat 8 code, BitVec.ofNat 8 p1, BitVec.ofNat 8 p2] ++ zeros (n - 4)
theorem witness_spdm :
  up.running = true ∧ up.plat.boot = .ready ∧ field (spdmReq 0x84 0 0 4) 1 1 = 0x84 ∧ 4 ≤ (spdmReq 0x84 0 0 4).length ∧ (spdmReq 0x83 0 0 36).length = 36 ∧ (spdmReq 0x82 0 0 7).length < 8
  ∧ ({ version := true } : Spdm).caps = false ∧ ({ version := true, caps := true } : Spdm).algs = false ∧ field ([0x12, 0xE3, 0, 0, 0, 0, 0, 0, 4, 0, 0, 0, 2, 0, 0, 0] : List Byte) 8 4 / 4 % 2 = 1
  ∧ field ([0x12, 0xE3, 0, 0, 0, 0, 0, 0, 4, 0, 0, 0, 2, 0, 0, 0] : List Byte) 12 4 / 2 % 2 = 1 ∧ field (spdmReq 0xE0 0 7 4) 3 1 = 7 ∧ field (spdmReq 0xE0 0 7 4) 2 1 % 2 = 0
  ∧ field (spdmReq 0x81 0 0 37) 1 1 = 0x81 ∧ 37 ≤ (spdmReq 0x81 0 0 37).length
  ∧ field (spdmReq 0x81 0 0 4) 0 1 = 0x12 ∧ field (spdmReq 0x84 0 0 4) 0 1 ≠ 0x10 ∧ field (spdmReq 0xEA 0 0 4) 1 1 ∉ [0x84, 0xE1, 0xE3, 0x81, 0x82, 0x83, 0xE0]
  ∧ field ([0x10, 0x84, 0, 0] : List Byte) 0 1 = 0x10 := by
  and_intros <;> decide
/-- A certificate chain that is not empty has its first byte. -/
theorem witness_certificate (h : Config.certChain ≠ []) : 0 < Config.certChain.length := List.length_pos_iff.mpr h

/-! ### Commands -/

/-- R45: the bytes of a command: its header and its body from byte 16. -/
def cmdBytes (opc count : Nat) (body : List Byte) : List Byte :=
  [BitVec.ofNat 8 opc, 1, BitVec.ofNat 8 count, 0, 0, 0, 0, 0] ++ leBytes 8 0x77 ++ body ++ zeros (64 * count - 16 - body.length)
/-- A machine that has booted, with the page, whose PF0 context 0 has the command at the head of its queue in host memory. -/
def stCmd (l : List Byte) (s : State := memBase) (n : Nat := 1) : State :=
  { s with plat := { s.plat with boot := .ready }, hostMem := setBytes s.hostMem (hostKey 0 0x1000) l, outs := [(0, { attached := true, part := 31, cfg := { en := true, hactive := 640, vactive := 480 } })]
           ctxs := kset s.ctxs (ctxKey 31 0) { s.ctx (ctxKey 31 0) with queue := qHost 0 (BitVec.ofNat 32 n) } }
/-- What a handler asks of the command at the head, and more of the command and the state it leaves. -/
def heads (opc count : Nat) (cls : Option Nat) (s : State) (more : Cmd → State → Bool := fun _ _ => true) : Bool :=
  match s.headCmd 0 0 with
  | (u, some c) => c.fn = 0 && c.ck = ctxKey (partOfFn 0) 0 && (kget u.ctxs c.ck).isSome && c.opc = opc && c.count = count && u.allowed c.ck cls && decide (c.at 1 1 < 2) && zeroAt c.bytes 3 5
      && s.inFlight (fun k => k = ctxKey (partOfFn 0) 0) = false && (s.queue (ctxKey 31 0)).hold = none && more c (offQueue u c)
  | _ => false

/-- The order of the checks: not allowed, reserved, and of a wrong count. -/
def stDeny (l : List Byte) : State := let s := stCmd l; { s with ctxs := kset s.ctxs (ctxKey 31 0) { s.ctx (ctxKey 31 0) with allow := 0 } }
/-- A partition whose visit of context 0 has taken `n` commands, with a second queue. -/
def stTaken (n : Nat) : State :=
  let s := stCmd (cmdBytes 0 1 [])
  { s with parts := kset s.parts 31 { s.part 31 with taken := n }, ctxs := kset s.ctxs (ctxKey 31 1) { allow := 0xFFFF, queue := qHost 0 1 } }

theorem witness_commandFetch :
  (stCmd (cmdBytes 0 1 [])).fetches 0 (ctxKey 31 0) = true ∧ kget (stCmd (cmdBytes 0 1 [])).ctxs (ctxKey 31 0) = some ((stCmd (cmdBytes 0 1 [])).ctx (ctxKey 31 0))
  ∧ ((stCmd (cmdBytes 0 1 [])).ctx (ctxKey 31 0)).queue.hostmem = true ∧ (stCmd (cmdBytes 0 1 [])).hostAbsent = [] ∧ field (bytesAt (stCmd (cmdBytes 0 1 [])).hostMem (hostKey 0 0x1000) 64) 2 1 = 1
  ∧ field (bytesAt (stCmd (cmdBytes 0 1 [] |>.set 2 0)).hostMem (hostKey 0 0x1000) 64) 2 1 = 0 ∧ field (bytesAt (stCmd (cmdBytes 0 1 [] |>.set 2 5)).hostMem (hostKey 0 0x1000) 64) 2 1 = 5
  ∧ ((1#32) - (0#32)).toNat < 2 ∧ heads 0 1 none (stCmd (cmdBytes 0 1 [])) = true ∧ heads 0x0D 1 none (stCmd (cmdBytes 0x0D 1 [])) = true
  ∧ (stCmd (cmdBytes 0 1 [])).mayVisit 0 0 = true ∧ (stDeny []).mayVisit 0 1 = true ∧ (stTaken 15).mayVisit 0 0 = true ∧ (stTaken 16).mayVisit 0 0 = false ∧ (stTaken 16).mayVisit 0 1 = true
  ∧ (0, (0x1000#64).toNat / 4096) ∈ ({ stCmd (cmdBytes 0 1 []) with hostAbsent := [(0, 1)] } : State).hostAbsent := by
  and_intros <;> decide +kernel

theorem witness_commandChecks : ∀ row ∈ [(1, 0), (2, 1), (3, 2), (4, 2), (5, 3), (6, 4), (9, 6), (10, 6)],
    heads row.1 1 none (stDeny (cmdBytes row.1 1 [])) (fun c u => !u.allowed c.ck (some row.2)) = true
    ∧ heads row.1 (if row.1 < 9 then 2 else 1) (some row.2) (stCmd (cmdBytes row.1 (if row.1 < 9 then 2 else 1) []) memBase 2) = true
    ∧ (match (stCmd ((cmdBytes row.1 1 []).set 3 1)).headCmd 0 0 with | (_, some c) => !zeroAt c.bytes 3 5 | _ => false) = true := by decide +kernel

/-- A LAUNCH of the record at 0x200, 0x280 or 0x300, or of an address that is no address. -/
def stLaunch (va coreset : Nat) : State := stCmd (cmdBytes 1 1 (leBytes 8 va)) (memRec (BitVec.ofNat 96 coreset))
def launchOf (va coreset : Nat) : Nat :=
  match (stLaunch va coreset).headCmd 0 0 with | (u, some c) => verdict ((offQueue u c).checkLaunch c.ck c.tag true 0 (c.addr 16)) | _ => 1000
theorem witness_launchCommand : heads 1 1 (some 0) (stLaunch 0x200 1) (fun c _ => zeroAt c.bytes 24 40) = true ∧ launchOf 0x200 1 = 0 ∧ launchOf 0x300 1 = 2 ∧ launchOf 0x800000000000 1 = 261 := by
  and_intros <;> decide +kernel

def copyBody (src dst n fl : Nat) : List Byte := leBytes 8 src ++ leBytes 8 dst ++ leBytes 8 n ++ [BitVec.ofNat 8 fl]
theorem witness_copyCommand :
  heads 2 1 (some 1) (stCmd (cmdBytes 2 1 (copyBody 0x4000 8 (2 ^ 40) 1))) (fun c v => c.at 40 1 < 4 && zeroAt c.bytes 41 23 && c.at 32 8 = 2 ^ 40
    && hostRangeOk v c.ck true (c.addr 16) .read && hostRangeOk v c.ck false (c.addr 24) .write) = true
  ∧ heads 2 1 (some 1) (stCmd (cmdBytes 2 1 (copyBody 0x4000 8 0 1))) (fun c _ => c.at 32 8 = 0) = true ∧ heads 2 1 (some 1) (stCmd (cmdBytes 2 1 (copyBody 0 0 (2 ^ 40 + 1) 3))) (fun c _ => c.at 32 8 > 2 ^ 40) = true
  ∧ heads 2 1 (some 1) (stCmd (cmdBytes 2 1 (copyBody 0x4000 0x1000 8 1))) (fun c v => !hostRangeOk v c.ck false (c.addr 24) .write) = true := by
  and_intros <;> decide +kernel

def hCopy : HostCopy := { id := 9, ctx := ctxKey 31 0, src := 0x4FF8, dst := 0xFF8, bytes := 8, srcHost := true, dstHost := false, seq := 0 }
def stHc (absent : List (Nat × Nat) := []) : State := { stCmd [] with hostCopies := [hCopy], hostAbsent := absent }
def reached (a : Acc) : Nat := match a with | .dev pa false => pa | _ => 0
theorem witness_hostCopy :
  (stHc).hostCopies.find? (fun x => x.id = hCopy.id) = some hCopy ∧ hCopy.src.toNat % 4096 + hCopy.bytes ≤ 4096 ∧ hCopy.dst.toNat % 4096 + hCopy.bytes ≤ 4096
  ∧ ((stHc [(0, 4)]).pasidOf hCopy.ctx, hCopy.src.toNat / 4096) ∈ (stHc [(0, 4)]).hostAbsent ∧ ((stHc).pasidOf hCopy.ctx, hCopy.src.toNat / 4096) ∉ (stHc).hostAbsent
  ∧ (stHc).cut 0x104FF8 8 = false ∧ reached ((stHc).access (stHc).freeCtr hCopy.ctx hCopy.dst .write).1 = 0x104FF8 ∧ ((stHc).part (partOfCtx hCopy.ctx)).pausing = false
  ∧ (∀ o ∈ ((stHc).queue hCopy.ctx).opened, o.seq = hCopy.seq → o.complete = false) := by
  and_intros <;> decide +kernel

/-- A fence at 0x3000 of host memory, whose value is 5. -/
def fenceBody (a v : Nat) : List Byte := leBytes 8 a ++ leBytes 8 v ++ [1]
def stFence (opc a v : Nat) : State := let s := stCmd (cmdBytes opc 1 (fenceBody a v)); { s with hostMem := setBytes s.hostMem (hostKey 0 0x3000) (leBytes 8 5) }
def fenceOk (v : Nat) (c : Cmd) (u : State) : Bool :=
  c.at 32 1 = 1 && zeroAt c.bytes 33 31 && c.at 16 8 % 8 = 0 && u.hostAbsent = [] && word64 (bytesAt u.hostMem (hostKey (u.pasidOf c.ck) (c.addr 16).toNat) 8) = 5 && (c.addr 24).toNat = v
    && (u.queue c.ck).signals = [] && (u.queue c.ck).opened = []
def stRecheck (b : DWord) : State :=
  let s := stFence 3 0x3000 6
  { s with ctxs := kset s.ctxs (ctxKey 31 0) { s.ctx (ctxKey 31 0) with queue := { qHost 1 1 with hold := some (.wait 0x3000 b true 0), opened := [{ seq := 0, tag := 0, gen := 0, complete := false }] } } }
theorem witness_fences :
  heads 3 1 (some 2) (stFence 3 0x3000 6) (fenceOk 6) = true ∧ heads 3 1 (some 2) (stFence 3 0x3000 5) (fenceOk 5) = true ∧ heads 3 1 (some 2) (stFence 3 0x3004 5) (fun c _ => c.at 16 8 % 8 ≠ 0) = true
  ∧ heads 4 1 (some 2) (stFence 4 0x3000 9) (fenceOk 9) = true
  ∧ ((stRecheck 6).queue (ctxKey 31 0)).hold = some (.wait 0x3000 6 true 0) ∧ (match (stRecheck 6).fenceRead (ctxKey 31 0) true 0x3000 with | .value w => w = 5 | _ => false) = true
  ∧ (stRecheck 6).running = true ∧ ((stRecheck 6).queue (ctxKey 31 0)).en = true ∧ ((stRecheck 6).part (partOfFn 0)).paused = false := by
  and_intros <;> decide +kernel

theorem witness_invalidation :
  heads 6 1 (some 4) (stCmd (cmdBytes 6 1 (leBytes 8 0x5000 ++ leBytes 4 1))) (fun c _ => zeroAt c.bytes 28 36 && (c.addr 16).toNat % 4096 = 0 && c.at 24 4 = 1) = true
  ∧ heads 6 1 (some 4) (stCmd (cmdBytes 6 1 (leBytes 8 0x5008))) (fun c _ => zeroAt c.bytes 28 36 && (c.addr 16).toNat % 4096 ≠ 0) = true
  ∧ ((0x5FFF#64) - (0x5000#64)).toNat < 4096 * 1
  ∧ heads 7 1 (some 4) (stCmd (cmdBytes 7 1 (leBytes 8 0x100)) memPrec) (fun c v => zeroAt c.bytes 24 40 && !(stCmd [] memPrec).lodCopies (ctxKey 31 0) (c.addr 16) && (c.addr 16).toNat % 64 = 0
      && v.operandOk c.ck (c.addr 16) .read && match v.readVirt c.ck none (c.addr 16) 320 with | (_, .bytes _) => true | _ => false) = true
  ∧ heads 7 1 (some 4) (stCmd (cmdBytes 7 1 (leBytes 8 0x2040))) (fun c v => zeroAt c.bytes 24 40 && (c.addr 16).toNat % 64 = 0 && !v.operandOk c.ck (c.addr 16) .read) = true := by
  and_intros <;> decide +kernel

/-- R242: a window over 0x4000 of 4 KiB whose image of four bytes is at 0x80; its abort block is at 0x40. -/
def awlBody (act slot : Nat) (budget : Nat := 1024) : List Byte :=
  [BitVec.ofNat 8 act, BitVec.ofNat 8 slot, 15, 0] ++ leBytes 2 budget ++ [0, 0] ++ leBytes 8 0x4000 ++ leBytes 8 4096 ++ leBytes 8 0x80 ++ leBytes 4 4 ++ leBytes 4 0 ++ leBytes 8 0x40
def stAwlReg (act slot : Nat) (budget : Nat := 1024) : State :=
  let s := stCmd (cmdBytes 8 2 (awlBody act slot budget)) memBase 2
  { s with ctxs := kset s.ctxs (ctxKey 31 0) { s.ctx (ctxKey 31 0) with windows := [(1, winOf)] } }
theorem witness_awlRegistration :
  heads 8 2 (some 5) (stAwlReg 0 7) (fun c v => awlReserved c && c.at 16 1 = 0 && awlRangeOk c (v.ctx c.ck) && v.deviceOk c.ck (c.addr 56) .atomic false
    && match v.readVirt c.ck (some c.tag) (c.addr 40) (c.at 48 4) with | (_, .bytes _) => true | _ => false) = true
  ∧ heads 8 2 (some 5) (stAwlReg 0 7 1025) (fun c v => awlReserved c && !awlRangeOk c (v.ctx c.ck)) = true ∧ heads 8 2 (some 5) (stAwlReg 2 0) (fun c _ => awlReserved c && 2 ≤ c.at 16 1) = true
  ∧ heads 8 2 (some 5) (stAwlReg 1 1) (fun c v => awlReserved c && c.at 17 1 ≤ 7 && (kget (v.ctx c.ck).windows (c.at 17 1)).isSome) = true
  ∧ heads 8 2 (some 5) (stAwlReg 1 8) (fun c v => awlReserved c && 7 < c.at 17 1 && kget (v.ctx c.ck).windows (c.at 17 1) = none) = true ∧ (∀ e ∈ (stAwlReg 1 1).awls, e.2.run = none) := by
  and_intros <;> decide +kernel

/-- R54: a CTX of context 4 with brand 7. -/
def ctxBody (act num brand : Nat) : List Byte := [BitVec.ofNat 8 act, 1] ++ leBytes 2 num ++ leBytes 2 brand ++ leBytes 2 0xFFFF ++ leBytes 8 placeBase
def stCtx (act num brand : Nat) (some4 : Bool := false) : State :=
  let s := stCmd (cmdBytes 11 4 (ctxBody act num brand)) memBase 4
  { s with ctxs := if some4 then kset s.ctxs (ctxKey 31 4) {} else s.ctxs, launches := [] }
def newCtx (c : Cmd) (old : Ctx) : Ctx :=
  { old with strict := c.at 17 1 % 2 = 1, s1root := c.addr 24, pasid := BitVec.ofNat 20 (c.at 32 4), wdog := BitVec.ofNat 16 (c.at 36 2), trapbase := c.addr 40
             savebase := c.addr 48, savesize := c.addr 56, pinquota := BitVec.ofNat 32 (c.at 64 4) }
theorem witness_contextCommand :
  heads 11 4 (some 7) (stCtx 0 4 7) (fun c v => ctxReserved c && c.at 16 1 = 0 && kget v.ctxs (ctxKey 31 4) = none
    && v.ctxStatus c (newCtx c { brand := BitVec.ofNat 16 (c.at 20 2), allow := BitVec.ofNat 16 (c.at 22 2) &&& (v.ctx c.ck).allow }) = 0) = true
  ∧ heads 11 4 (some 7) (stCtx 2 4 7 true) (fun c v => ctxReserved c && c.at 16 1 = 2 && v.ctxStatus c (newCtx c (v.ctx (ctxKey 31 4))) = 0) = true
  ∧ heads 11 4 (some 7) (stCtx 0 4 0) (fun c _ => ctxReserved c && c.at 20 2 = 0) = true ∧ heads 11 4 (some 7) (stCtx 0 4 0xFFF0) (fun c _ => ctxReserved c && c.at 20 2 = 0xFFF0) = true
  ∧ heads 11 4 (some 7) (stCtx 0 256 7) (fun c _ => ctxReserved c && 255 < c.at 18 2) = true ∧ heads 11 4 (some 7) (stCtx 2 4 7) (fun c v => ctxReserved c && kget v.ctxs (ctxKey 31 4) = none) = true
  ∧ heads 11 4 (some 7) (stCtx 1 4 7 true) (fun c v => ctxReserved c && c.at 18 2 ≠ 0 && c.at 18 2 ≤ 255 && (kget v.ctxs (ctxKey 31 4)).isSome) = true
  ∧ heads 11 4 (some 7) (stCtx 1 0 7) (fun c _ => ctxReserved c && c.at 18 2 = 0) = true ∧ (stCtx 1 4 7 true).hostCopies = [] := by
  and_intros <;> decide +kernel

/-- R72, R73: a PART_CFG of partition `p` with its flags; it owns core 1 and every colour. -/
def partBody (p flags : Nat) (cores : Nat := 2) (quota : Nat := 16) : List Byte :=
  [BitVec.ofNat 8 p] ++ zeros 47 ++ [BitVec.ofNat 8 flags] ++ zeros 31 ++ leBytes 2 1 ++ leBytes 2 0xFFFF ++ leBytes 12 cores ++ leBytes 4 quota ++ leBytes 4 quota ++ leBytes 8 (2 ^ 64 - 1)
def stPart (p flags : Nat) (old : Part) (cores : Nat := 2) (quota : Nat := 16) : State :=
  let s := stCmd (cmdBytes 12 2 (partBody p flags cores quota)) memBase 2
  { s with parts := [(1, old), (31, { en := true, coreset := 1, colours := 0xFFFFFFFFFFFFFFFF })], funcs := [(0, {}), (2, {})], ctxs := kset s.ctxs (ctxKey 1 0) {} }
def oldOn (paused : Bool := false) : Part := { en := true, coreset := 2, colours := 0xFFFFFFFFFFFFFFFF, paused := paused }
def partFits (k : PartKind) (s : State) : Bool :=
  heads 12 2 (some 8) s fun c v => partReserved c && partKind s c = k && (partNumbers.contains (partNum c)) && (kget v.parts (partNum c)).isSome && !v.entryBad (partNum c) (partEntry c)
    && !changeBad (partNum c) (v.part (partNum c)) (partEntry c)
theorem witness_partitionCommand :
  partFits .write (stPart 1 1 {}) = true ∧ partFits .write (stPart 31 1 {} 1 0xFFFFFFFF) = true ∧ partFits .disable (stPart 1 0 (oldOn)) = true ∧ partFits .pause (stPart 1 5 (oldOn)) = true
  ∧ partFits .resume (stPart 1 1 (oldOn true)) = true ∧ heads 12 2 (some 8) (stPart 24 1 {}) (fun c _ => partReserved c && !partNumbers.contains (partNum c)) = true
  ∧ heads 12 2 (some 8) (stPart 1 1 {} 1) (fun c v => partReserved c && v.entryBad (partNum c) (partEntry c)) = true
  ∧ heads 12 2 (some 8) (stPart 1 1 (oldOn) 4) (fun c v => partReserved c && changeBad (partNum c) (v.part (partNum c)) (partEntry c)) = true
  ∧ (kget (stPart 1 1 (oldOn true)).funcs (fnOfPart 1)).isSome = true ∧ (kget (stPart 1 1 {}).ctxs (ctxKey 1 0)).isSome = true := by
  and_intros <;> decide +kernel

/-- R101: a GRANT of slot `n` from brand 5 to brand 6. -/
def grantBody (act n gen : Nat) (y1 : Nat := 8) : List Byte :=
  [BitVec.ofNat 8 act, 1] ++ leBytes 2 n ++ leBytes 2 gen ++ leBytes 2 5 ++ leBytes 2 6 ++ [0, 0] ++ leBytes 2 0 ++ leBytes 2 0 ++ leBytes 2 8 ++ leBytes 2 y1
def aGrant : Grant := { grantor := 5, grantee := 6, kind := 0, out := 0, rights := 1, x0 := 0, y0 := 0, x1 := 8, y1 := 8 }
def stGrant (act n gen : Nat) (old : KMap Grant) (y1 : Nat := 8) : State :=
  let s := stCmd (cmdBytes 9 2 (grantBody act n gen y1)) memBase 2
  { s with parts := kset s.parts 31 { s.part 31 with grants := old } }
def grantFits (act n gen : Nat) (old : KMap Grant) : Bool :=
  heads 9 2 (some 6) (stGrant act n gen old) fun c v => grantReserved c && (kget v.parts c.part).isSome && c.at 16 1 = act && c.at 18 2 ≤ 255
    && c.at 20 2 = ((kget (v.part c.part).grantGens (c.at 18 2)).getD 0).toNat && (kget (v.part c.part).grants (c.at 18 2)).isSome = (act ≠ 0) && v.grantOk c.part (grantOf c)
theorem witness_grants :
  grantFits 0 255 0 [] = true ∧ grantFits 1 0 0 [(0, aGrant)] = true ∧ grantFits 2 0 0 [(0, aGrant)] = true ∧ grantFits 1 0 0 [] = false ∧ grantFits 0 0 1 [] = false
  ∧ heads 9 2 (some 6) (stGrant 0 256 0 []) (fun c _ => grantReserved c && 255 < c.at 18 2) = true ∧ heads 9 2 (some 6) (stGrant 0 0 0 [] 0) (fun c _ => grantReserved c && c.at 34 2 ≤ c.at 30 2) = true := by
  and_intros <;> decide +kernel

/-! ### Composition and the outputs -/

/-- R97, R104: an OWNMAP of output 0: its rectangle in tiles and the data at an address; or a region's fields. -/
def ownBody (act x y w h addr : Nat) : List Byte :=
  [BitVec.ofNat 8 act, 0, 0, 0] ++ leBytes 2 x ++ leBytes 2 y ++ leBytes 2 w ++ leBytes 2 h ++ leBytes 4 1 ++ leBytes 8 addr
def regBody (x1 : Nat) : List Byte := [3, 0, 0, 0] ++ zeros 20 ++ [15, 3, 3, 255] ++ leBytes 2 0 ++ [0, 0] ++ leBytes 2 0 ++ leBytes 2 0 ++ leBytes 2 x1 ++ leBytes 2 480
def stOwn (l : List Byte) (part : Nat := 31) : State :=
  let s := stCmd (cmdBytes 10 2 l) (put memBase 0x200 [5, 0, 0, 0, 0xF0, 0xFF, 0, 0]) 2
  { s with outs := [(0, { part := part, cfg := { en := true, hactive := 640, vactive := 480 } })] }
def ownFits (l : List Byte) (part : Nat := 31) (more : Cmd → State → Bool := fun _ _ => true) : Bool :=
  heads 10 2 (some 6) (stOwn l part) fun c v => ownReserved c && c.at 17 1 ≤ 3 && (kget v.outs (c.at 17 1)).isSome && more c v
def readsTiles (legal : Bool) (c : Cmd) (v : State) : Bool :=
  c.at 18 1 ≤ 1 && c.at 20 2 + c.at 24 2 ≤ tilesOf (v.out 0).cfg.hactive && c.at 22 2 + c.at 26 2 ≤ tilesOf (v.out 0).cfg.vactive
    && match v.readVirt c.ck (some c.tag) (c.addr 32) (4 * c.at 24 2 * c.at 26 2) with | (_, .bytes l) => ((unpack 4 l).map (BitVec.ofNat 32)).all tileLegal = legal | _ => false
theorem witness_ownershipMaps :
  ownFits (ownBody 0 39 29 1 1 0x200) 31 (readsTiles true) = true ∧ ownFits (ownBody 0 0 0 2 1 0x200) 31 (readsTiles false) = true
  ∧ ownFits (ownBody 0 40 0 1 1 0x200) 31 (fun c v => c.at 18 1 ≤ 1 && tilesOf (v.out 0).cfg.hactive < c.at 20 2 + c.at 24 2) = true ∧ ownFits (ownBody 0 0 0 1 1 0x200) 3 (fun c v => (v.out 0).part ≠ c.part) = true
  ∧ ownFits (ownBody 1 4096 0 0 0 0x400) 31 (fun c v => c.at 18 1 ≤ 1 && c.at 20 2 + c.at 24 2 ≤ 4096 && match v.readVirt c.ck (some c.tag) (c.addr 32) (512 * c.at 24 2) with
      | (_, .bytes l) => (unpack 2 l).all (· < 0xFFF0) | _ => false) = true
  ∧ ownFits (regBody 640) 31 (fun c v => c.at 16 1 = 3 && c.at 40 1 ≤ 15 && c.at 41 1 ≤ 3 && c.at 42 1 ≤ 3 && c.at 52 2 ≤ (v.out 0).cfg.hactive && c.at 54 2 ≤ (v.out 0).cfg.vactive) = true
  ∧ ownFits (ownBody 2 0 0 0 0 0) 31 (fun c _ => c.at 16 1 = 2 && partNumbers.contains (c.at 28 4)) = true := by
  and_intros <;> decide +kernel

def presentBody (out cap : Nat) : List Byte := leBytes 8 0x200 ++ [BitVec.ofNat 8 out, BitVec.ofNat 8 cap, 1, 0]
def aPresent (cap : Bool := false) (seq : Nat := 0) : Present :=
  { ctx := ctxKey 31 0, surf := Surf.parse (surfBytes 1), out := 0, capture := cap, ratediv := 2, ox := 0, oy := 0, fill := 0, stamp := 0, tag := 0x77, gen := 0, need := seq }
def stPresent (out cap brand : Nat) (shows : List Present := []) (part : Nat := 31) : State :=
  let s := stCmd (cmdBytes 5 1 (presentBody out cap)) (memTex brand)
  { s with outs := [(0, { part := part, shows := shows, cfg := { en := true, hactive := 640, vactive := 480 } }), (4, {})] }
def presentFits (st : Nat) (c : Cmd) (v : State) : Bool :=
  c.at 24 1 ≤ 3 && (v.out 0).part = c.part && c.at 16 8 % 64 = 0 && (v.queue c.ck).hold = none && match v.readVirt c.ck (some c.tag) (c.addr 16) 64 with | (w, .bytes l) => w.presentStatus c l = st && (w.ctx c.ck).suppressed = 0 | _ => false
theorem witness_present :
  heads 5 1 (some 3) (stPresent 0 0 1) (fun c v => presentReserved c && (kget v.outs (c.at 24 1)).isSome && presentFits 0 c v && ((v.out 0).queued c.ck false).length < 4) = true
  ∧ heads 5 1 (some 3) (stPresent 0 0 1 (List.replicate 4 (aPresent))) (fun c v => presentFits 0 c v && 4 ≤ ((v.out 0).queued c.ck false).length) = true
  ∧ heads 5 1 (some 3) (stPresent 0 0 9) (fun c v => presentReserved c && presentFits 4 c v) = true ∧ heads 5 1 (some 3) (stPresent 4 0 1) (fun c v => 3 < c.at 24 1 && (kget v.outs (c.at 24 1)).isSome) = true
  ∧ heads 5 1 (some 3) (stPresent 0 1 1 [] 5) (fun c v => c.at 25 1 = 1 && (v.out 0).part ≠ c.part) = true := by
  refine ⟨by decide +kernel, by decide +kernel, by decide +kernel, by decide +kernel, by decide +kernel⟩

/-- Output 0 on, with frames queued and one latched. -/
def outOn (shows : List Present := []) (latched : List Latched := []) (scan : Nat := 2) (now : Bool := false) (maps : List MapWrite := []) : Out :=
  { cfg := { en := true, hactive := 640, vactive := 480 }, shows := shows, latched := latched, scan := scan, latchedNow := now, pendingMaps := maps, regions := [(0, { effect := 1, amount := 255, x0 := 0, y0 := 0, x1 := 8, y1 := 8 })] }
def stOut (o : Out) : State := { up with outs := [(0, o)] }
theorem witness_latchAndScanout :
  (stOut (outOn)).running = true ∧ kget (stOut (outOn)).outs 0 = some (outOn) ∧ (outOn).latchedNow = false ∧ (outOn [] [] 2 true).latchedNow = true ∧ (outOn).cfg.en = true ∧ ({} : Out).cfg.en = false
  ∧ ({} : Out).pending = none ∧ (outOn [] [] 2 false [.assign]).pendingMaps = [.assign] ∧ (outOn [aPresent]).shows = [aPresent] ∧ (stOut (outOn [aPresent])).finished aPresent = true
  ∧ (kget (stOut (outOn [aPresent])).ctxs (aPresent).ctx).isSome = true ∧ (stOut (outOn [aPresent])).ctxs.map Prod.fst = [(aPresent).ctx] ∧ (outOn [aPresent]).captures = []
  ∧ (∀ l ∈ (outOn [aPresent] [{ p := aPresent, scan := 1, shown := true }]).latched, l.p.ctx = (aPresent).ctx) ∧ 2 < 1 + (aPresent).ratediv ∧ 1 + (aPresent).ratediv ≤ 3
  ∧ (stOut (outOn [] [] 2 true)).scanWaits (outOn [] [] 2 true) = false ∧ (outOn).cfg.hactive ≤ 16384 ∧ 639 < (outOn).cfg.hactive ∧ ({ outOn with regions := [] } : Out).frontAt 639 479 = 0 ∧ (outOn).regionAt 7 7 = some { effect := 1, amount := 255, x0 := 0, y0 := 0, x1 := 8, y1 := 8 } := by
  and_intros <;> first | decide | rfl

/-! ### Errors, pre-emption, traps -/

def anErr (e : ErrSite) : ErrRec := { number := 0, die := 0, macroCode := (siteCode e).1, index := (siteCode e).2.1, unit := (siteCode e).2.2, uncorrectable := true, outcome := 0, part := 0, lost := 0, bcyc := 0 }
def gWdog (wait : Nat) (count : Nat) : Group := { g0 with wait := wait, wdog := count }
def stWdog (g : Group) : State := { stOf g with ctxs := [(ctxKey 31 0, { wdog := 1 })] }
theorem witness_errors :
  ({ up with plat := { up.plat with reliable := true } } : State).plat.reliable = true ∧ up.plat.reliable = false ∧ (stAwl (awlOf [])).line? 0x104000 = some {}
  ∧ ({ stAwl (awlOf []) with lines := [(lineOf 0x104000, { dirty := true })] } : State).line? 0x104000 = some { dirty := true } ∧ ((stAwl (awlOf [])).awl sl).run = some qAwl
  ∧ ((stOf g0 { placedBlock with spmSize := 64 }).blocks.filter fun x => x.2.core = 0 && x.2.resident && x.2.spmBase ≤ 63 && 63 < x.2.spmBase + x.2.spmSize) = [(2, { placedBlock with spmSize := 64 })]
  ∧ up.corrected = [] ∧ ErrSite.bridle ∉ up.selfTests ∧ ErrSite.bridle ∈ ({ up with selfTests := [.bridle] } : State).selfTests
  ∧ ({ up with corrected := List.replicate 15 (.bridle, up.plat.bridleCycles) } : State).corrected.length = 15 ∧ (anErr (.spm 0 63)).die = (stOf g0).siteDie (.spm 0 63)
  ∧ (kget (stOf g0).parts 31).map (·.coreset) = some 3 ∧ (kget up.cores 0).isSome = true
  ∧ ({ up with errTable := [anErr .bridle] } : State).errTable = [] ++ [anErr .bridle] ∧ (anErr .bridle).outcome = 0 ∧ (anErr .bridle).macroCode = (siteCode .bridle).1 := by
  and_intros <;> decide

theorem witness_watchdog :
  ((stWdog (gWdog 1 65536)).envOf 0 0).map (fun e => (e.g.wait, e.ctx.wdog, e.g.wdog, e.g.doubleTrap)) = some (1, 1, 65536, false)
  ∧ ((stWdog (gWdog 9 65536)).envOf 0 0).map (·.g.wait) = some 9 ∧ ((stWdog (gWdog 13 65535)).envOf 0 0).map (fun e => decide (e.g.wdog < 65536 * e.ctx.wdog.toNat)) = some true
  ∧ ((stOf (gWdog 1 65536)).envOf 0 0).map (·.ctx.wdog) = some 0 := by decide

def gPerf (code : Nat) (on : Bool) : Group := { g0 with pctl := BitVec.ofNat 32 (code * 2 ^ 18 + if on then 2 ^ 27 else 0), pcs := [0, 0, 0, 0xFFFFFFFF] }
theorem witness_perfAndModes :
  8 ≤ ((gPerf 8 true).pctl.extractLsb' 18 6).toNat ∧ ((gPerf 13 true).pctl.extractLsb' 18 6).toNat ≤ 13 ∧ (gPerf 8 true).pctl.getLsbD 27 = true ∧ (gPerf 8 true).pcs[3]? = some 0xFFFFFFFF
  ∧ (gPerf 8 false).pctl.getLsbD 27 = false ∧ up.running = true ∧ up.backed (65536 * 16) = true := by decide

def stStop (paused : Bool := true) (pipe : List MatOp := []) : State :=
  { stOf g0 with parts := [(31, { en := true, coreset := 3, paused := paused })], cores := [(0, { pipe := pipe }), (1, {})] }
def aSaved : Saved := { addr := 0, bytes := 64, bid := 2, groups := [g0] }
def stBack : State :=
  { stStop false with groups := [], blocks := [(2, { placedBlock with resident := false })], ctxs := [(ctxKey 31 0, { saved := [aSaved] })] }
theorem witness_preemption :
  (stStop).stopping 31 0 = true ∧ (stStop false).stopping 31 0 = false ∧ (stStop true [mOp 1]).mayStop 0 2 = false ∧ (stStop).mayStop 0 2 = true
  ∧ ((stStop).blocks.filter fun e => e.2.core = 0 && e.2.resident && (stStop).ctxOfBlock e.2 = some (ctxKey 31 0)) = [(2, placedBlock)] ∧ ((stStop).core 0).pinned = none ∧ ((stStop).core 0).rings = []
  ∧ (kget (stStop).ctxs (ctxKey 31 0)).isSome = true ∧ (∀ g ∈ (stStop).groups, g.2.block = 2 → g.2.resps = [] ∧ g.2.index < 64) ∧ (stBack).mayRestore 0 31 = true ∧ (stStop).mayRestore 0 31 = false
  ∧ (∀ e ∈ (stBack).launches, e.2.pins = [] ∧ e.2.rings = []) ∧ ((stBack).ctx (ctxKey 31 0)).saved = [aSaved] ∧ kget (stBack).blocks aSaved.bid = some { placedBlock with resident := false }
  ∧ ({ placedBlock with resident := false } : Block).prog ≠ .task ∧ ((stBack).restorePlace 0 { placedBlock with resident := false } placedLaunch aSaved).isSome = true ∧ (stBack).groups = [] ∧ ((stBack).core 0).copyq = []
  ∧ (∀ g ∈ aSaved.groups, g.awl = none ∧ g.pageFailed = false) ∧ aSaved.copies = [] := by
  and_intros <;> decide +kernel

theorem witness_decodeTrap :
  (stOf g0).env = some (enOf g0) ∧ decodeCause (.sadd { sOp with pm := 1 }) g0 = some 1 ∧ decodeCause (.sadd { sOp with d := 0x5FF }) { g0 with sregs := 64 } = some 3
  ∧ decodeCause (.vadd { vOp with d := 64 }) g0 = some 3 ∧ kindAllows (.vadd vOp) (enOf g0) = true ∧ kindAllows (.segid { d := 0x402, a := 0x403 }) (enOf g0) = false :=
  ⟨rfl, by decide, by decide, by decide, by decide, by decide⟩

theorem witness_trapEntry :
  kget (stOf g0).groups 0 = some g0 ∧ (g0.trap.cause.getLsbD 8 = false ∧ g0.trap.base ≠ 0) ∧ ({ g0 with trap := { g0.trap with base := 0 } } : Group).trap.base = 0
  ∧ ({ g0 with trap := { g0.trap with cause := 0x105 } } : Group).trap.cause.getLsbD 8 = true ∧ ((stOf g0).envOf 0 0).isSome = true
  ∧ (∃ j h, j ≠ 0 ∧ kget ({ stOf g0 with groups := [(0, g0), (1, { g0 with uid := 4 })] } : State).groups j = some h ∧ h.block = g0.block) :=
  ⟨rfl, by decide, by decide, by decide, by decide, 1, { g0 with uid := 4 }, by decide, rfl, rfl⟩

/-! ### Steps and the whole machine -/

/-- A machine whose group, awl and queue each have a word or a command; PF0's command is a NOP. -/
def stIssue : State := State.reset.withFetchWord 64 0x20D8000000100000
/-- That machine with the word's line in its home slice. -/
def stHit : State := { stIssue with lines := [(lineOf 0x104000, {})] }
def envIssue : Option Env := stIssue.envOf 0 0
theorem witness_groupStep :
  stIssue.agenda = [.issue 0 0] ∧ ({ stIssue with agenda := [] } : State).running = true ∧ (stIssue.core 0).preempting = false ∧ (stIssue.select 0 0).map (·.1) = some 0
  ∧ (stIssue.select 0 0).map (fun x => (x.2.resps, x.2.rep, x.2.checkReady)) = some ([], none, false)
  ∧ (stIssue.select 0 0).map (fun x => (x.2.resumed, x.2.uncode)) = some (false, []) ∧ (stHit.line? 0x104000).isSome = true ∧ kget stHit.heldLines (lineOf 0x104000) = none ∧ stHit.pendingWrites = []
  ∧ (match stHit.envOf 0 0 with | some e => reached (stHit.access stHit.freeCtr e.ck e.g.pc .fetch).1 == 0x104000 && stHit.pinnedWord e e.g.pc == none | none => false) = true
  ∧ (match envIssue with
    | some e => (match (stIssue.fetchWord e).2 with | .word w => w == 0x20D8000000100000 | _ => false) && stIssue.pinnedWord e e.g.pc == none
        && reached (stIssue.access stIssue.freeCtr e.ck e.g.pc .fetch).1 == 0x104000 && kget (stIssue.core 0).icache (2 ^ 64 * e.ck + e.g.pc.toNat) == none
    | none => false) = true := by
  refine ⟨rfl, by decide, by decide, by and_intros <;> decide +kernel⟩

theorem witness_otherSteps :
  ({ stAwl (awlOf []) with pendingWrites := [{ wPend with uid := awlUid sl }] } : State).writesPending (awlUid sl) = true
  ∧ (stAwl { awlOf [] (some { qAwl with image := [0x2B, 0x20, 0x00, 0x00] }) with pc := 0 }).writesPending (awlUid sl) = false
  ∧ word32 (([0x2B, 0x20, 0x00, 0x00] : List Byte).drop 0 |>.take 4) = 0x0000202B ∧ 0 + 4 ≤ ([0x2B, 0x20, 0x00, 0x00] : List Byte).length
  ∧ ({ stCmd (cmdBytes 0 1 []) with agenda := [.queue 0 0] } : State).agenda = [.queue 0 0] ∧ heads 0 1 none (stCmd (cmdBytes 0 1 [])) = true ∧ isEvent .warmReset = true ∧ isEvent .powerRemoval = true
  ∧ isEvent (.nop {}) = false := by and_intros <;> decide +kernel

theorem witness_memoryForm : Memory.wf State.reset.mem = true ∧ Memory.wf memBase.mem = true := by decide +kernel
theorem witness_roundTrip :
  Instr.wf (.sadd { d := 0x402, a := 0x402, b := 0x403 }) = true ∧ encode (.sadd { d := 0x402, a := 0x402, b := 0x403 }) = some (leBytes 8 0x0100000100A01403)
  ∧ Instr.wf (.pairedWord { ho := 1, d := 4, a := 8 } { ho := 15, d := 9, a := 0x143 }) = true ∧ Instr.wf (.alrd { rd := 6, rs1 := 11, rs2 := 5 }) = true
  ∧ encode (.alrd { rd := 6, rs1 := 11, rs2 := 5 }) = some (leBytes 4 0x0055830B) := by decide

/-! ### Words of the manual's listings, by family -/

theorem test_decode_scalar :
  decodeWord 0x01C0000100900000 = .instr (.smov { d := 0x402, a := 0x200 })
  ∧ decodeWord 0x0418000000201A05 = .instr (.scmple { d := 0, a := 0x403, b := 0x205 })
  ∧ decodeWord 0x0740000104801800 = .instr (.mtos { d := 0x412, a := 3 }) := by
  refine ⟨?_, ?_, ?_⟩ <;> decide
theorem test_decode_control :
  decodeWord 0x1300000000000000 = .instr (.endI {})
  ∧ decodeWord 0x1410000200000000 = .instr (.kwait { x := 1 })
  ∧ decodeWord 0x1418000000400003 = .instr (.kyield { d := 1, imm := 3 })
  ∧ decodeWord 0x1428000302A02202 = .instr (.karm { x := 1, d := 0x40A, a := 0x404, b := 0x202 })
  ∧ decodeWord 0x7000000000000007 = .instr (.trap { imm := 7 })
  ∧ decodeWord 0x110000FFFFFFF600 = .instr (.bra { disp := BitVec.ofInt 32 (-10) }) := by
  refine ⟨?_, ?_, ?_, ?_, ?_, ?_⟩ <;> decide
theorem test_decode_vector :
  decodeWord 0x2210000000C01200 = .instr (.vcmplt { d := 3, a := 2, b := 0x200 })
  ∧ decodeWord 0x2428000A02001000 = .instr (.vcompact { x := 5, d := 8, a := 2 })
  ∧ decodeWord 0x33085C0205000802 = .instr (.vpack { ty := 11, md := 4, x := 1, d := 20, a := 1, b := 2 })
  ∧ decodeWord 0x20D8000000100000 = .instr (.viota { d := 0, a := 0x200 })
  ∧ decodeWord 0x3300400000801000 = .instr (.vcvt { ty := 8, d := 2, a := 2 }) := by
  refine ⟨?_, ?_, ?_, ?_, ?_⟩ <;> decide
theorem test_decode_memory :
  decodeWord 0x4010280102A01000 = .instr (.ldgs { ty := 5, d := 0x40A, a := 0x402 })
  ∧ decodeWord 0x4100280002206002 = .instr (.lds { ty := 5, d := 8, a := 0x40C, b := 2 })
  ∧ decodeWord 0x4300A00002802201 = .instr (.aaddS { pm := 1, ty := 4, d := 10, a := 4, b := 0x201 })
  ∧ decodeWord 0x4200A00000604201 = .instr (.aaddG { pm := 1, ty := 4, d := 1, a := 0x408, b := 0x201 })
  ∧ decodeWord 0x440000E000000000 = .instr (.fence { x := 0x70 })
  ∧ decodeWord 0x4020200000E04000 = .instr (.pin { ty := 4, d := 3, a := 0x408 })
  ∧ decodeWord 0x4038280001203002 = .instr (.ldlod { ty := 5, d := 4, a := 0x406, b := 2 }) := by
  and_intros <;> decide
theorem test_decode_copy_and_matrix :
  decodeWord 0x5000000200210000 = .instr (.laymake { x := 1, a := 0x420 })
  ∧ decodeWord 0x5100000200210200 = .instr (.cpyin { x := 1, a := 0x420, b := 0x200 })
  ∧ decodeWord 0x5100004400208200 = .instr (.cpyin { x := 0x22, a := 0x410, b := 0x200 })
  ∧ decodeWord 0x5800000000206000 = .instr (.tcfg { a := 0x40C })
  ∧ decodeWord 0x5808000105A0A415 = .instr (.mma { d := 0x416, a := 0x414, b := 0x415 })
  ∧ decodeWord 0x5828400000207000 = .instr (.mst { ty := 8, a := 0x40E }) := by
  refine ⟨?_, ?_, ?_, ?_, ?_, ?_⟩ <;> decide
theorem test_decode_graphics :
  decodeWord 0x6000000002001404 = .instr (.sample { d := 8, a := 2, b := 0x404 })
  ∧ decodeWord 0x6030000008012404 = .instr (.imgst { d := 32, a := 36, b := 0x404 })
  ∧ decodeWord 0x6100000000006000 = .instr (.pixout { a := 12 })
  ∧ decodeWord 0x6222000000004000 = .instr (.posout { pm := 4, a := 8 })
  ∧ decodeWord 0x6202000000001800 = .instr (.vtxout { pm := 4, a := 3 })
  ∧ decodeWord 0x620B000000003000 = .instr (.primout { pm := 6, a := 6 })
  ∧ decodeWord 0x6210000000102202 = .instr (.meshend { a := 0x204, b := 0x202 })
  ∧ decodeWord 0x621800000020540B = .instr (.taskout { a := 0x40A, b := 0x40B }) := by
  and_intros <;> decide
theorem test_decode_rays_and_work :
  decodeWord 0x6800000200004402 = .instr (.rqinit { x := 1, a := 8, b := 0x402 })
  ∧ decodeWord 0x6808000004000000 = .instr (.rqstep { d := 16 })
  ∧ decodeWord 0x6818000204400000 = .instr (.rqget { x := 1, d := 17 })
  ∧ decodeWord 0x6A00000301A02000 = .instr (.launch { x := 1, d := 0x406, a := 0x404 })
  ∧ decodeWord 0x6A08800001800000 = .instr (.emit { pm := 1, d := 6 })
  ∧ decodeWord 0x6A18000000800000 = .instr (.recget { d := 2, a := 0 })
  ∧ decodeWord 0x6900000000000005 = .instr (.hop { imm := 5 })
  ∧ decodeWord 0x980900803012D200 = .instr (.pairedWord { ho := 12, d := 36, a := 4 } { ho := 12, d := 37, a := 0x148 }) := by
  and_intros <;> decide
/-- R254's listing, R246. -/
theorem test_decode_awl : decodeAwl 0x0055830B = .alrd { rd := 6, rs1 := 11, rs2 := 5 } ∧ decodeAwl 0x0000202B = .aend {} ∧ decodeAwl 0x0042A383 = .awlBaseInstruction (.load .w 7 5 4) 4 := by decide

/-! ### Forms that the checks refuse -/

/-- Kinds, names and registers of operands (R316, R318, R321, R386). -/
theorem smoke_operands : Instr.wf (.sadd { d := 3, a := 0x402, b := 0x403 }) = true ∧ Instr.wf (.sadd { d := 0x102, a := 0x402, b := 0x403 }) = false ∧ Instr.wf (.sadd { d := 0x402, a := 0x300, b := 0x403 }) = false
  ∧ Instr.wf (.vadd { d := 3, a := 0x104, b := 5 }) = false ∧ Instr.wf (.vadd { d := 3, a := 0x260, b := 5 }) = false ∧ Instr.wf (.mand { d := 16, a := 0, b := 0 }) = false
  ∧ Instr.wf (.scmpeq { d := 8, a := 0x400, b := 0x400 }) = false ∧ Instr.wf (.kyield { d := 32 }) = false ∧ Instr.wf (.nop { d := 1 }) = false ∧ Instr.wf (.bar { a := 0x201 }) = false := by decide
/-- Predicates, types, modes and X (R320, R336, R377, R408, R411, R418). -/
theorem smoke_fields : Instr.wf (.sadd { pm := 1, d := 0x402, a := 0x402, b := 0x403 }) = false ∧ Instr.wf (.smul { ty := 14, d := 0x402, a := 0x402, b := 0x404 }) = false
  ∧ Instr.wf (.sadd { md := 1, d := 0x402, a := 0x402, b := 0x403 }) = false ∧ Instr.wf (.sadd { x := 1, d := 0x402, a := 0x402, b := 0x403 }) = false ∧ Instr.wf (.vadd { ty := 9, d := 3, a := 4, b := 5 }) = false
  ∧ Instr.wf (.vred { ty := 8, x := 7, d := 3, a := 4 }) = false ∧ Instr.wf (.vred { x := 11, d := 3, a := 4 }) = false ∧ Instr.wf (.vswiz { x := 7, d := 3, a := 4 }) = false
  ∧ Instr.wf (.vpack { ty := 9, x := 1, d := 3, a := 4, b := 5 }) = false ∧ Instr.wf (.vunpack { ty := 9, x := 2, d := 3, a := 4 }) = false ∧ Instr.wf (.vhadd { ty := 8, d := 3, a := 4, b := 5 }) = false
  ∧ Instr.wf (.scvt { x := 2, d := 0x402, a := 0x403 }) = false ∧ Instr.wf (.sfadd { ty := 8, md := 5, d := 0x402, a := 0x403, b := 0x404 }) = false ∧ Instr.wf (.saddI { ty := 8, d := 0x402, a := 0x403 }) = false := by decide
/-- Accesses, copies, matrix, texture and ray words (R422, R448, R457, R468, R484). -/
theorem smoke_families : Instr.wf (.ldg { ty := 7, d := 12, a := 4 }) = false ∧ Instr.wf (.ldg { ty := 4, x := 0x40, d := 12, a := 4 }) = false ∧ Instr.wf (.stg { ty := 4, x := 0x20, d := 12, a := 4 }) = false
  ∧ Instr.wf (.ldg { ty := 4, x := 0x18, d := 12, a := 4 }) = false ∧ Instr.wf (.afaddG { ty := 5, d := 12, a := 4, b := 6 }) = false ∧ Instr.wf (.aaddS { ty := 5, d := 12, a := 4, b := 6 }) = false
  ∧ Instr.wf (.fence {}) = false ∧ Instr.wf (.cpyout { x := 0x20, a := 0x410, b := 0x400 }) = false ∧ Instr.wf (.cpyin { ty := 1, a := 0x410, b := 0x400 }) = false ∧ Instr.wf (.mst { ty := 15, a := 0x400 }) = false
  ∧ Instr.wf (.mma { x := 8, a := 0x400, b := 0x400, d := 0x400 }) = false ∧ Instr.wf (.sample { x := 1, d := 8, a := 2, b := 0x404 }) = false ∧ Instr.wf (.rqget { x := 9, d := 17 }) = false
  ∧ Instr.wf (.cbload { ty := 10, a := 0x402, b := 0x400 }) = false := by decide
/-- Branches, pairs and the awl's words (R324, R331-R333, R246). -/
theorem smoke_forms : Instr.wf (.bra { cc := 1 }) = false ∧ Instr.wf (.ret { disp := 1 }) = false ∧ Instr.wf (.brc { pm := 1 }) = false ∧ Instr.wf (.brmz { neg := 1 }) = false
  ∧ Instr.wf (.sli { d := 3, imm := 0 }) = true ∧ Instr.wf (.sadr { d := 0x100, imm := 0 }) = false ∧ Instr.wf (.pairedWord {} {}) = false ∧ Instr.wf (.pairedWord { ho := 18, d := 1, a := 2 } {}) = false
  ∧ Instr.wf (.pairedWord { ho := 1, d := 1, a := 2 } { ho := 1, d := 5, a := 3 }) = false ∧ Instr.wf (.pairedWord { ho := 1, d := 1, a := 0x1C0 } {}) = false ∧ Instr.wf (.alock { rs2 := 1 }) = false
  ∧ Instr.wf (.aend { rd := 1 }) = false ∧ Instr.wf (.awlBaseInstruction .illegal 4) = false := by decide
/-- R320, R336: words whose zero fields are not, or whose operation is none. -/
theorem smoke_words : decodeWord 0x0100000100A01403 ≠ .bad .illegalInstr ∧ decodeWord 0x0F00000000000000 = .bad .illegalInstr ∧ decodeWord 0x01F8000100A01403 = .bad .illegalInstr
  ∧ decodeWord 0x1100000000000001 = .bad .illegalInstr ∧ decodeWord 0x8000000000000000 = .bad .illegalInstr := by decide

/-! ### One step, with the manual's worked examples -/

/-- The group after one instruction. -/
def after (i : Instr) (g : Group) (b : Block := placedBlock) : Option Group := match exec i (stOf g b) with | .next t => kget t.groups 0 | _ => none
def sAfter (i : Instr) (s : Sparse 32) (r : Nat) : Option Word := (after i { g0 with regs := { g0.regs with s := s } }).map (·.regs.sget r)

/-- R377: a sum wraps, and the PC passes the word. -/
theorem test_sadd_wraps : sAfter (.sadd { d := 0x402, a := 0x402, b := 0x403 }) [(2, 0xFFFFFFFF), (3, 2)] 2 = some 1
  ∧ (after (.sadd { d := 0x402, a := 0x402, b := 0x403 }) g0).map (·.pc) = some (g0.pc + 8) := by decide
/-- R379. -/
theorem test_division_corners : sAfter (.sdiv { d := 0x402, a := 0x402, b := 0x403 }) [(2, 0xFFFFFFF9), (3, 0)] 2 = some 1 ∧ sAfter (.sdiv { d := 0x402, a := 0x402, b := 0x403 }) [(2, 7), (3, 0)] 2 = some 0xFFFFFFFF
  ∧ sAfter (.srem { d := 0x402, a := 0x402, b := 0x403 }) [(2, 0x80000000), (3, 0xFFFFFFFF)] 2 = some 0 ∧ sAfter (.sdiv { d := 0x402, a := 0x402, b := 0x403 }) [(2, 0x80000000), (3, 0xFFFFFFFF)] 2 = some 0x80000000
  ∧ sAfter (.sdiv { d := 0x402, a := 0x402, b := 0x403 }) [(2, 0xFFFFFFF9), (3, 2)] 2 = some 0xFFFFFFFD := by decide
/-- R380's example: bits 11 to 4 of 0xA50. -/
theorem test_sbfe_example : sAfter (.sbfeI { d := 0x404, a := 0x405, imm := 0x0804 }) [(5, 0xA50)] 4 = some 0xA5 := by decide
/-- R382: signed and unsigned orders differ. -/
theorem test_scmp_orders : (after (.scmplt { d := 1, a := 0x402, b := 0x403 }) { g0 with regs := { g0.regs with s := [(2, 0xFFFFFFFF), (3, 1)] } }).map (·.regs.c) = some 2
  ∧ (after (.scmpltu { d := 1, a := 0x402, b := 0x403 }) { g0 with regs := { g0.regs with s := [(2, 0xFFFFFFFF), (3, 1)], c := 2 } }).map (·.regs.c) = some 0 := by decide

/-- R408's examples under TY 4, of elements -128 and 127 and of 127 - 1. -/
def gElem : Group := { g0 with regs := { g0.regs with m := [(0, 1)], v := [(512, 0x80), (640, 0x7F)] } }
theorem test_element_examples : (after (.vabsdiff { ty := 4, d := 6, a := 4, b := 5 }) gElem).map (·.regs.vget 6 0) = some 0xFF
  ∧ (after (.vaddsat { ty := 4, d := 6, a := 4, b := 5 }) gElem).map (·.regs.vget 6 0) = some 0xFF ∧ (after (.vsubsat { ty := 4, d := 6, a := 4, b := 5 }) gElem).map (·.regs.vget 6 0) = some 0x80 := by decide
/-- R408's example of VIOTA: 100, 101 and 102 for threads 2, 5 and 9. -/
theorem test_viota_example :
  (after (.viota { pm := 1, d := 6, a := 0x400 }) { g0 with regs := { m := [(0, 0x3FF), (1, 0x224)], s := [(0, 100)] } }).map (fun g => [2, 5, 9, 3].map (g.regs.vget 6)) = some [100, 101, 102, 0] := by decide
/-- R411's examples. -/
def gFold : Group :=
  { g0 with regs := { m := [(0, 0x3F), (5, 0x1A)]
                      v := [(256, 10), (257, 11), (258, 12), (259, 13), (260, 14), (261, 15), (384, 0x3F800000), (385, 0x4B800000), (386, 0x3F800000), (387, 0x3F800000), (388, 0xCB800000), (389, 0x40400000)] } }
theorem test_vcompact_example : (after (.vcompact { x := 5, d := 8, a := 2 }) gFold).map (fun g => (List.range 6).map (g.regs.vget 8)) = some [11, 13, 14, 0, 0, 0] := by decide
theorem test_vscan_example : (after (.vscan { pm := 5, d := 9, a := 2 }) gFold).map (fun g => (List.range 6).map (g.regs.vget 9)) = some [0, 11, 0, 24, 38, 0] := by decide
theorem test_vred_example : (after (.vred { ty := 8, x := 8, d := 0x409, a := 3 }) gFold).map (·.regs.sget 9) = some 0x40400000 := by decide +kernel
/-- R413's example: VFRACT of 2.75 is 0.75, and of a small negative the value below 1. -/
theorem test_vfract_example : (after (.vfract { ty := 8, d := 6, a := 4 }) { g0 with regs := { m := [(0, 3)], v := [(512, 0x40300000), (513, 0xB0800000)] } }).map (fun g => (g.regs.vget 6 0, g.regs.vget 6 1))
    = some (0x3F400000, 0x3F7FFFFF) := by decide +kernel
/-- R324: BRC counts words from the next one; with NEG the other branch. -/
theorem test_brc_target : (after (.brc { disp := BitVec.ofInt 32 (-4) }) { g0 with pc := 0x1000, regs := { g0.regs with c := 1 } }).map (·.pc) = some 0xFE8
  ∧ (after (.brc { neg := 1, disp := BitVec.ofInt 32 (-4) }) { g0 with pc := 0x1000, regs := { g0.regs with c := 1 } }).map (·.pc) = some 0x1008 := by decide
/-- R277, R279: TRAP goes to the handler; TRAPPC is the next word and TRAPADDR the immediate. -/
theorem test_trap_entry : (after (.trap { imm := 7 }) { g0 with pc := 0x1000 }).map (fun g => (g.pc, g.trap.pc, g.trap.cause, g.trap.addr)) = some (0x40, 0x1008, 0x110, 7) := by decide
/-- R278: TRET with RESUME 0 goes on at TRAPPC with ACTIVE clear. -/
theorem test_tret : (after (.tret {}) { g0 with pc := 0x40, trap := { base := 0x40, pc := 0x1008, cause := 0x110 } }).map (fun g => (g.pc, g.trap.cause.getLsbD 8)) = some (0x1008, false) := by decide
/-- R313, R314: VIOTA in a machine that places and fetches its word. -/
theorem test_viota_runs : (match step (State.reset.withFetchWord 64 0x20D8000000100000) with | .next s => (kget s.groups 0).map (·.pc) | _ => none) = some 8 := by decide
/-- R246, R249: an AREPLY without a thread to answer says so, and AEND ends the invocation. -/
theorem test_awl_step : (match exec (.areply { rs1 := 7, rd := 6 }) (stAwl (awlOf [(7, 5)])) with | .next s => ((s.awl sl).reg 6, (s.awl sl).pc, (s.awl sl).budget) | _ => (0, 0, 0)) = (3, 20, 8)
  ∧ (match exec (.aend {}) (stAwl (awlOf [])) with | .next s => (s.awl sl).run.isNone | _ => false) = true := by decide

end Sys2Proof.Tests
end

section
/-! What a completed write of a range leaves (R218), and the event logs (R85-R87). -/
namespace Sys2Proof.Machine

/-! ### The pieces of a range -/

/-- A piece of a range lies inside it and has its bytes. -/
theorem mem_sectorPieces {pa : Nat} {l : List Byte} {x : Nat × List Byte} (h : x ∈ sectorPieces pa l) :
    pa ≤ x.1 ∧ x.1 < pa + l.length ∧ x.1 + x.2.length ≤ pa + l.length ∧ ∀ i < x.2.length, x.2[i]? = l[x.1 + i - pa]? := by
  obtain ⟨i, -, hx⟩ := List.mem_filterMap.mp h
  simp only [Option.ite_none_right_eq_some, Option.some.injEq] at hx
  obtain ⟨hlt, rfl⟩ := hx
  have hstart : pa ≤ (if i = 0 then pa else (pa / 32 + i) * 32) := by split <;> omega
  refine ⟨hstart, by simp only; omega, by simp only [List.length_take, List.length_drop]; omega, fun j hj => ?_⟩
  simp only [List.length_take, List.length_drop, Nat.lt_min] at hj
  rw [List.getElem?_take_of_lt hj.1, List.getElem?_drop]
  congr 1
  simp only
  omega

/-- Every address of a range lies in one of its pieces. -/
theorem exists_sectorPiece {pa a : Nat} {l : List Byte} (h : pa ≤ a ∧ a < pa + l.length) :
    ∃ x ∈ sectorPieces pa l, x.1 ≤ a ∧ a < x.1 + x.2.length := by
  obtain ⟨i, hi⟩ : ∃ i, a / 32 = pa / 32 + i := ⟨a / 32 - pa / 32, by omega⟩
  have hstart : (if i = 0 then pa else (pa / 32 + i) * 32) ≤ a := by split <;> omega
  have hfrom : pa ≤ (if i = 0 then pa else (pa / 32 + i) * 32) := by split <;> omega
  refine ⟨_, List.mem_filterMap.mpr ⟨i, List.mem_range.mpr (by omega), if_pos (by omega)⟩, hstart, ?_⟩
  simp only [List.length_take, List.length_drop]
  omega

/-- The pieces of a range no longer than a line lie in the lines of its first and its last byte. -/
theorem lineOf_sectorPiece {pa : Nat} {l : List Byte} {x : Nat × List Byte} (hl : l.length ≤ 128) (h : x ∈ sectorPieces pa l) :
    lineOf x.1 = pa / 128 ∨ lineOf x.1 = (pa + l.length - 1) / 128 := by
  obtain ⟨hge, hlt, -, -⟩ := mem_sectorPieces h
  unfold lineOf
  omega

/-- Bytes written piece by piece: an address in a piece reads the value that all pieces agree on, any other is as it was. -/
theorem sget_foldl_setBytes (v : Nat → Byte) (a : Nat) (ps : List (Nat × List Byte)) (m : Sparse 8)
    (h : ∀ x ∈ ps, ∀ i (hi : i < x.2.length), x.2[i] = v (x.1 + i)) :
    sget (ps.foldl (fun m x => setBytes m x.1 x.2) m) a = if ∃ x ∈ ps, x.1 ≤ a ∧ a < x.1 + x.2.length then v a else sget m a := by
  induction ps generalizing m with
  | nil => simp
  | cons x r ih =>
    rw [List.foldl_cons, ih _ fun y hy => h y (List.mem_cons_of_mem _ hy)]
    by_cases hr : ∃ y ∈ r, y.1 ≤ a ∧ a < y.1 + y.2.length
    · simp [hr]
    · by_cases hx : x.1 ≤ a ∧ a < x.1 + x.2.length
      · have hin := sget_setBytes_in m x.1 x.2 (a - x.1) (by omega)
        rw [h x List.mem_cons_self, Nat.add_sub_cancel' hx.1] at hin
        simp [hr, hx, hin]
      · rw [sget_setBytes_out m x.1 x.2 a (by omega)]
        simp [hr, hx]

/-- The pieces of a range, written one after another, write the range. -/
theorem sget_setBytes_sectorPieces (m : Sparse 8) (pa : Nat) (l : List Byte) (a : Nat) :
    sget ((sectorPieces pa l).foldl (fun m x => setBytes m x.1 x.2) m) a
      = if pa ≤ a ∧ a < pa + l.length then (l[a - pa]?).getD 0 else sget m a := by
  rw [sget_foldl_setBytes fun a => (l[a - pa]?).getD 0]
  · by_cases h : pa ≤ a ∧ a < pa + l.length
    · rw [if_pos (exists_sectorPiece h), if_pos h]
    · have hout : ¬ ∃ x ∈ sectorPieces pa l, x.1 ≤ a ∧ a < x.1 + x.2.length := by
        rintro ⟨x, hx, hle, hlt⟩
        obtain ⟨hge, -, hend, -⟩ := mem_sectorPieces hx
        omega
      rw [if_neg hout, if_neg h]
  · intro x hx i hi
    obtain ⟨-, -, -, hbytes⟩ := mem_sectorPieces hx
    rw [← hbytes i hi, List.getElem?_eq_getElem hi, Option.getD_some]

/-! ### A completed write where no write of its lines waits (R218) -/

/-- The part of a completed write that lies in one sector. -/
def State.storePiece (s : State) (x : Nat × List Byte) : State :=
  ((s.settleLine (lineOf x.1)).noteOld (fun _ => true) (fun _ => true) (x.1 / 32) ((s.settleLine (lineOf x.1)).sectorAt x.1)).writeMem x.1 x.2

theorem State.storeDone_eq (s : State) (pa : Nat) (l : List Byte) :
    s.storeDone pa l = (sectorPieces pa l).foldl State.storePiece (s.meet pa l.length) := rfl

/-- What a write of memory may change besides the memory and the stall of the agent: who may still read an old value, and which copies of a line there are. -/
def StoreFrame (s t : State) : Prop :=
  ∃ m g c x o l b, t = { s with mem := m, groups := g, cores := c, ctxs := x, outs := o, lines := l, stalled := b }

theorem StoreFrame.refl (s : State) : StoreFrame s s := ⟨_, _, _, _, _, _, _, rfl⟩

theorem StoreFrame.trans {s t u : State} (h : StoreFrame s t) (k : StoreFrame t u) : StoreFrame s u := by
  obtain ⟨_, _, _, _, _, _, _, rfl⟩ := h
  obtain ⟨_, _, _, _, _, _, _, rfl⟩ := k
  exact ⟨_, _, _, _, _, _, _, rfl⟩

theorem StoreFrame.pendingWrites {s t : State} (h : StoreFrame s t) : t.pendingWrites = s.pendingWrites := by
  obtain ⟨_, _, _, _, _, _, _, rfl⟩ := h
  rfl

theorem StoreFrame.funcs {s t : State} (h : StoreFrame s t) : t.funcs = s.funcs := by
  obtain ⟨_, _, _, _, _, _, _, rfl⟩ := h
  rfl

theorem StoreFrame.irqs {s t : State} (h : StoreFrame s t) : t.irqs = s.irqs := by
  obtain ⟨_, _, _, _, _, _, _, rfl⟩ := h
  rfl

/-- A line without a waiting write only loses its copies when it is settled. -/
theorem State.settleLine_idle {s : State} {line : Nat} (h : ∀ w ∈ s.pendingWrites, w.line ≠ line) :
    s.settleLine line = { s with lines := kmod s.lines line fun l => { l with sharers := [] } } := by
  have hnone : (s.pendingWrites.filter fun w => w.line = line) = [] := by simpa using h
  have hall : (s.pendingWrites.filter fun w => w.line ≠ line) = s.pendingWrites := by simpa using h
  simp only [State.settleLine, hnone, hall, List.foldl_nil]

theorem State.writeMem_noted (s : State) (pa : Nat) (l : List Byte) : Noted s (s.writeMem pa l) := Noted.refl s

theorem State.storePiece_noted (s : State) (x : Nat × List Byte) : Noted s (s.storePiece x) :=
  ((s.settleLine_noted (lineOf x.1)).trans (State.noteOld_noted ..)).trans (State.writeMem_noted ..)

section
variable {s : State} {x : Nat × List Byte} (h : ∀ w ∈ s.pendingWrites, w.line ≠ lineOf x.1)
include h

theorem State.storePiece_idle_mem : (s.storePiece x).mem = setBytes s.mem x.1 x.2 := by
  rw [State.storePiece, State.settleLine_idle h]
  rfl

theorem State.storePiece_idle_frame : StoreFrame s (s.storePiece x) := by
  rw [State.storePiece, State.settleLine_idle h]
  exact ⟨_, _, _, _, _, _, _, rfl⟩

theorem State.storePiece_idle_groups_none (k : Nat) : kget (s.storePiece x).groups k = none ↔ kget s.groups k = none := by
  simp only [State.storePiece, State.settleLine_idle h, State.writeMem, State.noteOld, kget_kmapAll, Option.map_eq_none_iff]
end

/-- What the pieces of a completed write leave, one after another, where no write of their lines waits. -/
theorem State.foldl_storePiece_idle (ps : List (Nat × List Byte)) (s : State) (h : ∀ w ∈ s.pendingWrites, ∀ x ∈ ps, w.line ≠ lineOf x.1) :
    (ps.foldl State.storePiece s).mem = ps.foldl (fun m x => setBytes m x.1 x.2) s.mem ∧ StoreFrame s (ps.foldl State.storePiece s)
      ∧ Noted s (ps.foldl State.storePiece s) ∧ ∀ k, kget (ps.foldl State.storePiece s).groups k = none ↔ kget s.groups k = none := by
  induction ps generalizing s with
  | nil => exact ⟨rfl, .refl s, .refl s, fun _ => Iff.rfl⟩
  | cons x r ih =>
    have hx : ∀ w ∈ s.pendingWrites, w.line ≠ lineOf x.1 := fun w hw => h w hw x List.mem_cons_self
    have hframe := State.storePiece_idle_frame hx
    obtain ⟨hmem, hframe', hnoted, hnone⟩ := ih (s.storePiece x) fun w hw y hy =>
      h w (hframe.pendingWrites ▸ hw) y (List.mem_cons_of_mem _ hy)
    rw [State.storePiece_idle_mem hx] at hmem
    exact ⟨hmem, hframe.trans hframe', (s.storePiece_noted x).trans hnoted,
      fun k => (hnone k).trans (State.storePiece_idle_groups_none hx k)⟩

/-- R218: a completed write where no write of its lines waits. Its bytes are in memory and every other byte is as it was. -/
theorem State.storeDone_idle {s : State} {pa : Nat} {l : List Byte} (h : ∀ w ∈ s.pendingWrites, ∀ x ∈ sectorPieces pa l, w.line ≠ lineOf x.1) :
    (∀ a, sget (s.storeDone pa l).mem a = if pa ≤ a ∧ a < pa + l.length then (l[a - pa]?).getD 0 else sget s.mem a)
      ∧ StoreFrame s (s.storeDone pa l) ∧ Noted s (s.storeDone pa l)
      ∧ ∀ k, kget (s.storeDone pa l).groups k = none ↔ kget s.groups k = none := by
  obtain ⟨b, hmeet⟩ := s.meet_frame pa l.length
  rw [State.storeDone_eq, hmeet]
  obtain ⟨hmem, hframe, hnoted, hnone⟩ := State.foldl_storePiece_idle (sectorPieces pa l) { s with stalled := b } h
  refine ⟨fun a => ?_, StoreFrame.trans ⟨_, _, _, _, _, _, _, rfl⟩ hframe, (Noted.refl s).trans hnoted, hnone⟩
  rw [hmem, sget_setBytes_sectorPieces]

/-! ### Signalling a vector (R86) -/

theorem State.signal_unmasked {s : State} {fn vec : Nat} (h : (s.func fn).msixMask.getLsbD vec = false) :
    s.signal fn vec = { s with irqs := s.irqs ++ [(fn, vec)] } := by
  simp only [State.signal, h, Bool.false_eq_true, if_false]

theorem State.signal_masked {s : State} {fn vec : Nat} (h : (s.func fn).msixMask.getLsbD vec = true) :
    s.signal fn vec = s.modFunc fn fun f => { f with msixPend := f.msixPend ||| ((1#64) <<< vec) } := by
  simp only [State.signal, h, if_true]

/-- Signalling changes the function and the interrupts sent, nothing else. -/
theorem State.signal_frame (s : State) (fn vec : Nat) : s.signal fn vec = { s with funcs := (s.signal fn vec).funcs, irqs := (s.signal fn vec).irqs } := by
  cases h : (s.func fn).msixMask.getLsbD vec with
  | false => rw [State.signal_unmasked h]
  | true => rw [State.signal_masked h]; rfl

/-- A function that is there, after a change of it. -/
theorem State.func_modFunc_same {s : State} {fn : Nat} {f : Func} (h : kget s.funcs fn = some f) (c : Func → Func) : (s.modFunc fn c).func fn = c f := by
  simp only [State.func, State.modFunc_funcs, kget_kmod_same, h, Option.map_some, Option.getD_some]

theorem State.func_eq {s : State} {fn : Nat} {f : Func} (h : kget s.funcs fn = some f) : s.func fn = f := by
  simp only [State.func, h, Option.getD_some]

/-! ### Records of an event log (R85) -/

/-- The fields of a record: 16 bytes of header, and DATA. -/
def eventFields (code ctx : Nat) (gen : Word) (tag : DWord) (data : List Byte) : List Byte :=
  leBytes 2 code ++ leBytes 2 ctx ++ leBytes 4 gen.toNat ++ leBytes 8 tag.toNat ++ data

/-- The record as it is written: with zeros after DATA up to 32 bytes. -/
def eventRecord (code ctx : Nat) (gen : Word) (tag : DWord) (data : List Byte) : List Byte :=
  eventFields code ctx gen tag data ++ List.replicate (16 - data.length) 0

theorem length_eventRecord (code ctx : Nat) (gen : Word) (tag : DWord) {data : List Byte} (h : data.length ≤ 16) :
    (eventRecord code ctx gen tag data).length = 32 := by
  simp only [eventRecord, eventFields, List.length_append, length_leBytes, List.length_replicate]
  omega

/-- Past the fields a record reads as zero. -/
theorem eventRecord_getD (code ctx : Nat) (gen : Word) (tag : DWord) (data : List Byte) (i : Nat) :
    ((eventRecord code ctx gen tag data)[i]?).getD 0 = ((eventFields code ctx gen tag data)[i]?).getD 0 := by
  rw [eventRecord, List.getElem?_append]
  split
  · rfl
  · next hi =>
    rw [List.getElem?_eq_none (Nat.le_of_not_lt hi), List.getElem?_replicate]
    split <;> rfl

/-! ### Appending (R86, R87) -/

/-- The vector of a record's event: VECC for a completion, VECE for any other (R84). -/
def Func.eventVec (f : Func) (code : Nat) : Nat := if code = 1 then f.elctl.toNat / 2 ^ 10 % 8 else f.elctl.toNat / 2 ^ 13 % 8

/-- The model reads the vector from ELCTL's fields VECC and VECE. -/
theorem Func.toNat_eventVec (f : Func) (code : Nat) :
    (if code = 1 then f.elctl.extractLsb' 10 3 else f.elctl.extractLsb' 13 3).toNat = f.eventVec code := by
  unfold Func.eventVec
  split <;> rw [BitVec.extractLsb'_toNat, Nat.shiftRight_eq_div_pow]

/-- LOGSZ is the low five bits of ELCTL. -/
theorem Func.toNat_logsz (f : Func) : (f.elctl.extractLsb' 0 5).toNat = f.elctl.toNat % 32 := by
  rw [BitVec.extractLsb'_toNat, Nat.shiftRight_zero]

theorem Func.eventVec_lt (f : Func) (code : Nat) : f.eventVec code < 8 := by
  unfold Func.eventVec
  split <;> omega

/-- The place in its ring of a log's next record. -/
def Func.eventSlot (f : Func) : Nat := f.elbase.toNat + 32 * (f.elwptr.toNat % 2 ^ (f.elctl.toNat % 32))

/-- The state with a record at `pa` and ELWPTR advanced, its vector not yet signalled. -/
def State.recorded (s : State) (fn pa : Nat) (r : List Byte) : State :=
  (s.storeDone pa r).modFunc fn fun f => { f with elwptr := f.elwptr + 1 }

section
variable {s : State} {fn code ctx : Nat} {gen : Word} {tag : DWord} {data : List Byte} {f : Func}
  (hf : kget s.funcs fn = some f) (hp : (s.part (partOfFn fn)).paused = false)
include hf hp

/-- R87: a record of an older generation is discarded and counted. -/
theorem State.log_older (hgen : gen.toNat < f.gen.toNat) :
    s.log fn code ctx gen tag data = s.modFunc 0 fun f => { f with dropgen := satInc f.dropgen } := by
  simp only [State.log, State.logRaw, hp, State.func_eq hf, hgen, Bool.false_and, Bool.false_eq_true, if_false, if_true]

variable (hgen : f.gen.toNat ≤ gen.toNat)
include hgen

/-- R84: a log that is off takes nothing. -/
theorem State.log_off (hen : f.elctl.getLsbD 8 = false) : s.log fn code ctx gen tag data = s := by
  simp only [State.log, State.logRaw, hp, State.func_eq hf, Nat.not_lt.mpr hgen, hen, Bool.false_and, Bool.not_false, Bool.false_eq_true, if_false, if_true]

variable (hen : f.elctl.getLsbD 8 = true)
include hen

/-- R86: a full log drops the record and counts it. -/
theorem State.log_full (hfull : 2 ^ (f.elctl.toNat % 32) ≤ (f.elwptr - f.elrptr).toNat) :
    s.log fn code ctx gen tag data = s.modFunc fn fun f => { f with elovf := satInc f.elovf, elctl := f.elctl ||| 0x200 } := by
  simp only [State.log, State.logRaw, hp, State.func_eq hf, Nat.not_lt.mpr hgen, hen, Func.toNat_logsz, ge_iff_le, hfull,
    Bool.false_and, Bool.not_true, Bool.false_eq_true, if_false, if_true]
  rfl

/-- R86: a log with room takes the record in its next place, advances ELWPTR and signals. -/
theorem State.log_room {pa : Nat} (hroom : (f.elwptr - f.elrptr).toNat < 2 ^ (f.elctl.toNat % 32)) (hpa : s.logPa fn f.eventSlot = some pa) :
    s.log fn code ctx gen tag data = (s.recorded fn pa (eventRecord code ctx gen tag data)).signal fn (f.eventVec code) := by
  have hslot : s.logPa fn (f.elbase.toNat + 32 * (f.elwptr.toNat % 2 ^ (f.elctl.toNat % 32))) = some pa := hpa
  simp only [State.log, State.logRaw, hp, State.func_eq hf, Nat.not_lt.mpr hgen, hen, Func.toNat_logsz, Func.toNat_eventVec, Nat.not_le.mpr hroom, hslot,
    Bool.false_and, Bool.not_true, Bool.not_false, Bool.false_eq_true, if_false, if_true]
  rfl
end

/-- R85, R218: a record written where no write of its lines waits. -/
theorem State.storeDone_eventRecord {s : State} {pa code ctx : Nat} {gen : Word} {tag : DWord} {data : List Byte}
    (hdata : data.length ≤ 16) (hidle : ∀ w ∈ s.pendingWrites, w.line ≠ pa / 128 ∧ w.line ≠ (pa + 31) / 128) :
    (∀ a, sget (s.storeDone pa (eventRecord code ctx gen tag data)).mem a
        = if pa ≤ a ∧ a < pa + 32 then ((eventFields code ctx gen tag data)[a - pa]?).getD 0 else sget s.mem a)
      ∧ StoreFrame s (s.storeDone pa (eventRecord code ctx gen tag data)) ∧ Noted s (s.storeDone pa (eventRecord code ctx gen tag data))
      ∧ ∀ k, kget (s.storeDone pa (eventRecord code ctx gen tag data)).groups k = none ↔ kget s.groups k = none := by
  have hlen := length_eventRecord code ctx gen tag hdata
  obtain ⟨hmem, hrest⟩ := State.storeDone_idle (s := s) (pa := pa) (l := eventRecord code ctx gen tag data) fun w hw x hx => by
    obtain ⟨hfirst, hlast⟩ := hidle w hw
    rcases lineOf_sectorPiece (by omega) hx with hline | hline
    · rwa [hline]
    · rwa [hline, hlen]
  refine ⟨fun a => ?_, hrest⟩
  rw [hmem, hlen, eventRecord_getD]

/-- What a log with room leaves of a record: the function's pointer, the bytes, the vector, and what stays as it was. -/
theorem State.signal_recorded {s : State} {fn pa vec : Nat} {r : List Byte} {f : Func} (hf : kget s.funcs fn = some f) (hvec : vec < 64)
    (hframe : StoreFrame s (s.storeDone pa r)) :
    (((s.recorded fn pa r).signal fn vec).func fn).elwptr = f.elwptr + 1
      ∧ (f.msixMask.getLsbD vec = false → ((s.recorded fn pa r).signal fn vec).irqs = s.irqs ++ [(fn, vec)]
        ∧ (((s.recorded fn pa r).signal fn vec).func fn).msixPend = f.msixPend)
      ∧ (f.msixMask.getLsbD vec = true → ((s.recorded fn pa r).signal fn vec).irqs = s.irqs
        ∧ (((s.recorded fn pa r).signal fn vec).func fn).msixPend.getLsbD vec = true) := by
  have hget : kget (s.recorded fn pa r).funcs fn = some { f with elwptr := f.elwptr + 1 } := by
    simp only [State.recorded, State.modFunc_funcs, hframe.funcs, kget_kmod_same, hf, Option.map_some]
  have hirqs : (s.recorded fn pa r).irqs = s.irqs := hframe.irqs
  have hfunc := State.func_eq hget
  cases hmask : f.msixMask.getLsbD vec with
  | false =>
    have hsig := State.signal_unmasked (s := s.recorded fn pa r) (fn := fn) (vec := vec) (by rw [hfunc]; exact hmask)
    have hkeep : ((s.recorded fn pa r).signal fn vec).func fn = { f with elwptr := f.elwptr + 1 } := by rw [hsig]; exact hfunc
    exact ⟨by rw [hkeep], fun _ => ⟨by rw [hsig, ← hirqs], by rw [hkeep]⟩, nofun⟩
  | true =>
    have hsig := State.signal_masked (s := s.recorded fn pa r) (fn := fn) (vec := vec) (by rw [hfunc]; exact hmask)
    have hpend : (f.msixPend ||| ((1#64) <<< vec)).getLsbD vec = true := by simp [hvec]
    rw [hsig, State.func_modFunc_same hget]
    exact ⟨rfl, nofun, fun _ => ⟨hirqs, hpend⟩⟩

/-- Settles O42, by the four cases of R84, R86 and R87; in the last the record is a write of 32 bytes whose lines have no write waiting. -/
theorem eventLogAppends : Obligations.EventLogAppends := by
  intro s fn code ctx gen tag data f hf hp
  refine ⟨State.log_older hf hp, State.log_off hf hp, State.log_full hf hp, ?_⟩
  intro pa vec hgen hen hroom hdata hpa hidle hvec
  obtain rfl : vec = f.eventVec code := hvec
  have hlt : f.eventVec code < 64 := Nat.lt_trans (f.eventVec_lt code) (by decide)
  obtain ⟨hmem, hframe, hnoted, hnone⟩ := State.storeDone_eventRecord (code := code) (ctx := ctx) (gen := gen) (tag := tag) hdata hidle
  obtain ⟨hptr, hsent, hpends⟩ := State.signal_recorded hf hlt hframe
  refine ⟨_, State.log_room hf hp hgen hen hroom hpa, hptr, ?_, hsent, hpends, ?_, ?_, ?_⟩
  all_goals rw [State.signal_frame]
  · exact hmem
  · obtain ⟨_, _, _, _, _, _, _, hstore⟩ := hframe
    simp only [State.recorded, hstore]
    rfl
  · exact hnoted
  · exact hnone

end Sys2Proof.Machine
end

section
/-! What the commands of a queue share. The record of an event and a read of a structure change of groups, cores, contexts and outputs only what they
hold of old values (R85, R206); a command that passes the checks of R51 does what its body says. -/
namespace Sys2Proof.Machine

/-! ### Lists by key -/

theorem kget_kdel_same {α : Type} (m : KMap α) (k : Nat) : kget (kdel m k) k = none := by
  induction m with
  | nil => rfl
  | cons e r ih =>
    by_cases he : e.1 = k
    · simpa [kdel, he] using ih
    · simpa [kdel, he, kget] using ih

theorem kget_kdel_ne {α : Type} (m : KMap α) {k j : Nat} (h : j ≠ k) : kget (kdel m k) j = kget m j := by
  induction m with
  | nil => rfl
  | cons e r ih =>
    by_cases he : e.1 = k
    · simpa [kdel, he, kget, h.symm] using ih
    · simpa [kdel, he, kget] using congrArg (fun x => if e.1 = j then some e.2 else x) ih

/-- What is read at a key is listed there. -/
theorem mem_of_kget {α : Type} {m : KMap α} {k : Nat} {a : α} (h : kget m k = some a) : (k, a) ∈ m := by
  induction m with
  | nil => simp [kget] at h
  | cons e r ih =>
    by_cases he : e.1 = k
    · simp only [kget, he, if_true, Option.some.injEq] at h
      simp [← he, ← h]
    · simp only [kget, he, if_false] at h
      exact List.mem_cons_of_mem _ (ih h)

/-- The value at a key that is present, after a change of it. -/
theorem getD_kget_kmod_same {α : Type} {m : KMap α} {k : Nat} (h : (kget m k).isSome) (d : α) (f : α → α) :
    (kget (kmod m k f) k).getD d = f ((kget m k).getD d) := by
  obtain ⟨a, ha⟩ := Option.isSome_iff_exists.mp h
  simp [ha]

theorem State.part_modPart_same {s : State} {p : Nat} (h : (kget s.parts p).isSome) (f : Part → Part) : (s.modPart p f).part p = f (s.part p) :=
  getD_kget_kmod_same h _ f

theorem State.part_modPart_ne (s : State) {p q : Nat} (f : Part → Part) (h : q ≠ p) : (s.modPart p f).part q = s.part q := by
  simp only [State.part, State.modPart_parts, kget_kmod_ne _ _ h]

theorem State.ctx_modCtx_same {s : State} {k : Nat} (h : (kget s.ctxs k).isSome) (f : Ctx → Ctx) : (s.modCtx k f).ctx k = f (s.ctx k) :=
  getD_kget_kmod_same h _ f

theorem State.out_modOut_same {s : State} {n : Nat} (h : (kget s.outs n).isSome) (f : Out → Out) : (s.modOut n f).out n = f (s.out n) :=
  getD_kget_kmod_same h _ f

/-! ### What a record and a read leave alone (R85, R206) -/

theorem Noted.ctx_isSome {s t : State} (h : Noted s t) {k : Nat} (hk : (kget s.ctxs k).isSome) : (kget t.ctxs k).isSome := by
  obtain ⟨x, hx⟩ := Option.isSome_iff_exists.mp hk
  obtain ⟨-, -, hctx, -⟩ := h
  obtain ⟨_, ht⟩ := hctx k x hx
  simp [ht]

/-- An output that is there loses nothing but old values. -/
theorem Noted.out {s t : State} (h : Noted s t) {n : Nat} (hn : (kget s.outs n).isSome) :
    (kget t.outs n).isSome ∧ ∃ l, t.out n = { s.out n with old := l } := by
  obtain ⟨o, ho⟩ := Option.isSome_iff_exists.mp hn
  obtain ⟨-, -, -, hout⟩ := h
  obtain ⟨l, ht⟩ := hout n o ho
  exact ⟨by simp [ht], l, by simp [State.out, ht, ho]⟩

/-- Steps that each leave an agent alone do so one after another. -/
theorem Noted.foldl {α β : Type} (state : β → State) {f : β → α → β} (h : ∀ r x, Noted (state r) (state (f r x))) (l : List α) (r : β) :
    Noted (state r) (state (l.foldl f r)) := by
  induction l generalizing r with
  | nil => exact Noted.refl _
  | cons x l ih => exact (h r x).trans (ih _)

theorem State.storeDone_noted (s : State) (pa : Nat) (l : List Byte) : Noted s (s.storeDone pa l) := by
  obtain ⟨b, hmeet⟩ := s.meet_frame pa l.length
  rw [State.storeDone_eq, hmeet]
  exact Noted.foldl id State.storePiece_noted (sectorPieces pa l) { s with stalled := b }

theorem State.modFunc_noted (s : State) (fn : Nat) (f : Func → Func) : Noted s (s.modFunc fn f) := Noted.refl s

theorem State.modPart_noted (s : State) (p : Nat) (f : Part → Part) : Noted s (s.modPart p f) := Noted.refl s

theorem State.signal_noted (s : State) (fn vec : Nat) : Noted s (s.signal fn vec) := by
  rw [State.signal_frame]
  exact Noted.refl s

theorem State.logRaw_noted (s : State) (fn code ctx : Nat) (gen : Word) (tag : DWord) (data : List Byte) (sig : Bool) :
    Noted s (s.logRaw fn code ctx gen tag data sig) := by
  simp only [State.logRaw]
  split
  · exact Noted.refl s
  · split
    · exact Noted.refl s
    · split
      · exact Noted.refl s
      · split
        · exact Noted.refl s
        · cases sig with
          | false => exact .trans (.trans (s.storeDone_noted _ _) (State.modFunc_noted _ _ _)) (State.modPart_noted _ _ _)
          | true => exact .trans (.trans (s.storeDone_noted _ _) (State.modFunc_noted _ _ _)) (State.signal_noted _ _ _)

theorem State.log_noted (s : State) (fn code ctx : Nat) (gen : Word) (tag : DWord) (data : List Byte) : Noted s (s.log fn code ctx gen tag data) := by
  simp only [State.log]
  split
  · exact Noted.refl s
  · exact s.logRaw_noted ..

theorem State.logTagged_noted (s : State) (ck : Nat) (tag va : DWord) (cause : Nat) (stage2 : Bool) : Noted s (s.logTagged ck tag va cause stage2) := by
  simp only [State.logTagged]
  split
  · exact (s.log_noted ..).trans (State.log_noted ..)
  · exact s.log_noted ..

theorem State.afterTagged_noted (s : State) (ck : Nat) (tag va : DWord) (r : Acc × List Tlb) : Noted s (s.afterTagged ck tag va r) := by
  simp only [State.afterTagged]
  split
  · exact State.logTagged_noted ((s.keepTlb r.2).skip seedsPerAccess) ..
  · exact Noted.refl s

theorem State.readVirt_noted {s w : State} {ck n : Nat} {tag : Option DWord} {va : DWord} {l : Got} (h : s.readVirt ck tag va n = (w, l)) : Noted s w := by
  have hw : w = (s.readVirt ck tag va n).1 := by rw [h]
  rw [hw]
  refine Noted.foldl Prod.fst (fun r p => ?_) (pagePieces va n) (s, Got.bytes [])
  have meets : ∀ a : Acc, Noted r.1 (match a with | .dev pa _ => r.1.meet pa p.2 | _ => r.1) := by
    intro a
    cases a with
    | dev pa unc =>
      obtain ⟨b, hmeet⟩ := r.1.meet_frame pa p.2
      simp only [hmeet]
      exact Noted.refl r.1
    | host _ | park _ _ | stop _ _ => exact Noted.refl r.1
  split
  · cases tag with
    | none => exact meets _
    | some t => exact (meets _).trans (State.afterTagged_noted ..)
  · exact Noted.refl r.1

/-! ### A command that passes the checks (R45-R51) -/

/-- The fields of a command are bounded by their width. -/
theorem Cmd.at_lt (c : Cmd) (o n : Nat) : c.at o n < 256 ^ n := by
  have hbytes : ∀ l : List Byte, leNat l < 256 ^ l.length := by
    intro l
    induction l with
    | nil => simp [leNat]
    | cons b r ih =>
      have hb : b.toNat < 256 := b.isLt
      rw [List.length_cons, Nat.pow_succ, leNat]
      omega
  exact Nat.lt_of_lt_of_le (hbytes _) (Nat.pow_le_pow_right (by decide) (List.length_take_le n _))

theorem offQueue_ctx_isSome {u : State} {c : Cmd} (h : (kget u.ctxs c.ck).isSome) : (kget (offQueue u c).ctxs c.ck).isSome := by
  simpa [offQueue] using h

/-- Taking a command off its queue leaves the context's classes alone. -/
theorem offQueue_allowed {u : State} {c : Cmd} (h : (kget u.ctxs c.ck).isSome) (cls : Option Nat) :
    (offQueue u c).allowed c.ck cls = u.allowed c.ck cls := by
  cases cls with
  | none => rfl
  | some b =>
    have hallow : ((offQueue u c).ctx c.ck).allow = (u.ctx c.ck).allow := by
      simp only [State.ctx, offQueue, getD_kget_kmod_same h]
    simp only [State.allowed, hallow]

theorem State.consume_eq_offQueue (u : State) (c : Cmd) : u.consume c = offQueue u c := rfl

/-- R51: a command that passes the checks of every opcode does what its body says, off its queue. -/
theorem asCommand_next {s u : State} {fn num opc count : Nat} {cls : Option Nat} {c : Cmd} {sel reserved : Cmd → Bool}
    (h : Heads s u fn num opc count cls c) (hsel : sel c = true) (hres : reserved c = true) (body : Cmd → State → State) :
    asCommand opc count cls sel reserved fn num s body = .next (body c (offQueue u c)) := by
  obtain ⟨hhead, -, -, hctx, hopc, hcount, hallowed, hflags, hzero⟩ := h
  have hle : ¬ 2 ≤ c.at 1 1 := by omega
  simp [asCommand, asCommandWhen, hhead, State.consume_eq_offQueue, offQueue_allowed hctx, hopc, hcount, hallowed, hle, hzero, hsel, hres]

end Sys2Proof.Machine
end

section
/-! GRANT (R100-R102). -/
namespace Sys2Proof.Machine

theorem brandLegal_iff {b : Nat} : brandLegal b = true ↔ 1 ≤ b ∧ b ≤ 0xFFEF := by simp [brandLegal]

/-- R101: what a legal grant's fields are (log 94 for OUTNUM). -/
theorem State.grantOk_iff {s : State} {part : Nat} {g : Grant} :
    s.grantOk part g = true ↔ g.kind ≤ 1 ∧ g.out ≤ 3 ∧ g.grantor ≠ g.grantee ∧ (1 ≤ g.grantor.toNat ∧ g.grantor.toNat ≤ 0xFFEF)
      ∧ (1 ≤ g.grantee.toNat ∧ g.grantee.toNat ≤ 0xFFEF) ∧ g.x0 < g.x1 ∧ g.y0 < g.y1 ∧ (g.kind = 0 ∨ (s.out g.out).part = part) := by
  simp only [State.grantOk, Bool.and_eq_true, Bool.or_eq_true, decide_eq_true_eq, brandLegal_iff, and_assoc]

/-- R101: a GRANT with an illegal field. -/
theorem State.grantOk_false {s : State} {c : Cmd}
    (h : c.at 22 2 = c.at 24 2 ∨ c.at 22 2 = 0 ∨ c.at 24 2 = 0 ∨ 0xFFF0 ≤ c.at 22 2 ∨ 0xFFF0 ≤ c.at 24 2 ∨ c.at 32 2 ≤ c.at 28 2 ∨ c.at 34 2 ≤ c.at 30 2
      ∨ 1 < c.at 26 1 ∨ 3 < c.at 27 1 ∨ c.at 26 1 = 1 ∧ (s.out (c.at 27 1)).part ≠ c.part) :
    s.grantOk c.part (grantOf c) = false := by
  refine Bool.eq_false_iff.mpr fun hok => ?_
  obtain ⟨hkind, hout, hne, hgrantor, hgrantee, hx, hy, hpart⟩ := State.grantOk_iff.mp hok
  have hbrand : ∀ o, (BitVec.ofNat 16 (c.at o 2)).toNat = c.at o 2 := fun o => (BitVec.toNat_ofNat _ _).trans (Nat.mod_eq_of_lt (c.at_lt o 2))
  simp only [grantOf, hbrand] at hkind hout hne hgrantor hgrantee hx hy hpart
  have hne' : c.at 22 2 ≠ c.at 24 2 := fun he => hne (by rw [he])
  have hpart' : ¬ (c.at 26 1 = 1 ∧ (s.out (c.at 27 1)).part ≠ c.part) := by
    rintro ⟨h1, hp⟩
    exact hpart.elim (by omega) hp
  omega

/-! ### The slot (R101, R102) -/

theorem State.setGrant_frame (s : State) (part slot : Nat) (g : Option Grant) :
    s.setGrant part slot g = { s with parts := (s.setGrant part slot g).parts } := rfl

theorem State.setGrant_part_ne (s : State) {part q : Nat} (slot : Nat) (g : Option Grant) (h : q ≠ part) :
    (s.setGrant part slot g).part q = s.part q := State.part_modPart_ne _ _ h

section
variable {s : State} {part : Nat} (hp : (kget s.parts part).isSome) (slot : Nat) (g : Option Grant)
include hp

theorem State.setGrant_slot : kget ((s.setGrant part slot g).part part).grants slot = g := by
  rw [State.setGrant, State.part_modPart_same hp]
  cases g with
  | none => exact kget_kdel_same ..
  | some g => exact kget_kset_same ..

theorem State.setGrant_other {k : Nat} (h : k ≠ slot) : kget ((s.setGrant part slot g).part part).grants k = kget (s.part part).grants k := by
  rw [State.setGrant, State.part_modPart_same hp]
  cases g with
  | none => exact kget_kdel_ne _ h
  | some g => exact kget_kset_ne _ _ h

theorem State.setGrant_gen :
    kget ((s.setGrant part slot g).part part).grantGens slot = some ((kget (s.part part).grantGens slot).getD 0 + 1) := by
  rw [State.setGrant, State.part_modPart_same hp]
  exact kget_kset_same ..

theorem State.setGrant_log :
    ((s.setGrant part slot g).part part).grantLog = (s.part part).grantLog
      ++ [{ slot := slot, before := kget (s.part part).grants slot, after := g
            frames := (s.ctxs.filter fun e => partOfCtx e.1 = part).map fun e => (e.1, e.2.frame) }] := by
  rw [State.setGrant, State.part_modPart_same hp]
end

/-! ### The command -/

/-- The three actions of GRANT: what the slot must be, whether it is occupied afterwards, and the step. -/
theorem exec_grantRow (fn num : Nat) (s : State) (c : Cmd) :
    ∀ row ∈ ([(0, false, true, .grantCreate fn num), (1, true, true, .grantChange fn num), (2, true, false, .grantWithdraw fn num)] : List (Nat × Bool × Bool × Instr)),
      c.at 16 1 = row.1 → c.at 16 1 ≤ 2 ∧ ∃ sel, sel (c.at 16 1) = true ∧ exec row.2.2.2 s = grantCommand sel row.2.1 (!row.2.2.1) fn num s := by
  simp only [List.forall_mem_cons, List.not_mem_nil, false_imp_iff, implies_true, and_true]
  refine ⟨fun h => ⟨?_, fun a => a = 0 || a > 2, ?_, rfl⟩, fun h => ⟨?_, (· = 1), ?_, rfl⟩, fun h => ⟨?_, (· = 2), ?_, rfl⟩⟩
  all_goals simp [h]

section
variable {s u : State} {fn num : Nat} {c : Cmd} {sel : Nat → Bool} (h : Heads s u fn num 9 2 (some 6) c) (hres : grantReserved c = true)
  (hsel : sel (c.at 16 1) = true) (occupied withdraw : Bool)
include h hres hsel

/-- R101: a GRANT that finds its slot otherwise, or has an illegal field, is refused. -/
theorem grantCommand_refused
    (hbad : 255 < c.at 18 2 ∨ c.at 20 2 ≠ ((kget ((offQueue u c).part c.part).grantGens (c.at 18 2)).getD 0).toNat
      ∨ (kget ((offQueue u c).part c.part).grants (c.at 18 2)).isSome ≠ occupied ∨ (offQueue u c).grantOk c.part (grantOf c) = false) :
    grantCommand sel occupied withdraw fn num s = .next ((offQueue u c).refuse c 4 []) := by
  rw [grantCommand, asCommand_next h hsel hres]
  refine congrArg _ (if_pos ?_)
  simp only [Bool.or_eq_true, decide_eq_true_eq, Bool.not_eq_true', gt_iff_lt]
  obtain hslot | hgen | hocc | hfields := hbad
  · exact .inl (.inl (.inl (.inr hslot)))
  · exact .inl (.inl (.inr hgen))
  · exact .inl (.inr hocc)
  · exact .inr hfields

/-- R101: a GRANT that is not refused sets its slot. -/
theorem grantCommand_set (hact : c.at 16 1 ≤ 2) (hslot : c.at 18 2 ≤ 255)
    (hgen : c.at 20 2 = ((kget ((offQueue u c).part c.part).grantGens (c.at 18 2)).getD 0).toNat)
    (hocc : (kget ((offQueue u c).part c.part).grants (c.at 18 2)).isSome = occupied) (hok : (offQueue u c).grantOk c.part (grantOf c) = true) :
    grantCommand sel occupied withdraw fn num s
      = .next (((offQueue u c).setGrant c.part (c.at 18 2) (if withdraw then none else some (grantOf c))).done c) := by
  rw [grantCommand, asCommand_next h hsel hres]
  refine congrArg _ (if_neg ?_)
  simp only [Bool.or_eq_true, decide_eq_true_eq, Bool.not_eq_true', gt_iff_lt]
  rintro ((((hact' | hslot') | hgen') | hocc') | hok')
  · omega
  · omega
  · exact hgen' hgen
  · exact hocc' hocc
  · exact absurd (hok.symm.trans hok') Bool.noConfusion
end

end Sys2Proof.Machine
end

section
/-! OWNMAP (R95-R99, R104). -/
namespace Sys2Proof.Machine

/-- Two bounds that a command keeps, in the form in which its body checks them. -/
theorem not_exceeds {a b m n : Nat} (ha : a ≤ m) (hb : b ≤ n) : (decide (a > m) || decide (b > n)) = false := by
  simp only [Bool.or_eq_false_iff, decide_eq_false_iff_not]
  omega

section
variable {s u w : State} {fn num : Nat} {c : Cmd} {sel : Nat → Bool} (h : Heads s u fn num 10 2 (some 6) c) (hres : ownReserved c = true)
  (hsel : sel (c.at 16 1) = true) (body : Cmd → Out → State → State × Except Nat MapWrite)
include h hres hsel

theorem ownCommand_noOutput (hn : 3 < c.at 17 1) : ownCommand sel fn num s body = .next ((offQueue u c).refuse c 4 []) := by
  rw [ownCommand, asCommand_next h hsel hres]
  exact congrArg _ (if_pos (Bool.or_eq_true_iff.mpr (.inr (decide_eq_true hn))))

variable (hact : c.at 16 1 ≤ 3) (hn : c.at 17 1 ≤ 3)
include hact hn

theorem ownCommand_otherPart (hpart : ((offQueue u c).out (c.at 17 1)).part ≠ c.part) :
    ownCommand sel fn num s body = .next ((offQueue u c).refuse c 3 []) := by
  rw [ownCommand, asCommand_next h hsel hres]
  exact congrArg _ ((if_neg (Bool.not_eq_true _ ▸ not_exceeds hact hn)).trans (if_pos hpart))

/-- R98: an OWNMAP of the partition's own output is refused as its check says. -/
theorem ownCommand_error (hpart : ((offQueue u c).out (c.at 17 1)).part = c.part) {st : Nat}
    (hbody : body c ((offQueue u c).out (c.at 17 1)) (offQueue u c) = (w, .error st)) :
    ownCommand sel fn num s body = .next (w.refuse c st []) := by
  rw [ownCommand, asCommand_next h hsel hres]
  simp only [not_exceeds hact hn, hpart, hbody, ne_eq, not_true_eq_false, if_false, Bool.false_eq_true]

/-- R99: or its write waits for the next latch point. -/
theorem ownCommand_ok (hpart : ((offQueue u c).out (c.at 17 1)).part = c.part) {m : MapWrite}
    (hbody : body c ((offQueue u c).out (c.at 17 1)) (offQueue u c) = (w, .ok m)) :
    ownCommand sel fn num s body = .next ((w.modOut (c.at 17 1) fun o => { o with pendingMaps := o.pendingMaps ++ [m] }).done c) := by
  rw [ownCommand, asCommand_next h hsel hres]
  simp only [not_exceeds hact hn, hpart, hbody, ne_eq, not_true_eq_false, if_false, Bool.false_eq_true]
end

/-- The actions of OWNMAP that write an output's map, and their steps. -/
def mapActions (fn num : Nat) : List (Nat × Instr) := [(0, .ownmapTiles fn num), (1, .ownmapBlocks fn num), (3, .ownmapRegion fn num)]

theorem exec_ownmapTiles (fn num : Nat) (s : State) : exec (.ownmapTiles fn num) s = execOwnmapTiles fn num s := rfl
theorem exec_ownmapBlocks (fn num : Nat) (s : State) : exec (.ownmapBlocks fn num) s = execOwnmapBlocks fn num s := rfl
theorem exec_ownmapRegion (fn num : Nat) (s : State) : exec (.ownmapRegion fn num) s = execOwnmapRegion fn num s := rfl

theorem forall_mem_mapActions {fn num : Nat} {P : Nat × Instr → Prop} :
    (∀ row ∈ mapActions fn num, P row) ↔ P (0, .ownmapTiles fn num) ∧ P (1, .ownmapBlocks fn num) ∧ P (3, .ownmapRegion fn num) := by
  simp [mapActions]

theorem exec_mapAction (fn num : Nat) (s : State) (c : Cmd) :
    ∀ row ∈ mapActions fn num, c.at 16 1 = row.1 → c.at 16 1 ≤ 3 ∧ ∃ sel body, sel (c.at 16 1) = true ∧ exec row.2 s = ownCommand sel fn num s body := by
  refine forall_mem_mapActions.mpr ⟨fun h => ⟨?_, _, _, ?_, exec_ownmapTiles fn num s⟩, fun h => ⟨?_, _, _, ?_, exec_ownmapBlocks fn num s⟩,
    fun h => ⟨?_, _, _, ?_, exec_ownmapRegion fn num s⟩⟩
  all_goals simp [h]

section
variable {s u : State} {fn num : Nat} {c : Cmd} (h : Heads s u fn num 10 2 (some 6) c) (hres : ownReserved c = true)
include h hres

theorem mapAction_noOutput (hn : 3 < c.at 17 1) :
    ∀ row ∈ mapActions fn num, c.at 16 1 = row.1 → exec row.2 s = .next ((offQueue u c).refuse c 4 []) := by
  intro row hrow hact
  obtain ⟨-, sel, body, hsel, hexec⟩ := exec_mapAction fn num s c row hrow hact
  rw [hexec, ownCommand_noOutput h hres hsel body hn]

theorem mapAction_otherPart (hn : c.at 17 1 ≤ 3) (hpart : ((offQueue u c).out (c.at 17 1)).part ≠ c.part) :
    ∀ row ∈ mapActions fn num, c.at 16 1 = row.1 → exec row.2 s = .next ((offQueue u c).refuse c 3 []) := by
  intro row hrow hact
  obtain ⟨hle, sel, body, hsel, hexec⟩ := exec_mapAction fn num s c row hrow hact
  rw [hexec, ownCommand_otherPart h hres hsel body hle hn hpart]
end

/-! ### The writes of an own output (R96-R99, R104) -/

section
variable {s u w : State} {fn num : Nat} {c : Cmd} (h : Heads s u fn num 10 2 (some 6) c) (hres : ownReserved c = true) (hn : c.at 17 1 ≤ 3)
  (hpart : ((offQueue u c).out (c.at 17 1)).part = c.part)

section
include h hres hn hpart

/-- R98: a rectangle of tiles reaches outside the active area. -/
theorem execOwnmapTiles_outside (hact : c.at 16 1 = 0)
    (hout : tilesOf ((offQueue u c).out (c.at 17 1)).cfg.hactive < c.at 20 2 + c.at 24 2
      ∨ tilesOf ((offQueue u c).out (c.at 17 1)).cfg.vactive < c.at 22 2 + c.at 26 2) :
    execOwnmapTiles fn num s = .next ((offQueue u c).refuse c 4 []) := by
  refine ownCommand_error h hres (by simp [hact]) _ (by omega) hn hpart (if_pos ?_)
  simp only [Bool.or_eq_true, decide_eq_true_eq]
  exact hout.elim (fun hx => .inl (.inr hx)) .inr
end

section
variable {l : List Byte} (hact : c.at 16 1 = 0) (hplane : c.at 18 1 ≤ 1)
  (hx : c.at 20 2 + c.at 24 2 ≤ tilesOf ((offQueue u c).out (c.at 17 1)).cfg.hactive)
  (hy : c.at 22 2 + c.at 26 2 ≤ tilesOf ((offQueue u c).out (c.at 17 1)).cfg.vactive)
  (hread : (offQueue u c).readVirt c.ck (some c.tag) (c.addr 32) (4 * c.at 24 2 * c.at 26 2) = (w, .bytes l))
include hplane hx hy

theorem ownTiles_inside : (decide (c.at 18 1 > 1) || decide (c.at 20 2 + c.at 24 2 > tilesOf ((offQueue u c).out (c.at 17 1)).cfg.hactive)
    || decide (c.at 22 2 + c.at 26 2 > tilesOf ((offQueue u c).out (c.at 17 1)).cfg.vactive)) = false := by
  simp only [Bool.or_eq_false_iff, decide_eq_false_iff_not]
  omega

include h hres hn hpart hact hread

/-- R98: an entry is not legal. -/
theorem execOwnmapTiles_illegal (hes : ((unpack 4 l).map (BitVec.ofNat 32)).all tileLegal = false) :
    execOwnmapTiles fn num s = .next (w.refuse c 4 []) := by
  refine ownCommand_error h hres (by simp [hact]) _ (by omega) hn hpart ?_
  simp only [ownTiles_inside hplane hx hy, hread, hes, if_false, Bool.false_eq_true]

/-- R97, R99: the entries wait for the next latch point. -/
theorem execOwnmapTiles_legal (hes : ((unpack 4 l).map (BitVec.ofNat 32)).all tileLegal = true) :
    execOwnmapTiles fn num s = .next ((w.modOut (c.at 17 1) fun o => { o with pendingMaps := o.pendingMaps ++
      [.tiles (c.at 18 1 = 1) (c.at 20 2) (c.at 22 2) (c.at 24 2) (c.at 26 2) ((unpack 4 l).map (BitVec.ofNat 32))] }).done c) := by
  refine ownCommand_ok h hres (by simp [hact]) _ (by omega) hn hpart ?_
  simp only [ownTiles_inside hplane hx hy, hread, hes, if_false, if_true, Bool.false_eq_true]
end

include h hres hn hpart

/-- R97, R99: brands of pool blocks wait for the next latch point. -/
theorem execOwnmapBlocks_legal {l : List Byte} (hact : c.at 16 1 = 1) (hplane : c.at 18 1 ≤ 1) (hblocks : c.at 20 2 + c.at 24 2 ≤ 4096)
    (hread : (offQueue u c).readVirt c.ck (some c.tag) (c.addr 32) (512 * c.at 24 2) = (w, .bytes l)) (hbs : (unpack 2 l).all (· < 0xFFF0) = true) :
    execOwnmapBlocks fn num s = .next ((w.modOut (c.at 17 1) fun o => { o with pendingMaps := o.pendingMaps ++
      [.blocks (c.at 18 1 = 1) (c.at 20 2) ((unpack 2 l).map (BitVec.ofNat 16))] }).done c) := by
  refine ownCommand_ok h hres (by simp [hact]) _ (by omega) hn hpart ?_
  simp only [not_exceeds hplane hblocks, hread, hbs, if_false, if_true, Bool.false_eq_true]

/-- R104: so does a region. -/
theorem execOwnmapRegion_legal (hact : c.at 16 1 = 3) (hslot : c.at 40 1 ≤ 15) (heffect : c.at 41 1 ≤ 3) (hkernel : c.at 42 1 ≤ 3)
    (hx : c.at 52 2 ≤ ((offQueue u c).out (c.at 17 1)).cfg.hactive) (hy : c.at 54 2 ≤ ((offQueue u c).out (c.at 17 1)).cfg.vactive) :
    execOwnmapRegion fn num s = .next (((offQueue u c).modOut (c.at 17 1) fun o => { o with pendingMaps := o.pendingMaps ++
      [.region (c.at 40 1) (regionOf c)] }).done c) := by
  refine ownCommand_ok h hres (by simp [hact]) _ (by omega) hn hpart ?_
  have hok : (decide (c.at 40 1 > 15) || decide ((regionOf c).effect > 3) || decide ((regionOf c).kernel > 3)
      || decide ((regionOf c).x1 > ((offQueue u c).out (c.at 17 1)).cfg.hactive)
      || decide ((regionOf c).y1 > ((offQueue u c).out (c.at 17 1)).cfg.vactive)) = false := by
    simp only [Bool.or_eq_false_iff, decide_eq_false_iff_not]
    exact ⟨⟨⟨⟨Nat.not_lt.mpr hslot, Nat.not_lt.mpr heffect⟩, Nat.not_lt.mpr hkernel⟩, Nat.not_lt.mpr hx⟩, Nat.not_lt.mpr hy⟩
  simp only [hok, if_false, Bool.false_eq_true]
end

/-! ### OWNMAP_ASSIGN (R95) -/

/-- R95: the state when the entries that wait to be shown on an output have raised event 0x11. -/
def State.showsRetired (s : State) (n : Nat) : State :=
  (s.out n).shows.foldl (fun t e => t.outEvent 0x11 e.ctx e.tag e.gen (outData n 0 ((s.out n).scan - 1))) s

theorem State.showsRetired_noted (s : State) (n : Nat) : Noted s (s.showsRetired n) :=
  Noted.foldl id (fun _ _ => State.log_noted ..) (s.out n).shows s

theorem State.assignOut_outs (s : State) (n part : Nat) :
    (s.assignOut n part).outs = kmod (s.showsRetired n).outs n fun o =>
      { o with part := part, shows := [], captures := [], pendingMaps := o.pendingMaps ++ [.assign] } := rfl

theorem State.assignOut_parts (s : State) (n part : Nat) :
    (s.assignOut n part).parts = kmapAll (s.showsRetired n).parts fun _ p => p.dropOutGrants n := rfl

/-- R95: an output that is there is the new partition's at once; its map goes with the next latch point. -/
theorem State.assignOut_out {s : State} {n : Nat} (hn : (kget s.outs n).isSome) (part : Nat) :
    ∃ l, (s.assignOut n part).out n
      = { s.out n with part := part, shows := [], captures := [], pendingMaps := (s.out n).pendingMaps ++ [.assign], old := l } := by
  obtain ⟨hn', l, hout⟩ := (s.showsRetired_noted n).out hn
  refine ⟨l, ?_⟩
  rw [State.out, State.assignOut_outs, getD_kget_kmod_same hn', ← State.out, hout]

theorem Part.dropOutGrants_grants {p : Part} {n i : Nat} {g : Grant} (h : kget (p.dropOutGrants n).grants i = some g) (hkind : g.kind = 1) :
    g.out ≠ n := by
  obtain ⟨-, hkeep⟩ := List.mem_filter.mp (mem_of_kget h)
  simpa [hkind] using hkeep

/-- R95: no grant of such an output is left. -/
theorem State.assignOut_grants {s : State} {n part q i : Nat} {g : Grant} (hg : kget ((s.assignOut n part).part q).grants i = some g)
    (hkind : g.kind = 1) : g.out ≠ n := by
  rw [State.part, State.assignOut_parts, kget_kmapAll] at hg
  cases hq : kget (s.showsRetired n).parts q with
  | none => simp [hq, kget] at hg
  | some p =>
    rw [hq] at hg
    exact Part.dropOutGrants_grants hg hkind

theorem execOwnmapAssign_virtual {s u : State} {fn num : Nat} {c : Cmd} (h : Heads s u fn num 10 2 (some 6) c) (hres : ownReserved c = true)
    (hact : c.at 16 1 = 2) (hfn : fn ≠ 0) : execOwnmapAssign fn num s = .next ((offQueue u c).refuse c 3 []) := by
  rw [execOwnmapAssign, asCommand_next h (by simpa using hact) hres]
  exact congrArg _ (if_pos hfn)

theorem execOwnmapAssign_physical {s u : State} {num : Nat} {c : Cmd} (h : Heads s u 0 num 10 2 (some 6) c) (hres : ownReserved c = true)
    (hact : c.at 16 1 = 2) (hn : c.at 17 1 ≤ 3) (hpart : c.at 28 4 ∈ partNumbers) :
    execOwnmapAssign 0 num s = .next (((offQueue u c).assignOut (c.at 17 1) (c.at 28 4)).done c) := by
  rw [execOwnmapAssign, asCommand_next h (by simpa using hact) hres]
  have hok : (decide (c.at 17 1 > 3) || !partNumbers.contains (c.at 28 4)) = false := by
    rw [List.contains_iff_mem.mpr hpart, decide_eq_false (Nat.not_lt.mpr hn)]
    rfl
  simp only [hok, ne_eq, not_true_eq_false, if_false, Bool.false_eq_true]

end Sys2Proof.Machine
end

section
/-! PRESENT (R106-R108). -/
namespace Sys2Proof.Machine

/-- R94: a frame in which no write was suppressed ends without an event. -/
theorem State.endFrame_quiet {s : State} {c : Cmd} (h : (s.ctx c.ck).suppressed = 0) :
    s.endFrame c = s.modCtx c.ck fun x => { x with frame := (x.frame + 1) % 2 ^ 32, suppressed := 0 } := by
  simp only [State.endFrame, h, if_true]

/-- R108: an entry joins the queue of its kind. -/
theorem Out.push_queues (o : Out) (p : Present) :
    (o.push p).shows = o.shows ++ (if p.capture then [] else [p]) ∧ (o.push p).captures = o.captures ++ if p.capture then [p] else [] := by
  cases h : p.capture <;> simp [Out.push, h]

section
variable {s : State} {c : Cmd} {p : Present} (hctx : (kget s.ctxs c.ck).isSome) (hquiet : (s.ctx c.ck).suppressed = 0)
include hctx hquiet

/-- R107, R108: with room in the output's queue the PRESENT joins it, and its context's frame ends. -/
theorem State.present_room (hout : (kget s.outs p.out).isSome) (hroom : ((s.out p.out).queued c.ck p.capture).length < 4) :
    ∃ t : State, s.present c p = t.done c ∧ (t.ctx c.ck).frame = ((s.ctx c.ck).frame + 1) % 2 ^ 32
      ∧ (t.out p.out).shows = (s.out p.out).shows ++ (if p.capture then [] else [p])
      ∧ (t.out p.out).captures = (s.out p.out).captures ++ if p.capture then [p] else [] := by
  refine ⟨(s.endFrame c).modOut p.out fun o => o.push p, ?_⟩
  have hroom' : (((s.endFrame c).out p.out).queued c.ck p.capture).length < 4 := by
    rw [State.endFrame_quiet hquiet]
    exact hroom
  refine ⟨by rw [State.present]; exact if_pos hroom', ?_⟩
  rw [State.endFrame_quiet hquiet]
  refine ⟨congrArg Ctx.frame (State.ctx_modCtx_same hctx _), ?_⟩
  have hpush := State.out_modOut_same (s := s.modCtx c.ck fun x => { x with frame := (x.frame + 1) % 2 ^ 32, suppressed := 0 }) hout fun o => o.push p
  rw [hpush]
  exact Out.push_queues _ p

/-- R108: without room it holds its queue. -/
theorem State.present_full (hfull : 4 ≤ ((s.out p.out).queued c.ck p.capture).length) :
    ((s.present c p).queue c.ck).hold = some (.present p c.seq) ∧ (s.present c p).outs = s.outs
      ∧ ((s.present c p).ctx c.ck).frame = ((s.ctx c.ck).frame + 1) % 2 ^ 32 := by
  have hnoroom : ¬ (((s.endFrame c).out p.out).queued c.ck p.capture).length < 4 := by
    rw [State.endFrame_quiet hquiet]
    exact Nat.not_lt.mpr hfull
  have hpresent : s.present c p = ((s.endFrame c).openCmd c).modQueue c.ck fun q => { q with hold := some (.present p c.seq) } := by
    rw [State.present]
    exact if_neg hnoroom
  rw [hpresent, State.endFrame_quiet hquiet]
  simp only [State.queue, State.openCmd, State.modQueue]
  rw [State.ctx_modCtx_same (by simpa using hctx), State.ctx_modCtx_same (by simpa using hctx), State.ctx_modCtx_same hctx]
  exact ⟨rfl, rfl, rfl⟩
end

/-! ### The command -/

/-- The step of a PRESENT's kind. -/
theorem exec_presentKind (fn num : Nat) (s : State) (c : Cmd) :
    ∃ sel capture, sel (c.at 25 1) = true
      ∧ exec (if c.at 25 1 = 1 then .presentCapture fn num else .presentShow fn num) s = presentCommand sel capture fn num s := by
  by_cases h : c.at 25 1 = 1
  · exact ⟨(· = 1), true, by simp [h], by rw [if_pos h]; rfl⟩
  · exact ⟨(· ≠ 1), false, by simp [h], by rw [if_neg h]; rfl⟩

section
variable {s u w : State} {fn num : Nat} {c : Cmd} {sel : Nat → Bool} (h : Heads s u fn num 5 1 (some 3) c) (hres : presentReserved c = true)
  (hsel : sel (c.at 25 1) = true) (hheld : (s.queue (ctxKey (partOfFn fn) num)).hold = none) (capture : Bool)
include h hres hsel hheld

theorem presentCommand_noOutput (hn : 3 < c.at 24 1) : presentCommand sel capture fn num s = .next ((offQueue u c).refuse c 4 []) := by
  simp only [presentCommand, hheld, Option.isSome_none, Bool.false_eq_true, if_false]
  rw [asCommand_next h hsel hres]
  exact congrArg _ (if_pos hn)

variable (hn : c.at 24 1 ≤ 3)
include hn

theorem presentCommand_otherPart (hpart : ((offQueue u c).out (c.at 24 1)).part ≠ c.part) :
    presentCommand sel capture fn num s = .next ((offQueue u c).refuse c 3 []) := by
  simp only [presentCommand, hheld, Option.isSome_none, Bool.false_eq_true, if_false]
  rw [asCommand_next h hsel hres]
  exact congrArg _ ((if_neg (by omega)).trans (if_pos hpart))

/-- R107: a PRESENT whose descriptor is read, of the partition's own output. -/
theorem presentCommand_read (hpart : ((offQueue u c).out (c.at 24 1)).part = c.part) (halign : c.at 16 8 % 64 = 0) {l : List Byte}
    (hread : (offQueue u c).readVirt c.ck (some c.tag) (c.addr 16) 64 = (w, .bytes l)) :
    presentCommand sel capture fn num s = .next (
      if w.presentStatus c l ≠ 0 then w.refuse c (w.presentStatus c l) []
      else w.present c { ctx := c.ck, surf := Surf.parse l, out := c.at 24 1, capture := c.at 25 1 = 1, ratediv := c.at 26 1, ox := c.at 28 2, oy := c.at 30 2
                         fill := BitVec.ofNat 32 (c.at 32 4), stamp := (w.ctx c.ck).frame, tag := c.tag, gen := c.gen, need := c.seq }) := by
  simp only [presentCommand, hheld, Option.isSome_none, Bool.false_eq_true, if_false]
  rw [asCommand_next h hsel hres]
  have hle : ¬ c.at 24 1 > 3 := by omega
  simp only [hle, hpart, halign, hread, ne_eq, not_true_eq_false, if_false]
end

end Sys2Proof.Machine
end

section
/-! The statement about GRANT, OWNMAP and PRESENT. -/
namespace Sys2Proof.Machine

/-- Settles O50: every command passes the checks of R51 at its queue's head (`asCommand_next`); then each is its own checks and its one effect. -/
theorem compositionCommandResults : Obligations.CompositionCommandResults := by
  rintro s u fn num c v rfl
  refine ⟨?grant, ?ownNoOutput, ?own, ?present⟩
  case grant =>
    rintro h hres hparts p slot rfl rfl row hrow hact
    obtain ⟨hle, sel, hsel, hexec⟩ := exec_grantRow fn num s c row hrow hact
    rw [hexec]
    refine ⟨fun hbad => grantCommand_refused h hres hsel _ _ ?_, fun hslot hgen hocc hok => ?_⟩
    · exact hbad.imp_right (Or.imp_right (Or.imp_right State.grantOk_false))
    · refine ⟨_, grantCommand_set h hres hsel _ _ hle hslot hgen hocc hok, State.setGrant_frame .., fun q hq => State.setGrant_part_ne _ _ _ hq,
        ?_, fun k hk => State.setGrant_other hparts _ _ hk, State.setGrant_gen hparts .., ?_⟩
      · rw [State.setGrant_slot hparts]
        cases row.2.2.1 <;> rfl
      · rw [State.setGrant_log hparts]
        cases row.2.2.1 <;> rfl
  case ownNoOutput =>
    intro h hres hn
    exact forall_mem_mapActions.mp (mapAction_noOutput h hres hn)
  case own =>
    rintro h hres hn hout n o rfl rfl
    refine ⟨fun hp => ?_, fun hp ha hplane => ⟨?_, ?_⟩, fun w l hp ha hplane => ?_, fun hp ha => ?_, fun ha => ⟨?_, ?_⟩⟩
    · exact forall_mem_mapActions.mp (mapAction_otherPart h hres hn hp)
    · exact execOwnmapTiles_outside h hres hn hp ha
    · rintro w l es hx hy hread rfl
      exact ⟨execOwnmapTiles_illegal h hres hn hp ha hplane hx hy hread, execOwnmapTiles_legal h hres hn hp ha hplane hx hy hread⟩
    · exact execOwnmapBlocks_legal h hres hn hp ha hplane
    · exact execOwnmapRegion_legal h hres hn hp ha
    · exact execOwnmapAssign_virtual h hres ha
    · rintro rfl hpart
      obtain ⟨old, hassigned⟩ := State.assignOut_out hout (c.at 28 4)
      refine ⟨_, execOwnmapAssign_physical h hres ha hn hpart, ?_⟩
      rw [hassigned]
      exact ⟨rfl, rfl, rfl, rfl, rfl, fun q i g => State.assignOut_grants⟩
  case present =>
    rintro h hres hheld - n i rfl rfl
    obtain ⟨sel, capture, hsel, hexec⟩ := exec_presentKind fn num s c
    rw [hexec]
    refine ⟨presentCommand_noOutput h hres hsel hheld capture, presentCommand_otherPart h hres hsel hheld capture, fun w l hn hpart halign hread => ?_⟩
    rw [presentCommand_read h hres hsel hheld capture hn hpart halign hread]
    refine ⟨fun hst => congrArg _ (if_pos hst), ?_⟩
    rintro p hout hst hquiet rfl
    have hnoted := State.readVirt_noted hread
    obtain ⟨-, -, -, hctx, -⟩ := h
    have hctx' := hnoted.ctx_isSome (offQueue_ctx_isSome hctx)
    obtain ⟨hout', -⟩ := hnoted.out hout
    rw [if_neg fun hne => hne hst]
    refine ⟨fun hroom => ?_, fun hfull => ⟨_, rfl, State.present_full hctx' hquiet hfull⟩⟩
    obtain ⟨t, ht, hqueues⟩ := State.present_room hctx' hquiet hout' hroom
    exact ⟨t, congrArg _ ht, hqueues⟩

end Sys2Proof.Machine
end
